-- ==== Sys2Proof/Word.lean ====
section
/-! DEFINITION. The word types of the Carorarun X4 and their plainest readings (R6, R71). -/
namespace Sys2Proof

/-- A 64-bit scalar value: x-, a-, mp- and q-registers (R18), bundle headers and syllables (R35, R42). -/
abbrev Word := BitVec 64

/-- The smallest addressable unit of scratch, of object storage and of host memory (R6). -/
abbrev Byte := BitVec 8

/-- The 512-byte image of a vector register (R18, R126). -/
abbrev VBits := BitVec 4096

/-- A 512-bit vector mask: one bit per byte element (R18). -/
abbrev MBits := BitVec 512

/-- A 5-bit format code (R107). -/
abbrev Fmt := BitVec 5

/-- A microword of the matrix engine (R184). -/
abbrev Microword := BitVec 128

end Sys2Proof
end

