-- ==== Sys2Proof/Syntax.lean ====
section
/-! DEFINITION. The abstract syntax of Agien 1 and of the device's other indivisible steps: ONE inductive `Instr`,
one constructor per row of spec/opcode_table.json. A row is a slot syllable (R61 to R68), a microword of the matrix
engine (R69), or a step of an engine, a home, the dispatcher, the object manager, the host port or the management
controller (95_what_each_step_holds.md). -/
namespace Sys2Proof

/-! ### Enumerations of the operand fields -/

/-- The seven slots of a bundle, in encoding order (R16). -/
inductive Slot | s | v0 | v1 | m | c0 | c1 | y
deriving DecidableEq, Repr

/-- The rounding modes (R44). -/
inductive Rm | rne | rtz | rup | rdn | rna | odd
deriving DecidableEq, Repr

/-- The conditions of CMP and CMPI (R82). -/
inductive Cond | eq | ne | lt | ge | ltn | gen | le | gt
deriving DecidableEq, Repr

/-- The conditions of SFCMP and VCMP (R88, R142). -/
inductive FCond | eq | ne | lt | le | gt | ge | un
deriving DecidableEq, Repr

/-- The access sizes of LDS (R62). -/
inductive LdSize | b | bs | h | hs | w | ws | d
deriving DecidableEq, Repr

/-- The access sizes of STS (R62). -/
inductive StSize | b | h | w | d
deriving DecidableEq, Repr

/-- The condition sources of BR (R63). -/
inductive BrSrc | pred (p : Fin 16) | mdone | mfault
deriving DecidableEq, Repr

/-- The mask operand of a vector syllable: MEN = 0, or MEN = 1 with its register and MZ (R129). -/
inductive MaskOp | all | mask (m : Fin 8) (z : Bool)
deriving DecidableEq, Repr

/-- The operations of VRED (R159). -/
inductive VRedOp | sum | min | max | argmax | argmin
deriving DecidableEq, Repr

/-- The operations of VSCAN (R160). -/
inductive VScanOp | sum | min | max
deriving DecidableEq, Repr

/-- The element sizes of VGATH and VSCAT (R157). -/
inductive GSize | b | h | w | d
deriving DecidableEq, Repr

/-- The queries of INFO (R217). -/
inductive InfoQ | form | dim01 | dim23 | dim45 | ver | pages
deriving DecidableEq, Repr

/-- The modifiers of FETCH (R220). -/
inductive FetchMod | plain | noalloc | nooc
deriving DecidableEq, Repr

/-- The kinds of COLL (R226). -/
inductive CollKind | red | ag | bc
deriving DecidableEq, Repr

/-- The scopes (R46), in code order. -/
inductive Scope | core | gang | die | package | rack | system
deriving DecidableEq, Repr

/-- The ORD codes (R46). -/
inductive Ord | rlx | acq | rel | acqrel
deriving DecidableEq, Repr

/-- The operations of ATOM (R68); RED takes the first six. -/
inductive AtomOp | add | min | max | and | or | xor | swp | cas
deriving DecidableEq, Repr

/-- A landing slot and its due offset (R23). -/
structure Due where
  q   : Fin 16
  off : Fin 256
deriving DecidableEq, Repr

/-- The register, tuple and tile-shape fields shared by the tile transfers (R46 C.OBJ, R214). -/
structure Tile where
  h  : Fin 16
  t  : Fin 16
  sh : Fin 64
deriving DecidableEq, Repr

/-! ### Fields of the microword (R184) -/

/-- The rounding selector of a cell operation: a mode, or 110 for the mode in ARG2[2:0]. -/
inductive MRm | mode (r : Rm) | arg
deriving DecidableEq, Repr

/-- SKIP: always performed, or withheld on the last iteration of a level (R186). -/
inductive Skip | always | last (level : Fin 2)
deriving DecidableEq, Repr

/-- NSEL and CNT: an immediate count, or an argument word ARG0 to ARG11 (R185). -/
inductive Count | imm (n : Fin 65536) | arg (k : Fin 12)
deriving DecidableEq, Repr

/-- STG: a stage by number, or the stage that is not active (R189). -/
inductive Stg | stage (k : Fin 2) | other
deriving DecidableEq, Repr

/-- SRC of BLD (R189). -/
inductive BSrc | scratch | furrow (f : Fin 32) | arg
deriving DecidableEq, Repr

/-- FILL of ZERO (R188). -/
inductive Fill | zero | low | high
deriving DecidableEq, Repr

/-- The fields of a cell operation (R187). -/
structure Cell where
  rm   : MRm
  skip : Skip
  cnt  : Count
  row0 : Fin 256
  kb   : Fin 4096
deriving DecidableEq, Repr

/-- The fields of an MLOOP open (R192). -/
structure MLoop where
  lvl   : Fin 2
  rew   : Bool
  dist  : Fin 4096
  kstep : Fin 256
  rstep : Fin 512
  cnt   : Count
deriving DecidableEq, Repr

/-! ### Host commands and other operands of the device's own steps -/

/-- A host command as the queue core accepted it: its pair, journal entry and fields (R331, R333). -/
structure Command where
  pair : Nat
  seq  : Nat
  opc  : BitVec 8
  ord  : Bool
  tag  : BitVec 32
  plot : BitVec 32
  a32  : BitVec 32
  w0   : Word
  w1   : Word
  w2   : Word
  w3   : Word
  w4   : Word
  w5   : Word
deriving DecidableEq, Repr

/-- A page of one version of an object: home package, table index, version (0 for LIVE) and page number (R29). -/
structure PageRef where
  home  : Nat
  index : Nat
  ver   : Nat
  page  : Nat
deriving DecidableEq, Repr

/-- A row of one bank of a memory controller, named by its event source number (R320, R326). -/
structure RowRef where
  ctrl : Nat
  bank : Nat
  row  : Nat
deriving DecidableEq, Repr

/-- A granule of a host-shared object (R329). -/
structure GranuleRef where
  home    : Nat
  index   : Nat
  granule : Nat
deriving DecidableEq, Repr

/-- A resource that the corrected-error counters watch (R343). -/
inductive Resource
  | sramRow (unit bank row : Nat)
  | dramRow (unit bank row : Nat) (at_ : PageRef)
  | lane (port lane : Nat)
  | coreUnit (core : Nat)
deriving DecidableEq, Repr

/-- Where an uncorrectable error lies (R344). -/
inductive ErrorPlace
  | line (at_ : PageRef) (line : Nat)
  | scratch (core line : Nat)
  | coreRegs (core : Nat)
  | cleanCache
  | dirtyTenant (root : Nat)
  | dirtyKernel (io core : Nat)
deriving DecidableEq, Repr

/-- The parameter sets with which firmware is signed (R347); a set of another number is none of them. -/
inductive SigSet | sha2_128s | sha2_192s | sha2_256s | other (n : Nat)
deriving DecidableEq, Repr

/-- A firmware image with its signature (R347). -/
structure FwImage where
  set   : SigSet
  bytes : List Byte
  sig   : List Byte
deriving DecidableEq, Repr

/-- A place that may hold casts of a page: this package, a rack position, or another rack (R237). -/
inductive CastPlace | here | position (p : Nat) | rack (r : Nat)
deriving DecidableEq, Repr

/-- A place in the host's windows: an offset in BAR0, or in BAR2 (R330, R335, R336). -/
inductive HostAddr | bar0 (off : Nat) | bar2 (off : Nat)
deriving DecidableEq, Repr

/-- An access to a granule of a host-shared object (R329): a task's or the object manager's, by request or command number, or a
load or store of the host at an offset of the granule (CXL.mem, R328). -/
inductive GranuleAccess
  | device (key : Nat)
  | command (seq : Nat)
  | load (off n : Nat)
  | store (off : Nat) (data : List Byte)
deriving DecidableEq, Repr

/-- A line as links carry it (R322, R325): line number, tag, and the image of its sectors, or all of its bytes where a unit on the
way has not advertised the format. -/
structure SentLine where
  line  : Nat
  tag   : Nat
  image : List Byte
deriving DecidableEq, Repr

/-- What a link message carries (R340): a peer's handshake, which tells whether it holds compressed lines (R325); a synchronising
request of another package's party with its own number, the reply to one that this package sent, a participant of a collective and
its bytes (R226), a peer's read of lines of a version and the lines that answer it (R237, R325), an invalidation of casts and its
acknowledgement (R239), or the acknowledgement of a message this package sent. -/
inductive LinkBody
  | atom (op : AtomOp) (ord : Ord) (scope : Scope) (handle : Word) (n : Nat) (operand cmp : Word) (pkg die tinst mem plot req : Nat)
  | reply (req : Nat) (word : Word)
  | collJoin (home index : Nat) (origin : List Nat) (kind : CollKind) (data : List Byte) (marks : List Bool)
  | castAck (at_ : PageRef) (place : CastPlace)
  | invalidate (at_ : PageRef)
  | hello (compressed : Bool)
  | read (handle : Word) (ver : BitVec 32) (lines : List Nat)
  | lines (at_ : PageRef) (ls : List SentLine)
  | ack (seq : Nat)
deriving DecidableEq, Repr

/-! ### The instructions -/

/-- One constructor per row of spec/opcode_table.json: first the rows with operands, in the table's order, then the
rows without. A step on a request, or a host command, takes its subject from the latches `subj` and `cmd` of the state. -/
inductive Instr
  -- S space, R61: integer arithmetic and logic (R77 to R81)
  | add (d a b : Fin 64)
  | sub (d a b : Fin 64)
  | mul (d a b : Fin 64)
  | mulh (d a b : Fin 64)
  | mulhn (d a b : Fin 64)
  | div (d a b : Fin 64)
  | divn (d a b : Fin 64)
  | rem (d a b : Fin 64)
  | remn (d a b : Fin 64)
  | min (d a b : Fin 64)
  | max (d a b : Fin 64)
  | minn (d a b : Fin 64)
  | maxn (d a b : Fin 64)
  | and (d a b : Fin 64)
  | or (d a b : Fin 64)
  | xor (d a b : Fin 64)
  | andn (d a b : Fin 64)
  | shl (d a b : Fin 64)
  | shr (d a b : Fin 64)
  | sra (d a b : Fin 64)
  | rotl (d a b : Fin 64)
  | clz (d a : Fin 64)
  | ctz (d a : Fin 64)
  | popc (d a : Fin 64)
  | cmp (c : Cond) (d : Fin 16) (a b : Fin 64)
  | sel (d a b : Fin 64) (c : Fin 16)
  | movi (d : Fin 64) (imm : BitVec 32)
  | movl (d : Fin 64) (limm : BitVec 40)
  | addi (d a : Fin 64) (imm : BitVec 32)
  | andi (d a : Fin 64) (imm : BitVec 32)
  | ori (d a : Fin 64) (imm : BitVec 32)
  | xori (d a : Fin 64) (imm : BitVec 32)
  | shli (d a : Fin 64) (k : Fin 64)
  | shri (d a : Fin 64) (k : Fin 64)
  | srai (d a : Fin 64) (k : Fin 64)
  | cmpi (c : Cond) (d : Fin 16) (a : Fin 64) (imm : BitVec 32)
  | aadd (d a : Fin 16) (imm : BitVec 32)
  | amovAX (d : Fin 16) (a : Fin 64)
  | amovXA (d : Fin 64) (a : Fin 16)
  | csrrd (d : Fin 64) (csr : Fin 4096)
  | csrwr (csr : Fin 4096) (a : Fin 64)
  | pand (d a b : Fin 16)
  | por (d a b : Fin 16)
  | pxor (d a b : Fin 16)
  | pnot (d a : Fin 16)
  | lds (sz : LdSize) (d : Fin 64) (base : Fin 16) (ofs : BitVec 19)
  | sts (sz : StSize) (d : Fin 64) (base : Fin 16) (ofs : BitVec 19)
  -- scalar float (R87 to R89)
  | sfaddF32 (rm : Rm) (d a b : Fin 64)
  | sfsubF32 (rm : Rm) (d a b : Fin 64)
  | sfmulF32 (rm : Rm) (d a b : Fin 64)
  | sfmaF32 (rm : Rm) (d a b c : Fin 64)
  | sfdivF32 (rm : Rm) (d a b : Fin 64)
  | sfsqrtF32 (rm : Rm) (d a : Fin 64)
  | sfcmpF32 (c : FCond) (d : Fin 16) (a b : Fin 64)
  | sfaddF64 (rm : Rm) (d a b : Fin 64)
  | sfsubF64 (rm : Rm) (d a b : Fin 64)
  | sfmulF64 (rm : Rm) (d a b : Fin 64)
  | sfmaF64 (rm : Rm) (d a b c : Fin 64)
  | sfdivF64 (rm : Rm) (d a b : Fin 64)
  | sfsqrtF64 (rm : Rm) (d a : Fin 64)
  | sfcmpF64 (c : FCond) (d : Fin 16) (a b : Fin 64)
  | sfcvt (rm : Rm) (d a : Fin 64) (src dst : Fmt)
  | tlook (d a : Fin 64)
  | tset (a b : Fin 64)
  | tinv (a : Fin 64)
  -- control flow (R91 to R106)
  | br (src : BrSrc) (disp : BitVec 32) (hint : Bool)
  | jmp (disp : BitVec 32)
  | jmpx (a : Fin 64)
  | call (disp : BitVec 32)
  | loop (limm : BitVec 40) (disp : BitVec 32)
  | loopx (a : Fin 64) (disp : BitVec 32)
  | lbreak (n : Fin 7) (disp : BitVec 32)
  | retireComplete (core : Nat)
  -- V space, R64: vector arithmetic (R136 to R151)
  | vadd (rm : Rm) (d a b : Fin 32) (k : MaskOp)
  | vsub (rm : Rm) (d a b : Fin 32) (k : MaskOp)
  | vmul (rm : Rm) (d a b : Fin 32) (k : MaskOp)
  | vdiv (rm : Rm) (d a b : Fin 32) (k : MaskOp)
  | vsqrt (rm : Rm) (d a : Fin 32) (k : MaskOp)
  | vrcp (rm : Rm) (d a : Fin 32) (k : MaskOp)
  | vrsq (rm : Rm) (d a : Fin 32) (k : MaskOp)
  | vmin (d a b : Fin 32) (k : MaskOp)
  | vmax (d a b : Fin 32) (k : MaskOp)
  | vabs (d a : Fin 32) (k : MaskOp)
  | vneg (d a : Fin 32) (k : MaskOp)
  | vcps (d a b : Fin 32) (k : MaskOp)
  | vcmp (c : FCond) (d : Fin 8) (a b : Fin 32) (k : MaskOp)
  | vclass (d : Fin 8) (a : Fin 32) (set : BitVec 7)
  | vsel (d a b : Fin 32) (m : Fin 8)
  | vfma (rm : Rm) (d a b c : Fin 32) (k : MaskOp)
  | vfms (rm : Rm) (d a b c : Fin 32) (k : MaskOp)
  | vfnma (rm : Rm) (d a b c : Fin 32) (k : MaskOp)
  | vand (d a b : Fin 32) (k : MaskOp)
  | vor (d a b : Fin 32) (k : MaskOp)
  | vxor (d a b : Fin 32) (k : MaskOp)
  | vnot (d a : Fin 32) (k : MaskOp)
  | vshl (d a b : Fin 32) (k : MaskOp)
  | vshr (d a b : Fin 32) (k : MaskOp)
  | vsra (d a b : Fin 32) (k : MaskOp)
  | vcvt (rm : Rm) (d a : Fin 32) (fmt : Fmt) (k : MaskOp)
  | vscale (rm : Rm) (d a b : Fin 32) (k : MaskOp)
  | vtag (d a : Fin 32) (fmt : Fmt) (scale : BitVec 8) (poison : Bool)
  | vmov (d a : Fin 32) (k : MaskOp)
  | vmovi (d : Fin 32) (imm : BitVec 32) (fmt : Fmt)
  | vbcast (d a : Fin 32) (n : Fin 128)
  -- vector data movement, queues and functions (R154 to R167)
  | vld (d : Fin 32) (base : Fin 16) (ofs : BitVec 19) (k : MaskOp)
  | vst (d : Fin 32) (base : Fin 16) (ofs : BitVec 19) (k : MaskOp)
  | vldf (d f : Fin 32) (k : MaskOp)
  | vstf (f d : Fin 32) (k : Option (Fin 8))
  | vgath (sz : GSize) (d a : Fin 32) (k : MaskOp)
  | vscat (sz : GSize) (a b : Fin 32) (k : Option (Fin 8))
  | vperm (d a b : Fin 32)
  | vxcl (d a b : Fin 32)
  | vred (op : VRedOp) (rm : Rm) (d a : Fin 32) (k : Option (Fin 8))
  | vscan (op : VScanOp) (rm : Rm) (d a : Fin 32) (k : MaskOp)
  | viota (d : Fin 32)
  | vtos (d : Fin 32) (a : Fin 32) (lane : Fin 128)
  | vrand (d : Fin 32)
  | vdefer (m : Fin 8) (vs : List (Fin 32))
  | vdrain (d : Fin 32) (m : Fin 8) (c : Fin 4)
  | vhash (d a : Fin 32) (k : Option (Fin 8))
  | vexp (rm : Rm) (d a : Fin 32) (k : MaskOp)
  | vexp2 (rm : Rm) (d a : Fin 32) (k : MaskOp)
  | vlog (rm : Rm) (d a : Fin 32) (k : MaskOp)
  | vlog2 (rm : Rm) (d a : Fin 32) (k : MaskOp)
  | vtanh (rm : Rm) (d a : Fin 32) (k : MaskOp)
  | vsigm (rm : Rm) (d a : Fin 32) (k : MaskOp)
  | verf (rm : Rm) (d a : Fin 32) (k : MaskOp)
  | vsin (rm : Rm) (d a : Fin 32) (k : MaskOp)
  | vcos (rm : Rm) (d a : Fin 32) (k : MaskOp)
  -- M space, R65 (R175 to R181)
  | mcall (n : Fin 256)
  | macrd (rm : Rm) (d : Fin 32) (row : Fin 256)
  | macwr (rm : Rm) (a : Fin 32) (row : Fin 256)
  | mpset (p : Fin 8) (a : Fin 64)
  | mpget (d : Fin 64) (p : Fin 8)
  | mstat (d : Fin 64)
  | mload (f : Fin 32) (a : Fin 64)
  -- the engine's own steps and microwords (R181 to R193)
  | zero (fill : Fill)
  | bld (skip : Skip) (bix : Fin 4096) (stg : Stg) (src : BSrc)
  | bsel (stg : Stg)
  | mloopOpen (l : MLoop)
  | mloopClose (lvl : Fin 2)
  | mad (c : Cell)
  | ada (c : Cell)
  | mxp (c : Cell)
  | mnp (c : Cell)
  -- C space, R66 (R216 to R226)
  | openH (w : Bool) (h t : Fin 16) (due : Due)
  | close (h : Fin 16)
  | info (q : InfoQ) (h : Fin 16) (due : Due)
  | alloc (t : Fin 16) (due : Due)
  | free (h : Fin 16)
  | fetch (mod : FetchMod) (x : Tile) (f : Fin 32)
  | store (noalloc : Bool) (x : Tile) (f : Fin 32)
  | gather (x : Tile) (f : Fin 32)
  | scatter (x : Tile) (f : Fin 32)
  | pushr (f : Fin 32) (t : Fin 16)
  | pushSlotReturn (producer dest f : Nat)
  | pushDestEnded (tinst : Nat)
  | pref (x : Tile)
  | copyo (x : Tile) (src : Fin 16) (due : Due)
  | coll (kind : CollKind) (x : Tile) (f : Fin 32) (due : Due)
  -- versions, freezing and grains (R232 to R245)
  | publ (h : Fin 16) (due : Due)
  | subsc (h t : Fin 16) (due : Due)
  | pin (h : Fin 16) (due : Due)
  | unpin (h : Fin 16)
  | freeze (x : Tile) (due : Due)
  | thaw (x : Tile) (due : Due)
  | thawt (q : Fin 16)
  | grant (x : Tile) (due : Due)
  -- steps of the homes (R207, R213, R228, R239)
  | castInvalidate (p : PageRef) (place : CastPlace)
  | thawAck (p : PageRef) (place : CastPlace)
  | thawCompleteMsg (core : Nat) (token : Nat)
  -- Y space, R67 (R256 to R270)
  | atom (op : AtomOp) (ord : Ord) (scope : Scope) (h : Fin 16) (a : Fin 64) (due : Due)
  | red (op : AtomOp) (rel : Bool) (scope : Scope) (h : Fin 16) (a : Fin 64)
  | ldsync (acq : Bool) (scope : Scope) (h : Fin 16) (a : Fin 64) (due : Due)
  | stsync (rel : Bool) (scope : Scope) (h : Fin 16) (a : Fin 64)
  | barinit (scope : Scope) (h : Fin 16) (a : Fin 64)
  | barr (scope : Scope) (h : Fin 16)
  | barw (scope : Scope) (h : Fin 16) (due : Due)
  | barrierParentArrival (child : PageRef)
  | barrierChildFlip (child : PageRef)
  | finit (f : Fin 32)
  | fpush (f : Fin 32) (a : Fin 64)
  | fpop (f : Fin 32) (a : Fin 64)
  | fwait (f : Fin 32) (a : Fin 64)
  | orphanCheck (core : Nat)
  | qclr (d : Fin 64) (q : Fin 16)
  | tstamp (due : Due)
  -- plots and sibling groups (R287 to R298)
  | spawn (h : Fin 16) (a : Fin 64) (due : Due)
  | spawnw (h : Fin 16) (a : Fin 64) (due : Due)
  | spawnwDeadlockBreak (die : Nat)
  | sow (h : Fin 16) (a : Fin 64) (due : Due)
  | bpost (h : Fin 16) (a : Fin 64)
  | siblingEndMsg (plot : Nat)
  | siblingCancel (plot : Nat)
  | releaseListApply (plot : Nat)
  | bread (h : Fin 16) (due : Due)
  | plotrd (a : Fin 64) (due : Due)
  -- traps and service calls (R307, R314, R315)
  | trap (a : Fin 64)
  | svc (port : Fin 64) (a : Fin 64) (due : Due)
  | lateFault (core : Nat)
  | trapPolicy (core : Nat)
  | emulationDone (core : Nat)
  -- pre-emption and the dispatcher (R277 to R283, R308, R309)
  | preempt (core : Nat)
  | snapshotSave (core : Nat)
  | taskResumption (tinst : Nat) (core : Nat)
  | dispatchSelect (die : Nat)
  | reserve (die : Nat) (adm : Nat)
  | commit (die : Nat) (adm : Nat)
  | backoffExpiry (die : Nat) (plot : Nat)
  | taskStart (core plot ix tinst member : Nat)
  | taskOverdue (core : Nat)
  -- memory tiers and row management (R204, R316 to R320)
  | objMissingResolve (p : PageRef)
  | pageEviction (die : Nat)
  | pagePromotion (p : PageRef)
  | pageMoveComplete (p : PageRef)
  | rowActivation (r : RowRef)
  | rfmComplete (ctrl bank : Nat)
  -- host queues, doorbells and apertures (R332, R335, R336)
  | completionWrite (pair : Nat)
  | sqTailDoorbell (pair : Nat) (v : BitVec 32)
  | cqHeadDoorbell (pair : Nat) (v : BitVec 32)
  | mqHeadDoorbell (pair : Nat) (v : BitVec 32)
  | qpEnable (pair : Nat)
  | qpDisable (pair : Nat)
  | registerWrite (off : Nat) (v : BitVec 32)
  | hostBar2Read (at_ : HostAddr) (n : Nat)
  | hostBar2Write (off : Nat) (data : List Byte)
  -- host-shared granules (R329)
  | granuleTransfer (g : GranuleRef) (a : GranuleAccess)
  | granuleTransferDone (g : GranuleRef)
  | granuleTenureExpiry (g : GranuleRef)
  -- links (R340 to R342), time (R327)
  | linkMessageReceive (src : Nat) (seq : Nat) (body : LinkBody)
  | linkRetransmit (dst : Nat) (seq : Nat)
  | peerUnreachable (pkg : Nat)
  | timestampCorrection (ppm : Int)
  -- errors, bring-up, power and management (R343 to R349)
  | correctedError (r : Resource)
  | uncorrectableError (p : ErrorPlace)
  | thermalThrottle (die : Nat)
  | thermalTrip (die : Nat)
  | powerCapSet (watts : Nat)
  | hostAdminPermit (on : Bool)
  | firmwareUpdate (image : List FwImage)
  | attestationReport (nonce : BitVec 256)
  -- rows with no operand
  | nop
  | emptyBundle
  | ret
  | retire
  | yield
  | resultWriteback
  | mabort
  | mswap
  | macclr
  | mloadCopy
  | engineWorkStart
  | bLoadComplete
  | mend
  | mnop
  | brk
  | activationWindowReset
  | powerOn
  | reset
  -- steps of the homes and engines on the request that the latch `subj` of the state names (R207, R213, R226, R228,
  -- R235, R255, R258, R267, R269, R291, R314, R315)
  | pushArrival
  | collComplete
  | collTimeout
  | subscTimeout
  | objectRequestPerform
  | versionEvent
  | slotFilled
  | syncAccessPerform
  | barrierArrival
  | barrierTimeout
  | landingArrival
  | ballotPost
  | svcAllocx
  | svcSpill
  | svcTimeout
  -- host commands, on the command that the latch `cmd` of the state holds (R331 to R336)
  | plotCreate
  | plotClose
  | tasksetSubmit
  | objCreate
  | objWrite
  | objRead
  | objFree
  | policySet
  | portBind
  | taskResume
  | domainTerminate
  | debugAttach
  | minhbmSet
  | snapRead
  | snapWrite
  | journalRead
  | apertureSet
deriving DecidableEq, Repr

/-! ### Bundles -/

/-- The guard of a syllable: GP and GN (R43). -/
structure Guard where
  p   : Fin 16
  neg : Bool
deriving DecidableEq, Repr

/-- A syllable in its slot, with its guard (R42). -/
structure Syllable where
  slot  : Slot
  guard : Guard
  instr : Instr
deriving DecidableEq, Repr

/-- FIRST, LAST and LEVEL of a header: no level named, or level 1 to 6 with at least one bit (R35, R40). -/
inductive LevelTest | none | first (l : Fin 6) | last (l : Fin 6) | both (l : Fin 6)
deriving DecidableEq, Repr

/-- A decoded bundle: the level test, the STALL count and the syllables in slot order (R35, R36). -/
structure Bundle where
  test  : LevelTest
  stall : Fin 16
  sylls : List Syllable
deriving DecidableEq, Repr

end Sys2Proof
end

