-- ==== Sys2Proof/Config.lean ====
section
/-! DEFINITION. What one X4 fixes (the capacities of R1, R2 and the class chapters) and the FREE VALUES: constants with
no body, applied to operands or to a counter of State, for every value and every moment the spec leaves open. -/
namespace Sys2Proof

/-! ### Capacities and fixed numbers -/

/-- Core clock and timestamp: 2.1 cycles per nanosecond (R3, R327), as 21 cycles per 10 ns. -/
def Config.cyclesPer10ns : Nat := 21
/-- Calls nest 16 deep (R19, R97). -/
def Config.callDepth : Nat := 16
/-- Loop levels (R98). -/
def Config.loopDepth : Nat := 6
/-- Entries of the deferral queue (R164). -/
def Config.deferEntries : Nat := 4096
/-- Outstanding object requests of a core (R206). -/
def Config.objectRequests : Nat := 1024
/-- Outstanding Y requests of a task (R259). -/
def Config.yRequests : Nat := 256
/-- Vector and mask results in flight (R313). -/
def Config.vectorInFlight : Nat := 48
/-- Entries of a push map (R223). -/
def Config.pushEntries : Nat := 16
/-- Entries of a die's launch pool (R285). -/
def Config.poolEntries : Nat := 4096
/-- Admissions a dispatcher has in flight (R279). -/
def Config.admissions : Nat := 4
/-- Bytes of the unified array and the greatest scratch (R20). -/
def Config.arrayBytes : Nat := 524288
/-- Entries of the journal ring (R338). -/
def Config.journalEntries : Nat := 65536
/-- Queue pairs and apertures (R330, R336). -/
def Config.queuePairs : Nat := 1024
/-- The management threshold of row activations (R320). -/
def Config.rowThreshold : Nat := 1024
/-- An object page, a line, a grain and a chunk in bytes (R29). -/
def Config.pageBytes : Nat := 65536
/-- Object pages of HBM per die: two stacks of 48 GiB (R1). -/
def Config.pagesPerDie : Nat := 1572864
/-- The pages of a die's HBM that the shared pool excludes (R316): the command journal's 65,536 entries of 64 bytes (R338) on die 0;
the spec sizes no other reserved area (DESIGN CHOICE, assumption log 79). -/
def Config.reservedPages (die : Nat) : Nat := if die = 0 then 64 else 0
/-- Sync lines that an engine's SRAM holds (R1, R254). -/
def Config.syncEntries : Nat := 65536
/-- Displaced sync lines, with their records, that one page of an overflow area holds (R254; DESIGN CHOICE, assumption log 80). -/
def Config.overflowLines : Nat := 512

/-- Object pages of the LPDDR tier: 1,536 GiB (R1). -/
def Config.lpddrPages : Nat := 25165824

/-! ### Free values: nothing constrains them (assumption log 1 to 4) -/

/-- The delay, in cycles, of a message, a home, a link, the object manager or a service: the spec gives no figures. -/
opaque Config.latency : Nat → Nat
/-- A choice the spec leaves to the device, one per moment it is asked (R94, R297). -/
opaque Config.choice : Nat → Bool
/-- The fixed result of a function for (function number, mode number, format code, operand code): R358. -/
opaque Config.function : Nat → Nat → Nat → Nat → Nat
/-- For a non-decreasing function, for (function number, mode number, format code, result code): the place, among the operands
in order away from zero of the result, from which on the fixed result is at least that code (R124, R358). -/
opaque Config.functionReach : Nat → Nat → Nat → Nat → Nat
/-- The outcome of the power-on checks: 0 passes; otherwise a REASON code, a failing test and a unit (R345, R346). -/
opaque Config.selfTest : Nat → Nat × Nat × Nat
/-- The rows of a bank of a memory controller: the spec gives no count (R320). -/
opaque Config.bankRows : Nat → Nat
/-- Whether an image's signature verifies under one of the three parameter sets (R347). -/
opaque Config.signatureOk : FwImage → Bool
/-- The clock at which the package meets a cap and its dies' throttling, in cycles per 10 ns: the spec gives no figures (R348). -/
opaque Config.slowClock : Nat → List Nat → Nat
/-- The signature bytes of an attestation report over its contents (R347). -/
opaque Config.signature : List Byte → List Byte
/-- The reply of a system-core service to a message: its numbers are Larcon's (R315, R333). -/
opaque Config.serviceReply : Nat → List Word → Word
/-- The free table index or identity the object manager takes next is not the program's to know: an offset added to the
least unused one. -/
opaque Config.freshGap : Nat → Nat
/-- The device identity an attestation report carries (R347). -/
opaque Config.identity : List Byte

/-- A directive of a code object (R53): a furrow (REMOTE or not), a handle word for an h-register, a parameter word for an
x-register. -/
inductive Directive
  | furrow (f : Fin 32) (base slotsz count : Nat) (remote : Bool)
  | handle (h : Fin 16) (word : Nat)
  | param (x : Fin 64) (word : Nat)
deriving DecidableEq, Repr

/-- The directives of a code object, from its bytes: the spec does not say where a code object holds them (R53, R277). -/
opaque Config.directives : List Byte → List Directive
/-- The rights that a rights list grants a plot's subtree: the spec gives no layout of a rights list (R200). -/
opaque Config.listedRights : Nat → Nat → Nat

/-- The byte that OBJ_READ copies for a byte of a poisoned line: the spec states none (R333). -/
opaque Config.lostByte : Nat → Nat → Byte

/-- The strap that chooses the host port's mode, read at reset: true for CXL (R328). -/
opaque Config.cxlStrap : Bool

/-- Whether a routine on T16 operands accumulates in F64 or in F32: the spec gives T16 no accumulator format (R169, R175). -/
opaque Config.emulatedWide : Bool

end Sys2Proof
end

