-- ==== Sys2Proof/WellFormed.lean ====
section
/-! DEFINITION. Which instructions an encoding may name: the range rules that the operand types of `Instr` do not
already impose (R41, R45, R48, R61 to R68, R148, R150, R165). -/
namespace Sys2Proof

/-- The assigned control and status register numbers (R74). -/
def csrAssigned (n : Nat) : Bool := n ≤ 5 || (16 ≤ n && n ≤ 19)

/-- The bits of IMM that VMOVI needs 0 for a format: how many low bits carry the pattern (R150). -/
def vmoviBits (fmt : Nat) : Nat :=
  if fmt = 1 ∨ fmt = 2 ∨ fmt = 9 ∨ fmt = 10 ∨ fmt = 12 then 8
  else if fmt = 11 then 6
  else if fmt = 3 ∨ fmt = 4 ∨ fmt = 13 ∨ fmt = 14 ∨ fmt = 17 then 16
  else 32

/-- The slot kinds of R16. -/
inductive Kind | s | v | m | c | y
deriving DecidableEq, Repr

/-- The opcode space of a slot (R16). -/
def Slot.kind : Slot → Kind
  | .s => .s | .v0 => .v | .v1 => .v | .m => .m | .c0 => .c | .c1 => .c | .y => .y

/-- The operand rules of the opcode map that traps ILLEGAL at decode when broken (R61, R64, R66, R67, R68). -/
def Instr.wf : Instr → Bool
  | .csrrd _ n => csrAssigned n.val
  | .csrwr n _ => csrAssigned n.val
  | .loopx a _ => a.val ≤ 62
  | .lbreak n _ => 1 ≤ n.val
  | .vcvt _ _ _ f _ => f.toNat ≠ 31
  | .vtag _ _ f sc _ => f.toNat ≠ 31 || sc.toNat = 0
  | .vmovi _ imm f => f.toNat ≠ 31 && imm.toNat < 2 ^ vmoviBits f.toNat
  | .vdefer _ vs => 1 ≤ vs.length && vs.length ≤ 4
  | .vdrain d _ c => d.val + c.val + 1 ≤ 31
  | .atom op _ _ _ a _ => if op = .cas then a.val ≤ 61 else a.val ≤ 62
  | .red op _ _ _ a => op ≠ .swp && op ≠ .cas && a.val ≤ 62
  | .stsync _ _ _ a => a.val ≤ 62
  | .sow _ a _ => a.val ≤ 62
  | .svc _ a _ => a.val ≤ 56
  | _ => true

/-- A register named by a syllable, by file and number (R18). -/
inductive Reg
  | x (n : Nat) | a (n : Nat) | p (n : Nat) | v (n : Nat) | m (n : Nat) | h (n : Nat) | mp (n : Nat) | q (n : Nat)
deriving DecidableEq, Repr

end Sys2Proof
end

