-- ==== Sys2Proof/Decode.lean ====
section
/-! DEFINITION. Bundles, syllables, microwords and host commands to `Instr` (R35 to R48, R61 to R69, R184, R331), total
on any words and rejecting by name, and the encoder written from the same tables. A syllable is legal exactly when it
is the encoding of a well-formed instruction, so every reserved bit must be 0 (R8, R46). -/
namespace Sys2Proof

/-- Why a bundle is refused at decode; each is the cause ILLEGAL (R48). -/
inductive DecodeError
  | opZero | unassigned | modifier | range | reserved | header | limm | conflict | loopEnd | short
deriving DecidableEq, Repr

/-! ### Small codes -/

def Rm.code : Rm → Nat
  | .rne => 0 | .rtz => 1 | .rup => 2 | .rdn => 3 | .rna => 4 | .odd => 5

/-- The rounding modes of R44; 110 and 111 are reserved. -/
def Rm.ofCode : Nat → Option Rm
  | 0 => some .rne | 1 => some .rtz | 2 => some .rup | 3 => some .rdn | 4 => some .rna | 5 => some .odd | _ => none

def Cond.code : Cond → Nat
  | .eq => 0 | .ne => 1 | .lt => 2 | .ge => 3 | .ltn => 4 | .gen => 5 | .le => 6 | .gt => 7

/-- The conditions of R82. -/
def Cond.ofCode : Nat → Option Cond
  | 0 => some .eq | 1 => some .ne | 2 => some .lt | 3 => some .ge | 4 => some .ltn | 5 => some .gen | 6 => some .le
  | 7 => some .gt | _ => none

def FCond.code : FCond → Nat
  | .eq => 0 | .ne => 1 | .lt => 2 | .le => 3 | .gt => 4 | .ge => 5 | .un => 6

/-- The conditions of R88; 111 is reserved. -/
def FCond.ofCode : Nat → Option FCond
  | 0 => some .eq | 1 => some .ne | 2 => some .lt | 3 => some .le | 4 => some .gt | 5 => some .ge | 6 => some .un
  | _ => none

def LdSize.code : LdSize → Nat
  | .b => 0 | .bs => 1 | .h => 2 | .hs => 3 | .w => 4 | .ws => 5 | .d => 6

/-- The LDS column of R62. -/
def LdSize.ofCode : Nat → Option LdSize
  | 0 => some .b | 1 => some .bs | 2 => some .h | 3 => some .hs | 4 => some .w | 5 => some .ws | 6 => some .d
  | _ => none

def StSize.code : StSize → Nat
  | .b => 0 | .h => 2 | .w => 4 | .d => 6

/-- The STS column of R62. -/
def StSize.ofCode : Nat → Option StSize
  | 0 => some .b | 2 => some .h | 4 => some .w | 6 => some .d | _ => none

def BrSrc.code : BrSrc → Nat
  | .pred p => p.val | .mdone => 16 | .mfault => 17

/-- The condition sources of R63. -/
def BrSrc.ofCode (n : Nat) : Option BrSrc :=
  if n < 16 then some (.pred (Fin.ofNat 16 n)) else if n = 16 then some .mdone else if n = 17 then some .mfault else none

def GSize.code : GSize → Nat
  | .b => 0 | .h => 1 | .w => 2 | .d => 3

/-- The element sizes of R157. -/
def GSize.ofCode : Nat → Option GSize
  | 0 => some .b | 1 => some .h | 2 => some .w | 3 => some .d | _ => none

def VRedOp.code : VRedOp → Nat
  | .sum => 0 | .min => 1 | .max => 2 | .argmax => 3 | .argmin => 4

/-- The operations of R159. -/
def VRedOp.ofCode : Nat → Option VRedOp
  | 0 => some .sum | 1 => some .min | 2 => some .max | 3 => some .argmax | 4 => some .argmin | _ => none

def VScanOp.code : VScanOp → Nat
  | .sum => 0 | .min => 1 | .max => 2

/-- The operations of R160. -/
def VScanOp.ofCode : Nat → Option VScanOp
  | 0 => some .sum | 1 => some .min | 2 => some .max | _ => none

def InfoQ.code : InfoQ → Nat
  | .form => 0 | .dim01 => 1 | .dim23 => 2 | .dim45 => 3 | .ver => 4 | .pages => 5

/-- The queries of R217. -/
def InfoQ.ofCode : Nat → Option InfoQ
  | 0 => some .form | 1 => some .dim01 | 2 => some .dim23 | 3 => some .dim45 | 4 => some .ver | 5 => some .pages
  | _ => none

def FetchMod.code : FetchMod → Nat
  | .plain => 0 | .noalloc => 1 | .nooc => 2

/-- The modifiers of FETCH (R220). -/
def FetchMod.ofCode : Nat → Option FetchMod
  | 0 => some .plain | 1 => some .noalloc | 2 => some .nooc | _ => none

def CollKind.code : CollKind → Nat
  | .red => 0 | .ag => 1 | .bc => 2

/-- The kinds of COLL (R226). -/
def CollKind.ofCode : Nat → Option CollKind
  | 0 => some .red | 1 => some .ag | 2 => some .bc | _ => none

def Scope.code : Scope → Nat
  | .core => 0 | .gang => 1 | .die => 2 | .package => 3 | .rack => 4 | .system => 5

/-- The scope codes of R46; 110 and 111 are reserved. -/
def Scope.ofCode : Nat → Option Scope
  | 0 => some .core | 1 => some .gang | 2 => some .die | 3 => some .package | 4 => some .rack | 5 => some .system
  | _ => none

def Ord.code : Ord → Nat
  | .rlx => 0 | .acq => 1 | .rel => 2 | .acqrel => 3

/-- The ORD codes of R46. -/
def Ord.ofCode : Nat → Option Ord
  | 0 => some .rlx | 1 => some .acq | 2 => some .rel | 3 => some .acqrel | _ => none

def AtomOp.code : AtomOp → Nat
  | .add => 0 | .min => 1 | .max => 2 | .and => 3 | .or => 4 | .xor => 5 | .swp => 6 | .cas => 7

/-- The OPX codes of R68; 8 to 15 are reserved. -/
def AtomOp.ofCode : Nat → Option AtomOp
  | 0 => some .add | 1 => some .min | 2 => some .max | 3 => some .and | 4 => some .or | 5 => some .xor | 6 => some .swp
  | 7 => some .cas | _ => none

/-! ### Encoding: an instruction's slot kind, opcode, RM field and operand field (bits [63:16] of the syllable) -/

/-- The parts of a syllable that an instruction fixes. -/
structure Enc where
  kind : Kind
  op   : Nat
  rm   : Nat
  ops  : Nat
deriving DecidableEq, Repr

def boolBit (b : Bool) : Nat := if b then 1 else 0

/-- M, MZ and MEN of V.RR, counted from operand bit 20 (R46). -/
def MaskOp.codeRR : MaskOp → Nat
  | .all => 0 | .mask m z => m.val + boolBit z * 8 + 16
/-- M, MZ and MEN of V.MEM, counted from operand bit 33 (R46). -/
def MaskOp.codeMem (k : MaskOp) : Nat := k.codeRR
/-- A mask operand whose MZ must be 0. -/
def optMask : Option (Fin 8) → Nat
  | none => 0 | some m => m.val + 16
def MaskOp.ofCode (c : Nat) : MaskOp := if c / 16 % 2 = 1 then .mask (Fin.ofNat 8 c) (c / 8 % 2 = 1) else .all
def optMaskOf (c : Nat) : Option (Fin 8) := if c / 16 % 2 = 1 then some (Fin.ofNat 8 c) else none

/-- S.RR (R46): D, A, B, C. -/
def sRR (op d a b c : Nat) (rm : Nat := 0) : Enc := ⟨.s, op, rm, d + a * 2 ^ 6 + b * 2 ^ 12 + c * 2 ^ 18⟩
/-- S.RI (R46): D, A, IMM at [59:28]. -/
def sRI (op d a imm : Nat) (rm : Nat := 0) : Enc := ⟨.s, op, rm, d + a * 2 ^ 6 + imm * 2 ^ 12⟩
/-- S.MEM (R46): D, BASE, OFS at [46:28]. -/
def sMem (op rm d base ofs : Nat) : Enc := ⟨.s, op, rm, d + base * 2 ^ 6 + ofs * 2 ^ 12⟩
/-- S.CF (R46): A, DISP at [53:22], HINT at [54]. -/
def sCF (op a disp hint : Nat) : Enc := ⟨.s, op, 0, a + disp * 2 ^ 6 + hint * 2 ^ 38⟩
/-- V.RR (R46): D, A, B, C, mask, FN at [47:41]. -/
def vRR (op rm d a b c k fn : Nat) : Enc :=
  ⟨.v, op, rm, d + a * 2 ^ 5 + b * 2 ^ 10 + c * 2 ^ 15 + k * 2 ^ 20 + fn * 2 ^ 25⟩
/-- V.RI (R46): D, A, IMM at [57:26], FMT at [62:58]. -/
def vRI (op d a imm fmt : Nat) : Enc := ⟨.v, op, 0, d + a * 2 ^ 5 + imm * 2 ^ 10 + fmt * 2 ^ 42⟩
/-- V.MEM (R46): D, BASE, OFS at [43:25], F at [48:44], mask at [53:49]. -/
def vMem (op d base ofs f k : Nat) : Enc := ⟨.v, op, 0, d + base * 2 ^ 5 + ofs * 2 ^ 9 + f * 2 ^ 28 + k * 2 ^ 33⟩
/-- M.GEN (R46): D, A, IDX at [35:28], P at [38:36], F at [43:39]. -/
def mGen (op rm d a idx p f : Nat) : Enc := ⟨.m, op, rm, d + a * 2 ^ 6 + idx * 2 ^ 12 + p * 2 ^ 20 + f * 2 ^ 23⟩
/-- C.OBJ (R46): H, T, F, Q at [35:32], DUE at [43:36], SH at [49:44]. -/
def cObj (op rm h t f q due sh : Nat) : Enc :=
  ⟨.c, op, rm, h + t * 2 ^ 4 + f * 2 ^ 8 + q * 2 ^ 16 + due * 2 ^ 20 + sh * 2 ^ 28⟩
/-- Y.SYN (R46): D, A, SCOPE at [30:28], Q, DUE, ORD at [45:44], OPX at [49:46], F at [54:50]. -/
def ySyn (op d a scope q due ord opx f : Nat) : Enc :=
  ⟨.y, op, 0, d + a * 2 ^ 6 + scope * 2 ^ 12 + q * 2 ^ 16 + due * 2 ^ 20 + ord * 2 ^ 28 + opx * 2 ^ 30 + f * 2 ^ 34⟩

/-- The encoding of a syllable's instruction (R61 to R68); none for the rows that no syllable encodes. NOP is given
here in the S space; `encodeSyllable` places it in any slot (R57). -/
def Instr.enc : Instr → Option Enc
  | .nop => some ⟨.s, 1, 0, 0⟩
  | .add d a b => some (sRR 0x02 d a b 0)
  | .sub d a b => some (sRR 0x03 d a b 0)
  | .mul d a b => some (sRR 0x04 d a b 0)
  | .mulh d a b => some (sRR 0x05 d a b 0)
  | .mulhn d a b => some (sRR 0x06 d a b 0)
  | .div d a b => some (sRR 0x07 d a b 0)
  | .divn d a b => some (sRR 0x08 d a b 0)
  | .rem d a b => some (sRR 0x09 d a b 0)
  | .remn d a b => some (sRR 0x0A d a b 0)
  | .min d a b => some (sRR 0x0B d a b 0)
  | .max d a b => some (sRR 0x0C d a b 0)
  | .minn d a b => some (sRR 0x0D d a b 0)
  | .maxn d a b => some (sRR 0x0E d a b 0)
  | .and d a b => some (sRR 0x10 d a b 0)
  | .or d a b => some (sRR 0x11 d a b 0)
  | .xor d a b => some (sRR 0x12 d a b 0)
  | .andn d a b => some (sRR 0x13 d a b 0)
  | .shl d a b => some (sRR 0x14 d a b 0)
  | .shr d a b => some (sRR 0x15 d a b 0)
  | .sra d a b => some (sRR 0x16 d a b 0)
  | .rotl d a b => some (sRR 0x17 d a b 0)
  | .clz d a => some (sRR 0x18 d a 0 0)
  | .ctz d a => some (sRR 0x19 d a 0 0)
  | .popc d a => some (sRR 0x1A d a 0 0)
  | .cmp c d a b => some (sRR 0x1B d a b 0 c.code)
  | .sel d a b c => some (sRR 0x1C d a b c)
  | .movi d imm => some (sRI 0x20 d 0 imm.toNat)
  | .movl d _ => some (sRI 0x21 d 0 0)
  | .addi d a imm => some (sRI 0x22 d a imm.toNat)
  | .andi d a imm => some (sRI 0x23 d a imm.toNat)
  | .ori d a imm => some (sRI 0x24 d a imm.toNat)
  | .xori d a imm => some (sRI 0x25 d a imm.toNat)
  | .shli d a k => some (sRI 0x26 d a k)
  | .shri d a k => some (sRI 0x27 d a k)
  | .srai d a k => some (sRI 0x28 d a k)
  | .cmpi c d a imm => some (sRI 0x29 d a imm.toNat c.code)
  | .aadd d a imm => some (sRI 0x2A d a imm.toNat)
  | .amovAX d a => some (sRR 0x2B d a 0 0)
  | .amovXA d a => some (sRR 0x2C d a 0 0)
  | .csrrd d n => some (sRI 0x2D d 0 n)
  | .csrwr n a => some (sRI 0x2E 0 a n)
  | .pand d a b => some (sRR 0x30 d a b 0)
  | .por d a b => some (sRR 0x31 d a b 0)
  | .pxor d a b => some (sRR 0x32 d a b 0)
  | .pnot d a => some (sRR 0x33 d a 0 0)
  | .lds sz d b o => some (sMem 0x38 sz.code d b o.toNat)
  | .sts sz d b o => some (sMem 0x39 sz.code d b o.toNat)
  | .sfaddF32 rm d a b => some (sRR 0x40 d a b 0 rm.code)
  | .sfsubF32 rm d a b => some (sRR 0x41 d a b 0 rm.code)
  | .sfmulF32 rm d a b => some (sRR 0x42 d a b 0 rm.code)
  | .sfmaF32 rm d a b c => some (sRR 0x43 d a b c rm.code)
  | .sfdivF32 rm d a b => some (sRR 0x44 d a b 0 rm.code)
  | .sfsqrtF32 rm d a => some (sRR 0x45 d a 0 0 rm.code)
  | .sfcmpF32 c d a b => some (sRR 0x46 d a b 0 c.code)
  | .sfaddF64 rm d a b => some (sRR 0x48 d a b 0 rm.code)
  | .sfsubF64 rm d a b => some (sRR 0x49 d a b 0 rm.code)
  | .sfmulF64 rm d a b => some (sRR 0x4A d a b 0 rm.code)
  | .sfmaF64 rm d a b c => some (sRR 0x4B d a b c rm.code)
  | .sfdivF64 rm d a b => some (sRR 0x4C d a b 0 rm.code)
  | .sfsqrtF64 rm d a => some (sRR 0x4D d a 0 0 rm.code)
  | .sfcmpF64 c d a b => some (sRR 0x4E d a b 0 c.code)
  | .sfcvt rm d a s t => some (sRI 0x4F d a (s.toNat + t.toNat * 32) rm.code)
  | .tlook d a => some (sRR 0x50 d a 0 0)
  | .tset a b => some (sRR 0x51 0 a b 0)
  | .tinv a => some (sRR 0x52 0 a 0 0)
  | .br src disp hint => some (sCF 0x60 src.code disp.toNat (boolBit hint))
  | .jmp disp => some (sCF 0x61 0 disp.toNat 0)
  | .jmpx a => some (sCF 0x62 a 0 0)
  | .call disp => some (sCF 0x63 0 disp.toNat 0)
  | .ret => some (sCF 0x64 0 0 0)
  | .loop _ disp => some (sCF 0x65 0 disp.toNat 0)
  | .loopx a disp => some (sCF 0x66 a disp.toNat 0)
  | .lbreak n disp => some (sCF 0x67 n disp.toNat 0)
  | .retire => some (sCF 0x68 0 0 0)
  | .yield => some (sCF 0x69 0 0 0)
  | .vadd rm d a b k => some (vRR 0x02 rm.code d a b 0 k.codeRR 0)
  | .vsub rm d a b k => some (vRR 0x03 rm.code d a b 0 k.codeRR 0)
  | .vmul rm d a b k => some (vRR 0x04 rm.code d a b 0 k.codeRR 0)
  | .vdiv rm d a b k => some (vRR 0x05 rm.code d a b 0 k.codeRR 0)
  | .vsqrt rm d a k => some (vRR 0x06 rm.code d a 0 0 k.codeRR 0)
  | .vrcp rm d a k => some (vRR 0x07 rm.code d a 0 0 k.codeRR 0)
  | .vrsq rm d a k => some (vRR 0x08 rm.code d a 0 0 k.codeRR 0)
  | .vmin d a b k => some (vRR 0x09 0 d a b 0 k.codeRR 0)
  | .vmax d a b k => some (vRR 0x0A 0 d a b 0 k.codeRR 0)
  | .vabs d a k => some (vRR 0x0B 0 d a 0 0 k.codeRR 0)
  | .vneg d a k => some (vRR 0x0C 0 d a 0 0 k.codeRR 0)
  | .vcps d a b k => some (vRR 0x0D 0 d a b 0 k.codeRR 0)
  | .vcmp c d a b k => some (vRR 0x0E c.code d a b 0 k.codeRR 0)
  | .vclass d a s => some (vRR 0x0F 0 d a 0 0 0 s.toNat)
  | .vsel d a b m => some (vRR 0x10 0 d a b 0 (m.val + 16) 0)
  | .vfma rm d a b c k => some (vRR 0x13 rm.code d a b c k.codeRR 0)
  | .vfms rm d a b c k => some (vRR 0x14 rm.code d a b c k.codeRR 0)
  | .vfnma rm d a b c k => some (vRR 0x15 rm.code d a b c k.codeRR 0)
  | .vand d a b k => some (vRR 0x18 0 d a b 0 k.codeRR 0)
  | .vor d a b k => some (vRR 0x19 0 d a b 0 k.codeRR 0)
  | .vxor d a b k => some (vRR 0x1A 0 d a b 0 k.codeRR 0)
  | .vnot d a k => some (vRR 0x1B 0 d a 0 0 k.codeRR 0)
  | .vshl d a b k => some (vRR 0x1C 0 d a b 0 k.codeRR 0)
  | .vshr d a b k => some (vRR 0x1D 0 d a b 0 k.codeRR 0)
  | .vsra d a b k => some (vRR 0x1E 0 d a b 0 k.codeRR 0)
  | .vcvt rm d a f k => some (vRR 0x20 rm.code d a 0 0 k.codeRR f.toNat)
  | .vscale rm d a b k => some (vRR 0x21 rm.code d a b 0 k.codeRR 0)
  | .vtag d a f sc po => some (vRI 0x22 d a (sc.toNat + boolBit po * 256) f.toNat)
  | .vmov d a k => some (vRR 0x23 0 d a 0 0 k.codeRR 0)
  | .vmovi d imm f => some (vRI 0x24 d 0 imm.toNat f.toNat)
  | .vbcast d a n => some (vRR 0x25 0 d a 0 0 0 n)
  | .vld d b o k => some (vMem 0x30 d b o.toNat 0 k.codeMem)
  | .vst d b o k => some (vMem 0x31 d b o.toNat 0 k.codeMem)
  | .vldf d f k => some (vMem 0x32 d 0 0 f k.codeMem)
  | .vstf f d k => some (vMem 0x33 d 0 0 f (optMask k))
  | .vgath sz d a k => some (vRR 0x34 0 d a 0 0 k.codeRR sz.code)
  | .vscat sz a b k => some (vRR 0x35 0 0 a b 0 (optMask k) sz.code)
  | .vperm d a b => some (vRR 0x36 0 d a b 0 0 0)
  | .vxcl d a b => some (vRR 0x37 0 d a b 0 0 0)
  | .vred op rm d a k => some (vRR 0x38 rm.code d a 0 0 (optMask k) op.code)
  | .vscan op rm d a k => some (vRR 0x39 rm.code d a 0 0 k.codeRR op.code)
  | .viota d => some (vRR 0x3A 0 d 0 0 0 0 0)
  | .vtos d a l => some (vRR 0x3B 0 d a 0 0 0 l)
  | .vrand d => some (vRR 0x40 0 d 0 0 0 0 0)
  | .vdefer m vs => some (vRR 0x41 0 (vs.getD 0 0) (vs.getD 1 0) (vs.getD 2 0) (vs.getD 3 0) (m.val + 16) (vs.length - 1))
  | .vdrain d m c => some (vRR 0x42 0 d 0 0 0 m.val c)
  | .vhash d a k => some (vRR 0x48 0 d a 0 0 (optMask k) 0)
  | .vexp rm d a k => some (vRR 0x50 rm.code d a 0 0 k.codeRR 0)
  | .vexp2 rm d a k => some (vRR 0x51 rm.code d a 0 0 k.codeRR 0)
  | .vlog rm d a k => some (vRR 0x52 rm.code d a 0 0 k.codeRR 0)
  | .vlog2 rm d a k => some (vRR 0x53 rm.code d a 0 0 k.codeRR 0)
  | .vtanh rm d a k => some (vRR 0x54 rm.code d a 0 0 k.codeRR 0)
  | .vsigm rm d a k => some (vRR 0x55 rm.code d a 0 0 k.codeRR 0)
  | .verf rm d a k => some (vRR 0x56 rm.code d a 0 0 k.codeRR 0)
  | .vsin rm d a k => some (vRR 0x57 rm.code d a 0 0 k.codeRR 0)
  | .vcos rm d a k => some (vRR 0x58 rm.code d a 0 0 k.codeRR 0)
  | .mcall n => some (mGen 0x02 0 0 0 n 0 0)
  | .mabort => some (mGen 0x03 0 0 0 0 0 0)
  | .mswap => some (mGen 0x04 0 0 0 0 0 0)
  | .macrd rm d r => some (mGen 0x05 rm.code d 0 r 0 0)
  | .macwr rm a r => some (mGen 0x06 rm.code 0 a r 0 0)
  | .macclr => some (mGen 0x07 0 0 0 0 0 0)
  | .mpset p a => some (mGen 0x08 0 0 a 0 p 0)
  | .mpget d p => some (mGen 0x09 0 d 0 0 p 0)
  | .mstat d => some (mGen 0x0A 0 d 0 0 0 0)
  | .mload f a => some (mGen 0x0B 0 0 a 0 0 f)
  | .openH w h t u => some (cObj 0x02 (boolBit w) h t 0 u.q u.off 0)
  | .close h => some (cObj 0x03 0 h 0 0 0 0 0)
  | .info q h u => some (cObj 0x04 q.code h 0 0 u.q u.off 0)
  | .alloc t u => some (cObj 0x05 0 0 t 0 u.q u.off 0)
  | .free h => some (cObj 0x06 0 h 0 0 0 0 0)
  | .fetch m x f => some (cObj 0x10 m.code x.h x.t f 0 0 x.sh)
  | .store n x f => some (cObj 0x11 (boolBit n) x.h x.t f 0 0 x.sh)
  | .gather x f => some (cObj 0x12 0 x.h x.t f 0 0 x.sh)
  | .scatter x f => some (cObj 0x13 0 x.h x.t f 0 0 x.sh)
  | .pushr f t => some (cObj 0x14 0 0 t f 0 0 0)
  | .pref x => some (cObj 0x15 0 x.h x.t 0 0 0 x.sh)
  | .copyo x s u => some (cObj 0x16 0 x.h x.t s u.q u.off x.sh)
  | .coll k x f u => some (cObj 0x17 k.code x.h x.t f u.q u.off x.sh)
  | .publ h u => some (cObj 0x20 0 h 0 0 u.q u.off 0)
  | .subsc h t u => some (cObj 0x21 0 h t 0 u.q u.off 0)
  | .pin h u => some (cObj 0x22 0 h 0 0 u.q u.off 0)
  | .unpin h => some (cObj 0x23 0 h 0 0 0 0 0)
  | .freeze x u => some (cObj 0x24 0 x.h x.t 0 u.q u.off x.sh)
  | .thaw x u => some (cObj 0x25 0 x.h x.t 0 u.q u.off x.sh)
  | .thawt q => some (cObj 0x26 0 0 0 0 q 0 0)
  | .grant x u => some (cObj 0x27 0 x.h x.t 0 u.q u.off x.sh)
  | .atom op o s h a u => some (ySyn 0x02 h a s.code u.q u.off o.code op.code 0)
  | .red op r s h a => some (ySyn 0x03 h a s.code 0 0 (boolBit r * 2) op.code 0)
  | .ldsync q s h a u => some (ySyn 0x04 h a s.code u.q u.off (boolBit q) 0 0)
  | .stsync r s h a => some (ySyn 0x05 h a s.code 0 0 (boolBit r * 2) 0 0)
  | .barinit s h a => some (ySyn 0x08 h a s.code 0 0 0 0 0)
  | .barr s h => some (ySyn 0x09 h 0 s.code 0 0 0 0 0)
  | .barw s h u => some (ySyn 0x0A h 0 s.code u.q u.off 0 0 0)
  | .finit f => some (ySyn 0x10 0 0 0 0 0 0 0 f)
  | .fpush f a => some (ySyn 0x11 0 a 0 0 0 0 0 f)
  | .fpop f a => some (ySyn 0x12 0 a 0 0 0 0 0 f)
  | .fwait f a => some (ySyn 0x13 0 a 0 0 0 0 0 f)
  | .qclr d q => some (ySyn 0x14 d 0 0 q 0 0 0 0)
  | .tstamp u => some (ySyn 0x15 0 0 0 u.q u.off 0 0 0)
  | .spawn h a u => some (ySyn 0x20 h a 0 u.q u.off 0 0 0)
  | .spawnw h a u => some (ySyn 0x21 h a 0 u.q u.off 0 0 0)
  | .sow h a u => some (ySyn 0x22 h a 0 u.q u.off 0 0 0)
  | .bpost h a => some (ySyn 0x23 h a 0 0 0 0 0 0)
  | .bread h u => some (ySyn 0x24 h 0 0 u.q u.off 0 0 0)
  | .plotrd a u => some (ySyn 0x25 0 a 0 u.q u.off 0 0 0)
  | .trap a => some (ySyn 0x30 0 a 0 0 0 0 0 0)
  | .brk => some (ySyn 0x31 0 0 0 0 0 0 0 0)
  | .svc p a u => some (ySyn 0x32 p a 0 u.q u.off 0 0 0)
  | _ => none

/-- The 64-bit word of a syllable (R42): OP, GP, GN, RM and OPERANDS; NOP stands in any slot (R57). None where the
instruction has no encoding in the slot. -/
def encodeSyllable (slot : Slot) (g : Guard) (i : Instr) : Option Nat :=
  match i.enc with
  | none => none
  | some e =>
    if e.kind = slot.kind ∨ i = .nop then
      some (e.op + g.p.val * 2 ^ 8 + boolBit g.neg * 2 ^ 12 + e.rm * 2 ^ 13 + e.ops * 2 ^ 16)
    else none

/-! ### Decoding -/

/-- The S space (R61), given OP, RM, OPERANDS and LIMM. -/
def decodeS (op rm w limm : Nat) : Option Instr :=
  let x (k : Nat) : Fin 64 := Fin.ofNat 64 (w / 2 ^ k)
  let r (k : Nat) : Fin 16 := Fin.ofNat 16 (w / 2 ^ k)
  let imm : BitVec 32 := BitVec.ofNat 32 (w / 2 ^ 12)
  let ofs : BitVec 19 := BitVec.ofNat 19 (w / 2 ^ 12)
  let disp : BitVec 32 := BitVec.ofNat 32 (w / 2 ^ 6)
  match op with
  | 0x01 => some .nop
  | 0x02 => some (.add (x 0) (x 6) (x 12))
  | 0x03 => some (.sub (x 0) (x 6) (x 12))
  | 0x04 => some (.mul (x 0) (x 6) (x 12))
  | 0x05 => some (.mulh (x 0) (x 6) (x 12))
  | 0x06 => some (.mulhn (x 0) (x 6) (x 12))
  | 0x07 => some (.div (x 0) (x 6) (x 12))
  | 0x08 => some (.divn (x 0) (x 6) (x 12))
  | 0x09 => some (.rem (x 0) (x 6) (x 12))
  | 0x0A => some (.remn (x 0) (x 6) (x 12))
  | 0x0B => some (.min (x 0) (x 6) (x 12))
  | 0x0C => some (.max (x 0) (x 6) (x 12))
  | 0x0D => some (.minn (x 0) (x 6) (x 12))
  | 0x0E => some (.maxn (x 0) (x 6) (x 12))
  | 0x10 => some (.and (x 0) (x 6) (x 12))
  | 0x11 => some (.or (x 0) (x 6) (x 12))
  | 0x12 => some (.xor (x 0) (x 6) (x 12))
  | 0x13 => some (.andn (x 0) (x 6) (x 12))
  | 0x14 => some (.shl (x 0) (x 6) (x 12))
  | 0x15 => some (.shr (x 0) (x 6) (x 12))
  | 0x16 => some (.sra (x 0) (x 6) (x 12))
  | 0x17 => some (.rotl (x 0) (x 6) (x 12))
  | 0x18 => some (.clz (x 0) (x 6))
  | 0x19 => some (.ctz (x 0) (x 6))
  | 0x1A => some (.popc (x 0) (x 6))
  | 0x1B => (Cond.ofCode rm).map fun c => .cmp c (r 0) (x 6) (x 12)
  | 0x1C => some (.sel (x 0) (x 6) (x 12) (r 18))
  | 0x20 => some (.movi (x 0) imm)
  | 0x21 => some (.movl (x 0) (BitVec.ofNat 40 limm))
  | 0x22 => some (.addi (x 0) (x 6) imm)
  | 0x23 => some (.andi (x 0) (x 6) imm)
  | 0x24 => some (.ori (x 0) (x 6) imm)
  | 0x25 => some (.xori (x 0) (x 6) imm)
  | 0x26 => some (.shli (x 0) (x 6) (x 12))
  | 0x27 => some (.shri (x 0) (x 6) (x 12))
  | 0x28 => some (.srai (x 0) (x 6) (x 12))
  | 0x29 => (Cond.ofCode rm).map fun c => .cmpi c (r 0) (x 6) imm
  | 0x2A => some (.aadd (r 0) (r 6) imm)
  | 0x2B => some (.amovAX (r 0) (x 6))
  | 0x2C => some (.amovXA (x 0) (r 6))
  | 0x2D => some (.csrrd (x 0) (Fin.ofNat 4096 (w / 2 ^ 12)))
  | 0x2E => some (.csrwr (Fin.ofNat 4096 (w / 2 ^ 12)) (x 6))
  | 0x30 => some (.pand (r 0) (r 6) (r 12))
  | 0x31 => some (.por (r 0) (r 6) (r 12))
  | 0x32 => some (.pxor (r 0) (r 6) (r 12))
  | 0x33 => some (.pnot (r 0) (r 6))
  | 0x38 => (LdSize.ofCode rm).map fun z => .lds z (x 0) (r 6) ofs
  | 0x39 => (StSize.ofCode rm).map fun z => .sts z (x 0) (r 6) ofs
  | 0x40 => (Rm.ofCode rm).map fun m => .sfaddF32 m (x 0) (x 6) (x 12)
  | 0x41 => (Rm.ofCode rm).map fun m => .sfsubF32 m (x 0) (x 6) (x 12)
  | 0x42 => (Rm.ofCode rm).map fun m => .sfmulF32 m (x 0) (x 6) (x 12)
  | 0x43 => (Rm.ofCode rm).map fun m => .sfmaF32 m (x 0) (x 6) (x 12) (x 18)
  | 0x44 => (Rm.ofCode rm).map fun m => .sfdivF32 m (x 0) (x 6) (x 12)
  | 0x45 => (Rm.ofCode rm).map fun m => .sfsqrtF32 m (x 0) (x 6)
  | 0x46 => (FCond.ofCode rm).map fun c => .sfcmpF32 c (r 0) (x 6) (x 12)
  | 0x48 => (Rm.ofCode rm).map fun m => .sfaddF64 m (x 0) (x 6) (x 12)
  | 0x49 => (Rm.ofCode rm).map fun m => .sfsubF64 m (x 0) (x 6) (x 12)
  | 0x4A => (Rm.ofCode rm).map fun m => .sfmulF64 m (x 0) (x 6) (x 12)
  | 0x4B => (Rm.ofCode rm).map fun m => .sfmaF64 m (x 0) (x 6) (x 12) (x 18)
  | 0x4C => (Rm.ofCode rm).map fun m => .sfdivF64 m (x 0) (x 6) (x 12)
  | 0x4D => (Rm.ofCode rm).map fun m => .sfsqrtF64 m (x 0) (x 6)
  | 0x4E => (FCond.ofCode rm).map fun c => .sfcmpF64 c (r 0) (x 6) (x 12)
  | 0x4F => (Rm.ofCode rm).map fun m => .sfcvt m (x 0) (x 6) (BitVec.ofNat 5 (w / 2 ^ 12)) (BitVec.ofNat 5 (w / 2 ^ 17))
  | 0x50 => some (.tlook (x 0) (x 6))
  | 0x51 => some (.tset (x 6) (x 12))
  | 0x52 => some (.tinv (x 6))
  | 0x60 => (BrSrc.ofCode (w % 64)).map fun s => .br s disp (w / 2 ^ 38 % 2 = 1)
  | 0x61 => some (.jmp disp)
  | 0x62 => some (.jmpx (x 0))
  | 0x63 => some (.call disp)
  | 0x64 => some .ret
  | 0x65 => some (.loop (BitVec.ofNat 40 limm) disp)
  | 0x66 => some (.loopx (x 0) disp)
  | 0x67 => some (.lbreak (Fin.ofNat 7 (w % 64)) disp)
  | 0x68 => some .retire
  | 0x69 => some .yield
  | _ => none

/-- The V space (R64). -/
def decodeV (op rm w : Nat) : Option Instr :=
  let v (k : Nat) : Fin 32 := Fin.ofNat 32 (w / 2 ^ k)
  let k := MaskOp.ofCode (w / 2 ^ 20 % 32)
  let km := MaskOp.ofCode (w / 2 ^ 33 % 32)
  let ok := optMaskOf (w / 2 ^ 20 % 32)
  let okm := optMaskOf (w / 2 ^ 33 % 32)
  let m : Fin 8 := Fin.ofNat 8 (w / 2 ^ 20)
  let fn := w / 2 ^ 25 % 128
  let base : Fin 16 := Fin.ofNat 16 (w / 2 ^ 5)
  let ofs : BitVec 19 := BitVec.ofNat 19 (w / 2 ^ 9)
  let f : Fin 32 := Fin.ofNat 32 (w / 2 ^ 28)
  let imm : BitVec 32 := BitVec.ofNat 32 (w / 2 ^ 10)
  let fmt : Fmt := BitVec.ofNat 5 (w / 2 ^ 42)
  match op with
  | 0x01 => some .nop
  | 0x02 => (Rm.ofCode rm).map fun m => .vadd m (v 0) (v 5) (v 10) k
  | 0x03 => (Rm.ofCode rm).map fun m => .vsub m (v 0) (v 5) (v 10) k
  | 0x04 => (Rm.ofCode rm).map fun m => .vmul m (v 0) (v 5) (v 10) k
  | 0x05 => (Rm.ofCode rm).map fun m => .vdiv m (v 0) (v 5) (v 10) k
  | 0x06 => (Rm.ofCode rm).map fun m => .vsqrt m (v 0) (v 5) k
  | 0x07 => (Rm.ofCode rm).map fun m => .vrcp m (v 0) (v 5) k
  | 0x08 => (Rm.ofCode rm).map fun m => .vrsq m (v 0) (v 5) k
  | 0x09 => some (.vmin (v 0) (v 5) (v 10) k)
  | 0x0A => some (.vmax (v 0) (v 5) (v 10) k)
  | 0x0B => some (.vabs (v 0) (v 5) k)
  | 0x0C => some (.vneg (v 0) (v 5) k)
  | 0x0D => some (.vcps (v 0) (v 5) (v 10) k)
  | 0x0E => (FCond.ofCode rm).map fun c => .vcmp c (Fin.ofNat 8 w) (v 5) (v 10) k
  | 0x0F => some (.vclass (Fin.ofNat 8 w) (v 5) (BitVec.ofNat 7 fn))
  | 0x10 => some (.vsel (v 0) (v 5) (v 10) m)
  | 0x13 => (Rm.ofCode rm).map fun m => .vfma m (v 0) (v 5) (v 10) (v 15) k
  | 0x14 => (Rm.ofCode rm).map fun m => .vfms m (v 0) (v 5) (v 10) (v 15) k
  | 0x15 => (Rm.ofCode rm).map fun m => .vfnma m (v 0) (v 5) (v 10) (v 15) k
  | 0x18 => some (.vand (v 0) (v 5) (v 10) k)
  | 0x19 => some (.vor (v 0) (v 5) (v 10) k)
  | 0x1A => some (.vxor (v 0) (v 5) (v 10) k)
  | 0x1B => some (.vnot (v 0) (v 5) k)
  | 0x1C => some (.vshl (v 0) (v 5) (v 10) k)
  | 0x1D => some (.vshr (v 0) (v 5) (v 10) k)
  | 0x1E => some (.vsra (v 0) (v 5) (v 10) k)
  | 0x20 => (Rm.ofCode rm).map fun m => .vcvt m (v 0) (v 5) (BitVec.ofNat 5 fn) k
  | 0x21 => (Rm.ofCode rm).map fun m => .vscale m (v 0) (v 5) (v 10) k
  | 0x22 => some (.vtag (v 0) (v 5) fmt (BitVec.ofNat 8 (w / 2 ^ 10)) (w / 2 ^ 18 % 2 = 1))
  | 0x23 => some (.vmov (v 0) (v 5) k)
  | 0x24 => some (.vmovi (v 0) imm fmt)
  | 0x25 => some (.vbcast (v 0) (v 5) (Fin.ofNat 128 fn))
  | 0x30 => some (.vld (v 0) base ofs km)
  | 0x31 => some (.vst (v 0) base ofs km)
  | 0x32 => some (.vldf (v 0) f km)
  | 0x33 => some (.vstf f (v 0) okm)
  | 0x34 => (GSize.ofCode fn).map fun z => .vgath z (v 0) (v 5) k
  | 0x35 => (GSize.ofCode fn).map fun z => .vscat z (v 5) (v 10) ok
  | 0x36 => some (.vperm (v 0) (v 5) (v 10))
  | 0x37 => some (.vxcl (v 0) (v 5) (v 10))
  | 0x38 => (VRedOp.ofCode fn).bind fun o => (Rm.ofCode rm).map fun m => .vred o m (v 0) (v 5) ok
  | 0x39 => (VScanOp.ofCode fn).bind fun o => (Rm.ofCode rm).map fun m => .vscan o m (v 0) (v 5) k
  | 0x3A => some (.viota (v 0))
  | 0x3B => some (.vtos (v 0) (v 5) (Fin.ofNat 128 fn))
  | 0x40 => some (.vrand (v 0))
  | 0x41 => some (.vdefer m (([v 0, v 5, v 10, v 15] : List (Fin 32)).take (fn % 4 + 1)))
  | 0x42 => some (.vdrain (v 0) m (Fin.ofNat 4 fn))
  | 0x48 => some (.vhash (v 0) (v 5) ok)
  | 0x50 => (Rm.ofCode rm).map fun m => .vexp m (v 0) (v 5) k
  | 0x51 => (Rm.ofCode rm).map fun m => .vexp2 m (v 0) (v 5) k
  | 0x52 => (Rm.ofCode rm).map fun m => .vlog m (v 0) (v 5) k
  | 0x53 => (Rm.ofCode rm).map fun m => .vlog2 m (v 0) (v 5) k
  | 0x54 => (Rm.ofCode rm).map fun m => .vtanh m (v 0) (v 5) k
  | 0x55 => (Rm.ofCode rm).map fun m => .vsigm m (v 0) (v 5) k
  | 0x56 => (Rm.ofCode rm).map fun m => .verf m (v 0) (v 5) k
  | 0x57 => (Rm.ofCode rm).map fun m => .vsin m (v 0) (v 5) k
  | 0x58 => (Rm.ofCode rm).map fun m => .vcos m (v 0) (v 5) k
  | _ => none

/-- The M space (R65). -/
def decodeM (op rm w : Nat) : Option Instr :=
  let x (k : Nat) : Fin 64 := Fin.ofNat 64 (w / 2 ^ k)
  let idx : Fin 256 := Fin.ofNat 256 (w / 2 ^ 12)
  let p : Fin 8 := Fin.ofNat 8 (w / 2 ^ 20)
  match op with
  | 0x01 => some .nop
  | 0x02 => some (.mcall idx)
  | 0x03 => some .mabort
  | 0x04 => some .mswap
  | 0x05 => (Rm.ofCode rm).map fun m => .macrd m (Fin.ofNat 32 w) idx
  | 0x06 => (Rm.ofCode rm).map fun m => .macwr m (Fin.ofNat 32 (w / 2 ^ 6)) idx
  | 0x07 => some .macclr
  | 0x08 => some (.mpset p (x 6))
  | 0x09 => some (.mpget (x 0) p)
  | 0x0A => some (.mstat (x 0))
  | 0x0B => some (.mload (Fin.ofNat 32 (w / 2 ^ 23)) (x 6))
  | _ => none

/-- The C space (R66). -/
def decodeC (op rm w : Nat) : Option Instr :=
  let h : Fin 16 := Fin.ofNat 16 w
  let t : Fin 16 := Fin.ofNat 16 (w / 2 ^ 4)
  let f : Fin 32 := Fin.ofNat 32 (w / 2 ^ 8)
  let u : Due := ⟨Fin.ofNat 16 (w / 2 ^ 16), Fin.ofNat 256 (w / 2 ^ 20)⟩
  let x : Tile := ⟨h, t, Fin.ofNat 64 (w / 2 ^ 28)⟩
  match op with
  | 0x01 => some .nop
  | 0x02 => some (.openH (rm % 2 = 1) h t u)
  | 0x03 => some (.close h)
  | 0x04 => (InfoQ.ofCode rm).map fun q => .info q h u
  | 0x05 => some (.alloc t u)
  | 0x06 => some (.free h)
  | 0x10 => (FetchMod.ofCode rm).map fun m => .fetch m x f
  | 0x11 => some (.store (rm % 2 = 1) x f)
  | 0x12 => some (.gather x f)
  | 0x13 => some (.scatter x f)
  | 0x14 => some (.pushr f t)
  | 0x15 => some (.pref x)
  | 0x16 => some (.copyo x (Fin.ofNat 16 (w / 2 ^ 8)) u)
  | 0x17 => (CollKind.ofCode rm).map fun k => .coll k x f u
  | 0x20 => some (.publ h u)
  | 0x21 => some (.subsc h t u)
  | 0x22 => some (.pin h u)
  | 0x23 => some (.unpin h)
  | 0x24 => some (.freeze x u)
  | 0x25 => some (.thaw x u)
  | 0x26 => some (.thawt u.q)
  | 0x27 => some (.grant x u)
  | _ => none

/-- The Y space (R67). -/
def decodeY (op w : Nat) : Option Instr :=
  let h : Fin 16 := Fin.ofNat 16 w
  let d : Fin 64 := Fin.ofNat 64 w
  let a : Fin 64 := Fin.ofNat 64 (w / 2 ^ 6)
  let u : Due := ⟨Fin.ofNat 16 (w / 2 ^ 16), Fin.ofNat 256 (w / 2 ^ 20)⟩
  let sc := Scope.ofCode (w / 2 ^ 12 % 8)
  let ord := w / 2 ^ 28 % 4
  let op' := AtomOp.ofCode (w / 2 ^ 30 % 16)
  let f : Fin 32 := Fin.ofNat 32 (w / 2 ^ 34)
  match op with
  | 0x01 => some .nop
  | 0x02 => op'.bind fun o => sc.bind fun s => (Ord.ofCode ord).map fun r => .atom o r s h a u
  | 0x03 => op'.bind fun o => sc.map fun s => .red o (ord = 2) s h a
  | 0x04 => sc.map fun s => .ldsync (ord = 1) s h a u
  | 0x05 => sc.map fun s => .stsync (ord = 2) s h a
  | 0x08 => sc.map fun s => .barinit s h a
  | 0x09 => sc.map fun s => .barr s h
  | 0x0A => sc.map fun s => .barw s h u
  | 0x10 => some (.finit f)
  | 0x11 => some (.fpush f a)
  | 0x12 => some (.fpop f a)
  | 0x13 => some (.fwait f a)
  | 0x14 => some (.qclr d u.q)
  | 0x15 => some (.tstamp u)
  | 0x20 => some (.spawn h a u)
  | 0x21 => some (.spawnw h a u)
  | 0x22 => some (.sow h a u)
  | 0x23 => some (.bpost h a)
  | 0x24 => some (.bread h u)
  | 0x25 => some (.plotrd a u)
  | 0x30 => some (.trap a)
  | 0x31 => some .brk
  | 0x32 => some (.svc d a u)
  | _ => none

/-- Whether an opcode is assigned in a slot kind's space (R56): the codes of `Instr.enc`. -/
def opAssigned (k : Kind) (op : Nat) : Bool :=
  op = 1 ||
  match k with
  | .s => (2 ≤ op && op ≤ 0x0E) || (0x10 ≤ op && op ≤ 0x1C) || (0x20 ≤ op && op ≤ 0x2E) || (0x30 ≤ op && op ≤ 0x33) ||
      op = 0x38 || op = 0x39 || (0x40 ≤ op && op ≤ 0x46) || (0x48 ≤ op && op ≤ 0x52) || (0x60 ≤ op && op ≤ 0x69)
  | .v => (2 ≤ op && op ≤ 0x10) || (0x13 ≤ op && op ≤ 0x15) || (0x18 ≤ op && op ≤ 0x1E) || (0x20 ≤ op && op ≤ 0x25) ||
      (0x30 ≤ op && op ≤ 0x3B) || (0x40 ≤ op && op ≤ 0x42) || op = 0x48 || (0x50 ≤ op && op ≤ 0x58)
  | .m => 2 ≤ op && op ≤ 0x0B
  | .c => (2 ≤ op && op ≤ 6) || (0x10 ≤ op && op ≤ 0x17) || (0x20 ≤ op && op ≤ 0x27)
  | .y => (2 ≤ op && op ≤ 5) || (8 ≤ op && op ≤ 0x0A) || (0x10 ≤ op && op ≤ 0x15) || (0x20 ≤ op && op ≤ 0x25) ||
      (0x30 ≤ op && op ≤ 0x32)

/-- The fields of a syllable by its slot kind, before its reserved bits are checked. -/
def decodeFields (k : Kind) (op rm w limm : Nat) : Option Instr :=
  match k with
  | .s => decodeS op rm w limm
  | .v => decodeV op rm w
  | .m => decodeM op rm w
  | .c => decodeC op rm w
  | .y => decodeY op w

/-- The guard field (R42). -/
def decodeGuard (w : Nat) : Guard := ⟨Fin.ofNat 16 (w / 2 ^ 8), w / 2 ^ 12 % 2 = 1⟩

/-- A syllable's instruction and guard (R42, R48). A word that is not the encoding of what its fields say has a nonzero
reserved bit. -/
def decodeSyllable (slot : Slot) (limm w : Nat) : Except DecodeError Syllable :=
  let op := w % 256
  if op = 0 then .error .opZero
  else if opAssigned slot.kind op = false then .error .unassigned
  else match decodeFields slot.kind op (w / 2 ^ 13 % 8) (w / 2 ^ 16) limm with
    | none => .error .modifier
    | some i =>
      if i.wf = false then .error .range
      else if encodeSyllable slot (decodeGuard w) i = some w then .ok ⟨slot, decodeGuard w, i⟩
      else .error .reserved

/-! ### Bundles -/

/-- The seven slots in encoding order (R36). -/
def allSlots : List Slot := [.s, .v0, .v1, .m, .c0, .c1, .y]

/-- The slots a SLOTS field names (R35). -/
def slotsOf (n : Nat) : List Slot :=
  (allSlots.zip (List.range 7)).filterMap fun x => if n / 2 ^ x.2 % 2 = 1 then some x.1 else none

/-- Whether an instruction reads LIMM (R41): MOVL and LOOP. -/
def Instr.readsLimm : Instr → Bool
  | .movl .. => true
  | .loop .. => true
  | _ => false

/-- FIRST, LAST and LEVEL (R35, R40). -/
def decodeLevel (first last : Bool) (level : Nat) : Option LevelTest :=
  match first, last with
  | false, false => if level = 0 then some .none else none
  | true, false => if 1 ≤ level ∧ level ≤ 6 then some (.first (Fin.ofNat 6 (level - 1))) else none
  | false, true => if 1 ≤ level ∧ level ≤ 6 then some (.last (Fin.ofNat 6 (level - 1))) else none
  | true, true => if 1 ≤ level ∧ level ≤ 6 then some (.both (Fin.ofNat 6 (level - 1))) else none

/-- The registers an instruction's entry lists as written, by which R47 finds conflicts. -/
def Instr.dests : Instr → List Reg
  | .add d _ _ | .sub d _ _ | .mul d _ _ | .mulh d _ _ | .mulhn d _ _ | .div d _ _ | .divn d _ _ | .rem d _ _
  | .remn d _ _ | .min d _ _ | .max d _ _ | .minn d _ _ | .maxn d _ _ | .and d _ _ | .or d _ _ | .xor d _ _
  | .andn d _ _ | .shl d _ _ | .shr d _ _ | .sra d _ _ | .rotl d _ _ | .clz d _ | .ctz d _ | .popc d _
  | .sel d _ _ _ | .movi d _ | .movl d _ | .addi d _ _ | .andi d _ _ | .ori d _ _ | .xori d _ _ | .shli d _ _
  | .shri d _ _ | .srai d _ _ | .amovXA d _ | .csrrd d _ | .lds _ d _ _ | .sfaddF32 _ d _ _ | .sfsubF32 _ d _ _
  | .sfmulF32 _ d _ _ | .sfmaF32 _ d _ _ _ | .sfdivF32 _ d _ _ | .sfsqrtF32 _ d _ | .sfaddF64 _ d _ _
  | .sfsubF64 _ d _ _ | .sfmulF64 _ d _ _ | .sfmaF64 _ d _ _ _ | .sfdivF64 _ d _ _ | .sfsqrtF64 _ d _
  | .sfcvt _ d _ _ _ | .tlook d _ | .mpget d _ | .mstat d | .qclr d _ => [.x d.val]
  | .vtos d _ _ => [.x d.val]
  | .cmp _ d _ _ | .cmpi _ d _ _ | .pand d _ _ | .por d _ _ | .pxor d _ _ | .pnot d _ | .sfcmpF32 _ d _ _
  | .sfcmpF64 _ d _ _ => [.p d.val]
  | .aadd d _ _ | .amovAX d _ => [.a d.val]
  | .vadd _ d _ _ _ | .vsub _ d _ _ _ | .vmul _ d _ _ _ | .vdiv _ d _ _ _ | .vsqrt _ d _ _ | .vrcp _ d _ _
  | .vrsq _ d _ _ | .vmin d _ _ _ | .vmax d _ _ _ | .vabs d _ _ | .vneg d _ _ | .vcps d _ _ _ | .vsel d _ _ _
  | .vfma _ d _ _ _ _ | .vfms _ d _ _ _ _ | .vfnma _ d _ _ _ _ | .vand d _ _ _ | .vor d _ _ _ | .vxor d _ _ _
  | .vnot d _ _ | .vshl d _ _ _ | .vshr d _ _ _ | .vsra d _ _ _ | .vcvt _ d _ _ _ | .vscale _ d _ _ _
  | .vtag d _ _ _ _ | .vmov d _ _ | .vmovi d _ _ | .vbcast d _ _ | .vld d _ _ _ | .vldf d _ _ | .vgath _ d _ _
  | .vperm d _ _ | .vxcl d _ _ | .vred _ _ d _ _ | .vscan _ _ d _ _ | .viota d | .vrand d | .vhash d _ _
  | .vexp _ d _ _ | .vexp2 _ d _ _ | .vlog _ d _ _ | .vlog2 _ d _ _ | .vtanh _ d _ _ | .vsigm _ d _ _
  | .verf _ d _ _ | .vsin _ d _ _ | .vcos _ d _ _ | .macrd _ d _ => [.v d.val]
  | .vdrain d m c => .m m.val :: (List.range (c.val + 2)).map fun k => .v (d.val + k)
  | .vcmp _ d _ _ _ | .vclass d _ _ => [.m d.val]
  | .mpset p _ => [.mp p.val]
  | .openH _ h _ _ | .close h | .free h | .pin h _ | .unpin h | .subsc h _ _ | .publ h _ => [.h h.val]
  | _ => []

/-- The landing slot a syllable names (R47). -/
def Instr.landing : Instr → Option (Fin 16)
  | .openH _ _ _ u | .info _ _ u | .alloc _ u | .copyo _ _ u | .coll _ _ _ u | .publ _ u | .subsc _ _ u | .pin _ u
  | .freeze _ u | .thaw _ u | .grant _ u | .atom _ _ _ _ _ u | .ldsync _ _ _ _ u | .barw _ _ u | .tstamp u
  | .spawn _ _ u | .spawnw _ _ u | .sow _ _ u | .bread _ u | .plotrd _ u | .svc _ _ u => some u.q
  | .thawt q | .qclr _ q => some q
  | _ => none

/-- Whether a syllable acts on the random-bits queue, or on the deferral queue (R58). -/
def Instr.queueUse : Instr → Nat
  | .vrand _ => 1
  | .vdefer .. => 2
  | .vdrain .. => 2
  | _ => 0

/-- The same-bundle conflicts of R47 and R58, whatever the guards. -/
def conflicts (is : List Instr) : Bool :=
  let ds := (is.map Instr.dests).flatten
  let qs := is.filterMap Instr.landing
  let us := (is.map Instr.queueUse).filter (· ≠ 0)
  !(decide ds.Nodup && decide qs.Nodup && decide us.Nodup)

/-- Whether a syllable is a transfer (R91), and whether it is a transfer or a loop opener. -/
def Instr.isTransfer : Instr → Bool
  | .br .. | .jmp _ | .jmpx _ | .call _ | .ret | .lbreak .. => true
  | _ => false
def Instr.isTransferOrLoop : Instr → Bool
  | .loop .. | .loopx .. => true
  | i => i.isTransfer

/-- The signed byte displacement of DISP (R91). -/
def dispBytes (disp : BitVec 32) : Int := 8 * disp.toInt

/-- LOOP and LOOPX must end at or beyond the next bundle (R100). -/
def Instr.loopEndOk (len : Nat) : Instr → Bool
  | .loop _ d | .loopx _ d => decide ((len : Int) ≤ dispBytes d)
  | _ => true

/-- The header's number of syllables gives the bundle's length in bytes (R36). -/
def bundleLen (hdr : Nat) : Nat := 8 * (1 + (slotsOf hdr).length)

/-- Decode each syllable word in its slot. -/
def decodeSylls (limm : Nat) : List Slot → List Nat → Except DecodeError (List Syllable)
  | [], _ => .ok []
  | _ :: _, [] => .error .short
  | sl :: sls, w :: ws =>
    match decodeSyllable sl limm w with
    | .error e => .error e
    | .ok y =>
      match decodeSylls limm sls ws with
      | .error e => .error e
      | .ok ys => .ok (y :: ys)

/-- A bundle from its words, header first (R35, R36, R40, R41, R47, R48, R58, R100). -/
def decodeWords : List Nat → Except DecodeError Bundle
  | [] => .error .short
  | h :: ws =>
    let limm := h / 2 ^ 24 % 2 ^ 40
    let limmv := h / 2 ^ 17 % 2
    if h / 2 ^ 18 % 2 ^ 6 ≠ 0 ∨ h / 2 ^ 7 % 2 ≠ 0 ∨ (limmv = 0 ∧ limm ≠ 0) then .error .header
    else match decodeLevel (h / 2 ^ 15 % 2 = 1) (h / 2 ^ 16 % 2 = 1) (h / 2 ^ 12 % 8) with
      | none => .error .header
      | some t =>
        match decodeSylls limm (slotsOf h) ws with
        | .error e => .error e
        | .ok ys =>
          let is := ys.map (·.instr)
          if (is.filter Instr.readsLimm).length ≠ limmv then .error .limm
          else if conflicts is then .error .conflict
          else if is.all (Instr.loopEndOk (bundleLen h)) = false then .error .loopEnd
          else .ok ⟨t, Fin.ofNat 16 (h / 2 ^ 8), ys⟩

/-! ### Encoding of bundles -/

/-- The bit of SLOTS that names a slot (R35). -/
def Slot.bit : Slot → Nat
  | .s => 1 | .v0 => 2 | .v1 => 4 | .m => 8 | .c0 => 16 | .c1 => 32 | .y => 64

/-- FIRST, LAST and LEVEL as header bits [16:12]. -/
def LevelTest.code : LevelTest → Nat
  | .none => 0
  | .first l => 8 + (l.val + 1)
  | .last l => 16 + (l.val + 1)
  | .both l => 24 + (l.val + 1)

/-- The long immediate an instruction carries. -/
def Instr.limm : Instr → Nat
  | .movl _ l => l.toNat
  | .loop l _ => l.toNat
  | _ => 0

/-- A header (R35). -/
def encodeHeader (t : LevelTest) (stall : Fin 16) (ys : List Syllable) : Nat :=
  let reader := ys.find? (·.instr.readsLimm)
  (ys.map (·.slot.bit)).sum + stall.val * 2 ^ 8 + t.code * 2 ^ 12 +
    (match reader with | some y => 2 ^ 17 + y.instr.limm * 2 ^ 24 | none => 0)

/-- The words of a bundle, header first (R36); none where a syllable has no encoding in its slot. -/
def encodeBundle (b : Bundle) : Option (List Nat) :=
  (b.sylls.mapM fun y => encodeSyllable y.slot y.guard y.instr).map fun ws => encodeHeader b.test b.stall b.sylls :: ws

/-- The first slot of an instruction's kind; NOP stands in S (R57). -/
def Instr.slot (i : Instr) : Option Slot :=
  match i.enc with
  | none => none
  | some e => some (match e.kind with | .s => .s | .v => .v0 | .m => .m | .c => .c0 | .y => .y)

/-- The bundle that holds one instruction alone, unguarded, with STALL 0: the empty bundle for EMPTY_BUNDLE (R36). -/
def Instr.bundle (i : Instr) : Option Bundle :=
  if i = .emptyBundle then some ⟨.none, 0, []⟩
  else i.slot.map fun s => ⟨.none, 0, [⟨s, ⟨0, false⟩, i⟩]⟩

/-- The words of an instruction: its one-syllable bundle. -/
def encode (i : Instr) : Option (List Nat) := i.bundle.bind encodeBundle

/-- The first words of a number whose bit 0 is the least significant bit of the first word. -/
def wordsOf : Nat → Nat → List Nat
  | 0, _ => []
  | n + 1, w => w % 2 ^ 64 :: wordsOf n (w / 2 ^ 64)

/-- The number whose 64-bit words, least significant first, are a list. -/
def numOf : List Nat → Nat
  | [] => 0
  | w :: ws => w + 2 ^ 64 * numOf ws

/-- The instruction that the decoder reads from a bundle of one syllable, or the empty bundle, whose bits are w. A
bundle of several syllables is no one instruction. -/
def decodeTableWord (_nbits w : Nat) : Option Instr :=
  match decodeWords (wordsOf 8 w) with
  | .ok ⟨_, _, []⟩ => some .emptyBundle
  | .ok ⟨_, _, [y]⟩ => some y.instr
  | _ => none

/-! ### Microwords (R69, R184, R185) -/

def MRm.code : MRm → Nat
  | .mode r => r.code | .arg => 6
def MRm.ofCode (n : Nat) : Option MRm := if n = 6 then some .arg else (Rm.ofCode n).map .mode
def Skip.code : Skip → Nat
  | .always => 0 | .last l => l.val + 1
def Skip.ofCode : Nat → Option Skip
  | 0 => some .always | 1 => some (.last 0) | 2 => some (.last 1) | _ => none
def Stg.code : Stg → Nat
  | .stage k => k.val | .other => 2
def Stg.ofCode : Nat → Option Stg
  | 0 => some (.stage 0) | 1 => some (.stage 1) | 2 => some .other | _ => none
def Fill.code : Fill → Nat
  | .zero => 0 | .low => 1 | .high => 2
def Fill.ofCode : Nat → Option Fill
  | 0 => some .zero | 1 => some .low | 2 => some .high | _ => none
/-- NSEL at [12:9] and CNT at [28:13], counted from bit 9. -/
def Count.code : Count → Nat
  | .imm n => n.val * 2 ^ 4 | .arg k => k.val + 1
def Count.ofCode (w : Nat) : Option Count :=
  let k := w % 16
  if k = 0 then some (.imm (Fin.ofNat 65536 (w / 2 ^ 4))) else if k ≤ 12 then some (.arg (Fin.ofNat 12 (k - 1))) else none
/-- SRC at [52:51] and F at [57:53], counted from bit 51. -/
def BSrc.code : BSrc → Nat
  | .scratch => 0 | .furrow f => 1 + f.val * 4 | .arg => 2
def BSrc.ofCode (w : Nat) : Option BSrc :=
  match w % 4 with
  | 0 => some .scratch | 1 => some (.furrow (Fin.ofNat 32 (w / 4))) | 2 => some .arg | _ => none

/-- The fields of a cell operation as a microword without its OPC. -/
def Cell.code (c : Cell) : Nat :=
  c.rm.code * 2 ^ 4 + c.skip.code * 2 ^ 7 + c.cnt.code * 2 ^ 9 + c.row0.val * 2 ^ 29 + c.kb.val * 2 ^ 37

/-- The 128-bit microword of an engine operation (R184). -/
def encodeMicro : Instr → Option Nat
  | .mnop => some 1
  | .mad c => some (2 + c.code)
  | .ada c => some (3 + c.code)
  | .mxp c => some (4 + c.code)
  | .mnp c => some (5 + c.code)
  | .bld sk bix st sr => some (6 + sk.code * 2 ^ 7 + bix.val * 2 ^ 37 + st.code * 2 ^ 49 + sr.code * 2 ^ 51)
  | .bsel st => some (7 + st.code * 2 ^ 49)
  | .zero f => some (8 + f.code * 2 ^ 58)
  | .mloopOpen l =>
      some (9 + l.cnt.code * 2 ^ 9 + l.lvl.val * 2 ^ 60 + boolBit l.rew * 2 ^ 62 + l.dist.val * 2 ^ 63 +
        l.kstep.val * 2 ^ 75 + l.rstep.val * 2 ^ 83)
  | .mloopClose l => some (9 + l.val * 2 ^ 60 + 2 ^ 61)
  | .mend => some 10
  | _ => none

/-- The fields of a microword, before its reserved bits are checked. -/
def decodeMicroFields (w : Nat) : Option Instr :=
  let cell : Option Cell :=
    (MRm.ofCode (w / 2 ^ 4 % 8)).bind fun rm => (Skip.ofCode (w / 2 ^ 7 % 4)).bind fun sk =>
      (Count.ofCode (w / 2 ^ 9 % 2 ^ 20)).map fun n =>
        ⟨rm, sk, n, Fin.ofNat 256 (w / 2 ^ 29), Fin.ofNat 4096 (w / 2 ^ 37)⟩
  let stg := Stg.ofCode (w / 2 ^ 49 % 4)
  match w % 16 with
  | 1 => some .mnop
  | 2 => cell.map .mad
  | 3 => cell.map .ada
  | 4 => cell.map .mxp
  | 5 => cell.map .mnp
  | 6 => (Skip.ofCode (w / 2 ^ 7 % 4)).bind fun sk => stg.bind fun st =>
      (BSrc.ofCode (w / 2 ^ 51 % 128)).map fun sr => .bld sk (Fin.ofNat 4096 (w / 2 ^ 37)) st sr
  | 7 => stg.map .bsel
  | 8 => (Fill.ofCode (w / 2 ^ 58 % 4)).map .zero
  | 9 =>
    if w / 2 ^ 61 % 2 = 1 then some (.mloopClose (Fin.ofNat 2 (w / 2 ^ 60)))
    else (Count.ofCode (w / 2 ^ 9 % 2 ^ 20)).map fun n =>
      .mloopOpen ⟨Fin.ofNat 2 (w / 2 ^ 60), w / 2 ^ 62 % 2 = 1, Fin.ofNat 4096 (w / 2 ^ 63), Fin.ofNat 256 (w / 2 ^ 75),
        Fin.ofNat 512 (w / 2 ^ 83), n⟩
  | 10 => some .mend
  | _ => none

/-- A microword, or the engine fault code it raises (R69, R176, R185): 0x01 for an operation code that names none, 0x08
for a reserved field or field code. F of a BLD whose SRC is not 01 is a reserved field. -/
def decodeMicro (w : Nat) : Except Nat Instr :=
  if w % 16 = 0 ∨ 11 ≤ w % 16 then .error 1
  else match decodeMicroFields w with
    | none => .error 8
    | some i => if encodeMicro i = some w then .ok i else .error 8

/-! ### Host commands (R331) -/

/-- The fields of a pair's 64-byte submission (R331, R333). -/
def commandOf (pair seq w : Nat) : Command :=
  { pair := pair, seq := seq, opc := BitVec.ofNat 8 w, ord := w / 2 ^ 16 % 2 = 1, tag := BitVec.ofNat 32 (w / 2 ^ 32),
    plot := BitVec.ofNat 32 (w / 2 ^ 64), a32 := BitVec.ofNat 32 (w / 2 ^ 96), w0 := BitVec.ofNat 64 (w / 2 ^ 128),
    w1 := BitVec.ofNat 64 (w / 2 ^ 192), w2 := BitVec.ofNat 64 (w / 2 ^ 256), w3 := BitVec.ofNat 64 (w / 2 ^ 320),
    w4 := BitVec.ofNat 64 (w / 2 ^ 384), w5 := BitVec.ofNat 64 (w / 2 ^ 448) }
/-- The step of a submission; none for a nonzero reserved field or a reserved opcode. -/
def decodeCommand (w : Nat) : Option Instr :=
  if w / 2 ^ 8 % 2 ^ 8 ≠ 0 ∨ w / 2 ^ 17 % 2 ^ 15 ≠ 0 then none
  else match w % 256 with
    | 0x01 => some .plotCreate
    | 0x02 => some .plotClose
    | 0x03 => some .tasksetSubmit
    | 0x04 => some .objCreate
    | 0x05 => some .objWrite
    | 0x06 => some .objRead
    | 0x07 => some .objFree
    | 0x08 => some .policySet
    | 0x09 => some .portBind
    | 0x0A => some .taskResume
    | 0x0B => some .domainTerminate
    | 0x0C => some .debugAttach
    | 0x0D => some .minhbmSet
    | 0x0E => if w / 2 ^ 96 % 2 = 1 then some .snapWrite else some .snapRead
    | 0x0F => some .journalRead
    | 0x10 => some .apertureSet
    | _ => none

end Sys2Proof
end

