-- ==== Sys2Proof/Machine/State.lean ====
section
/-! DEFINITION. The state of one X4 package, as plain data: the core whose turn it is and the others, the objects and
their homes, the plots and dispatchers, the host port, the links and the management controller. -/
namespace Sys2Proof.Machine

/-! ### Outcomes -/

/-- Why a run stops with a fault. Every trap the spec describes is a NEXT state, so this is the only one. -/
inductive Fault
  /-- Raised by the microwords' meanings when no routine is running: the hardware takes no such step (R186). Safe: no
  step of the machine reaches it. -/
  | engineIdle
deriving DecidableEq, Repr

/-- Why a meaning refuses. -/
inductive Refusal
  /-- Raised only by an arm of exec whose instruction has no meaning. Safe. -/
  | notModelled (mnemonic : String)
deriving DecidableEq, Repr

/-- The trap causes, in code order from 0x01 (R299). -/
inductive Cause
  | illegal | delayBranch | loopNest | stallShort | formatMismatch | formatEmulate | formatReserved | poison
  | orphanWait | scratchBounds | objBounds | objRights | objMissing | writeFrozen | grainConflict | scope
  | barrierTimeout | furrowConfig | deferFull | microFault | svcFault | break_ | trapInsn | callDepth | version | quota
deriving DecidableEq, Repr

/-! ### The core's registers -/

/-- A format tag: code, tile scale, poison bit (R109). -/
structure Tag where
  fmt    : Fmt
  scale  : BitVec 8
  poison : Bool
deriving DecidableEq, Repr

/-- A vector register: its 512-byte image and its tag (R18). -/
structure VReg where
  data : VBits
  tag  : Tag
deriving DecidableEq, Repr

/-- An h-register (R197). `due` names the landing slot with whose due bundle a new state is to come (R216, R232). -/
structure HReg where
  handle : Word
  opened : Bool
  write  : Bool
  rights : BitVec 7
  ver    : BitVec 32
  due    : Option (Fin 16)
deriving DecidableEq, Repr

/-- What a request brings back: the word, and the new state of an h-register if the request gives one (R216, R232). -/
structure Landing where
  word : Word
  hset : Option (Fin 16 × HReg)
deriving DecidableEq, Repr

/-- A landing slot (R255). `due` is the issue number of the due bundle; `got` the word that has arrived. -/
inductive QSlot
  | empty
  | outstanding (due : Nat) (req : Nat) (thaw : Bool) (got : Option Landing)
  | landed (word : Word) (thaw : Bool)
deriving DecidableEq, Repr

/-- A slot that a producing request claimed and that is not yet counted filled, or that a consuming request took and that is
not yet counted free; `done` once it is filled or popped (R22, R213). -/
structure Claim where
  req  : Nat
  slot : Nat
  done : Bool
deriving DecidableEq, Repr

/-- A furrow descriptor (R210), its V cursors (R155), whether a .furrow directive declared it (R270), its claims, and the slots consuming requests have taken, by request (R213).
`slotsz` is in bytes and `count` in slots. -/
structure Furrow where
  base   : Nat
  slotsz : Nat
  count  : Nat
  filled : Nat
  free   : Nat
  prod   : Nat
  cons   : Nat
  remote : Bool
  init   : Bool
  pcore  : Nat
  pbnd   : Bool
  tail   : Nat
  head   : Nat
  vrd    : Nat
  vwr    : Nat
  decl   : Bool
  claims : List Claim
  taken  : List Claim
deriving DecidableEq, Repr

/-- An active loop level (R98). -/
structure Level where
  lc : Nat
  n  : Nat
  b  : Nat
  e  : Nat
  sw : Word
  cd : Nat
deriving DecidableEq, Repr

/-- An entry of the call stack (R97): return address and loop depth at the call. -/
structure CallEntry where
  addr  : Nat
  depth : Nat
deriving DecidableEq, Repr

/-- What a taken transfer does to the stacks at the end of its second delay slot (R97, R102). -/
inductive StackAct
  | none
  | push (e : CallEntry)
  | pop
  | leave (atLeast : Nat)
deriving DecidableEq, Repr

/-- A pending redirection: the bundles at whose end it falls, the target if taken, the stack action, the fetch cost (R91
to R93). A transfer waits for its own bundle and two delay slots. -/
structure Redirect where
  left   : Nat
  target : Option Nat
  act    : StackAct
  cost   : Nat
deriving DecidableEq, Repr

/-- An entry of the deferral queue (R164). -/
structure DeferEntry where
  lane   : Nat
  w0     : BitVec 32
  w1     : BitVec 32
  w2     : BitVec 32
  w3     : BitVec 32
  poison : Bool
deriving DecidableEq, Repr

/-- A register write of fixed latency. -/
inductive Wr
  | x (r : Fin 64) (v : Word)
  | a (r : Fin 16) (v : Word)
  | p (r : Fin 16) (b : Bool)
  | v (r : Fin 32) (x : VReg)
  | m (r : Fin 8) (b : MBits)
  | mp (r : Fin 8) (v : Word)
deriving DecidableEq, Repr

/-- A result in flight: written at the end of task cycle `ready` (R38). -/
structure InFlight where
  ready : Nat
  wr    : Wr
deriving DecidableEq, Repr

/-- A scratch load whose phase-3 cycle is still to come (R72): the register it writes and when, its place among the results in flight
for that register and cycle, the bytes it reads, and the task cycle in which the scalar port performs it. -/
structure LoadRec where
  reg    : Fin 64
  ready  : Nat
  nth    : Nat
  addr   : Nat
  size   : Nat
  signed : Bool
  port   : Nat
deriving DecidableEq, Repr

/-- A deferred effect of the bundle being issued, applied at the end of its cycle: bytes of scratch, poison marks,
furrow counts, the claims that are filled, the switch of the scoreboard, a furrow's initialisation, a new state of an h-register or of a landing slot
that a request names, MABORT's end of the engine's work; `taken` only records slots taken in this cycle
(R21, R73, R76, R153, R155, R213, R270). -/
inductive EndEffect
  | bytes (addr : Nat) (data : List Byte)
  | mark (line : Nat) (on : Bool)
  | fill (f : Fin 32) (n : Nat)
  | release (f : Fin 32) (n : Nat)
  | sbchk (on : Bool)
  | taken (f : Fin 32) (n : Nat)
  | settle (f : Fin 32)
  | finit (f : Fin 32)
  | hreg (h : Fin 16) (r : HReg)
  | named (q : Fin 16) (v : QSlot)
  | mabort
deriving DecidableEq, Repr

/-! ### The matrix engine -/

/-- The format of an accumulator bank (R173). -/
inductive BankFmt | i32 | f32 | f64
deriving DecidableEq, Repr

/-- An accumulator bank (R173): values and index entries by row × 64 + column, unlisted entries 0. -/
structure Bank where
  fmt    : BankFmt
  vals   : List (Nat × Word)
  index  : List (Nat × BitVec 16)
  poison : BitVec 256
deriving DecidableEq, Repr

/-- A B stage: its 16 KiB image, unlisted bytes 0, and its poison bit (R183, R189). -/
structure BStage where
  bytes  : List Host.Cell
  poison : Bool
deriving DecidableEq, Repr

/-- An armed microprogram loop level (R192). -/
structure MLevel where
  lc  : Nat
  n   : Nat
  b   : Nat
  e   : Nat
  ks  : Int
  rs  : Int
  rew : Bool
deriving DecidableEq, Repr

/-- A B-stage load in flight: stage, first scratch offset, image size, granules read so far and their bytes, and the furrow slot it holds (R190). -/
structure BLoad where
  stage  : Fin 2
  base   : Nat
  size   : Nat
  done   : Nat
  data   : List Byte
  poison : Bool
  furrow : Option (Fin 32)
deriving DecidableEq, Repr

/-- Engine work: a routine with its captured mp0 to mp6, or a microword load (R175, R181). -/
inductive Work
  | routine (n : Fin 256) (mp : Vector Word 8)
  | load (f : Fin 32) (first : Nat) (count : Nat) (written : Nat)
deriving DecidableEq, Repr

/-- The matrix engine: work, position, flags, banks, stages and store (R173 to R194). `wait` counts the cycles until
the microword at `ix` is reached, `fresh` the code (0 none) with which the work completes at the end of this cycle, `row` and `sub` the row step and the cycle within it (or the cycles of a furrow wait), `arow` and `abad` the A row that the step has read and its
poison. -/
structure Engine where
  active  : Option Work
  pending : Option Work
  fresh   : Option Nat
  wait    : Nat
  ix      : Nat
  row     : Nat
  sub     : Nat
  lv0     : Option MLevel
  lv1     : Option MLevel
  koff    : Int
  roff    : Int
  load    : Option BLoad
  done    : Bool
  fault   : Bool
  fcode   : Nat
  rout    : Nat
  mwix    : Nat
  arow    : List Nat
  abad    : Bool
  work    : Bank
  vis     : Bank
  b0      : BStage
  b1      : BStage
  bact    : Fin 2
  store   : List (Nat × Microword)
  loaded  : Bool
deriving DecidableEq, Repr

/-! ### Requests, tasks and the core -/

/-- A party of the scope rules: package, die, task instance, member (R257), with its TASKSET. -/
structure Party where
  pkg  : Nat
  die  : Nat
  inst : Nat
  mem  : Nat
  plot : Nat
deriving DecidableEq, Repr

/-- What a request of the C or Y slot asks for, with the operands read at its issue. -/
inductive ReqOp
  | openH (w : Bool)
  | info (q : InfoQ) (ver : BitVec 32)
  | alloc (form d01 d23 d45 : Word) (root : Bool)
  | free
  | unpin
  | close
  | fetch (mod : FetchMod)
  | store (noalloc : Bool)
  | gather (list : List Nat)
  | scatter (list : List Nat)
  | push (dest f inst : Nat) (data : List Byte) (marks : List Bool)
  | copyo (shome sindex sgen : Nat) (sver : BitVec 32)
  | coll (kind : CollKind)
  | publ
  | subsc (beyond : Word)
  | pin
  | freeze
  | thaw
  | grant
  | atom (op : AtomOp) (ord : Ord) (operand cmp : Word)
  | red (op : AtomOp) (rel : Bool) (operand : Word)
  | ldsync (acq : Bool)
  | stsync (rel : Bool) (operand : Word)
  | barinit (expect : Word)
  | barr
  | barw (target : Option Nat)
  | bpost (hash : Word) (ts : Word)
  | bread
  | plotrd (sel : Word)
  | svc (port : Nat) (msg : List Word) (ts : Word)
deriving DecidableEq, Repr

/-- How far a request has come. -/
inductive ReqPhase
  | sent                                  -- on its way to its home or engine
  | waiting                               -- held there (R235, R238, R268, R292)
  | filling (data : List Byte) (marks : List Bool)  -- read at the home; its slot is being filled (R213)
  | answered (l : Landing)                -- performed; its word is on its way (R255)
  | failed (c : Cause)                    -- took a late fault (R207, R301)
deriving DecidableEq, Repr

/-- A request of a task: identity, party, slot, operands and progress (R206, R259, R260); `arr` is its place among the
requests held at its home (0 none), `absent` whether it is an ABSENT page that it waits for (R353), `failedAt` the cycle of its late
fault (R354), `list` the list register that a GATHER or SCATTER read, `fin` is the status that lands when its slot is filled, `casts` whether its fill may form a cast (R239), `cap` holds the slot of a writing request
whose task was cancelled (R294). -/
structure Req where
  id     : Nat
  op     : ReqOp
  party  : Party
  core   : Nat
  slot   : Slot
  q      : Option (Fin 16)
  h      : Fin 16
  reg    : HReg
  home   : Nat
  index  : Nat
  gen    : Nat
  origin : List Nat
  rows   : Nat
  rowB   : Nat
  furrow : Option (Fin 32)
  fslot  : Nat
  scope  : Scope
  n      : Nat
  issued : Nat
  bundle : Nat
  phase  : ReqPhase
  arr    : Nat
  absent : Bool
  failedAt : Nat
  list   : Word
  fin    : Nat
  casts  : Bool
  cap    : Option (List Byte × List Bool)
deriving DecidableEq, Repr

/-- A task member on a core: its TASKSET, index, instance, member, shape, seed and byte counts (R13, R74, R162, R276), and
the counts already raised in the plots, in the order CYC, BUND, BFETCH, BSTORE. -/
structure Task where
  plot   : Nat
  ix     : Nat
  inst   : Nat
  member : Nat
  shape  : Nat
  seed   : Nat
  bfetch : Nat
  bstore : Nat
  raised : Nat × Nat × Nat × Nat
deriving DecidableEq, Repr

/-- Whether the core runs, and what stops it. -/
inductive Run
  | idle        -- no task
  | running
  | retiring    -- RETIRE's wait (R105)
  | trapped     -- from the stop until the policy is applied (R304)
  | emulating   -- FORMAT_EMULATE in progress (R306)
  | draining    -- pre-empted; the drain is in progress (R308)
  | saving      -- the snapshot is being written or read (R308, R309)
deriving DecidableEq, Repr

/-- The replay buffer (R302): bundle address, performed bits by slot (bit 0 S to bit 6 Y), the slot replay's request,
the slots whose emulated results are in hand (R306), and the bundle image and the operand words where the host rewrote them (R305; empty:
as the code object has the one, as the request captured the others). A core keeps beside it the register results of the slot being emulated. -/
structure Replay where
  addr  : Nat
  perf  : BitVec 7
  slotr : Option Nat
  emul  : List Slot
  image : List Byte
  words : List Nat
deriving DecidableEq, Repr

/-- What the syllable being performed did; `orphaned` is a furrow wait whose other end is not live (R212). -/
inductive IssueOut
  | performed
  | trapped (c : Cause) (targ : Word)
  | held
  | orphaned
  | stopped
deriving DecidableEq, Repr

/-- The context in which a syllable is performed: its bundle's address and length, its slot and guard, whether the
system cores compute it (R306), and how many results were in flight when the bundle reached issue (R38). -/
structure IssueCtx where
  addr  : Nat
  len   : Nat
  slot  : Slot
  gp    : Fin 16
  guard : Bool
  emul  : Bool
  flying : Nat
deriving DecidableEq, Repr

/-- An entry of the push map (R223). -/
structure PushEntry where
  core   : Nat
  furrow : Nat
  size   : Nat
  slots  : Nat
  free   : Nat
  inst   : Nat
  ended  : Bool
deriving DecidableEq, Repr

/-- A frame of the object cache: the line it holds, its recency, and whether the line is dirty (R209, R350 to R352). -/
structure OFrame where
  frame : Nat
  home  : Nat
  index : Nat
  ver   : Nat
  line  : Nat
  used  : Nat
  dirty : Bool
deriving DecidableEq, Repr

/-- The pending granule rounds of one vector port: the task cycles of its first round and of its deadline, and the granules left
per bank (R152). -/
structure PortJob where
  v1       : Bool
  first    : Nat
  deadline : Nat
  banks    : List Nat
deriving DecidableEq, Repr

/-- The parts of a core's turn in a cycle: what the world around it does first, then its issue, its engine and its
write-back; a cycle that the task's bank frame does not count ends with `halted` after its issue part (R21). -/
inductive Stage | events | issue | engine | writeback | halted
deriving DecidableEq, Repr

/-- One compute core (R16 to R24). -/
structure Core where
  id       : Nat
  run      : Run
  stage    : Stage
  task     : Option Task
  -- register files (R18)
  pc       : Nat
  x        : Vector Word 64
  a        : Vector Word 16
  p        : BitVec 16
  v        : Vector VReg 32
  m        : Vector MBits 8
  q        : Vector QSlot 16
  h        : Vector HReg 16
  f        : Vector Furrow 32
  mp       : Vector Word 8
  loops    : List Level
  calls    : List CallEntry
  -- control and status registers (R74, R75)
  sbchk    : Bool
  scrlim   : Nat
  cyc      : Nat
  bundles  : Nat
  clkstop  : Nat
  waits    : Nat
  counting : Bool
  -- structures of R19
  tags     : List (Nat × Word)
  deferq   : List DeferEntry
  deferIn  : List (Nat × DeferEntry)
  randN    : Nat
  replay   : Option Replay
  emulated : List InFlight
  pushMap  : List PushEntry
  thawDone : List Nat
  -- unified array (R20, R153, R209)
  scratch  : List Host.Cell
  marks    : BitVec 4096
  frames   : List OFrame
  -- code object (R36, R91)
  code     : List Host.Cell
  codeLen  : Nat
  -- issue (R37, R38, R91 to R93)
  issued   : Nat
  nextIss  : Nat
  dueIss   : Nat
  redirect : Option Redirect
  nextPc   : Nat
  justIss  : Bool
  inflight : List InFlight
  loads    : List LoadRec
  endFx    : List EndEffect
  iss      : IssueCtx
  out      : IssueOut
  port     : List PortJob
  portStop : Nat
  lastIss  : Nat
  overdue  : Bool
  fwait    : Option Nat
  spawnW   : Option Nat
  spawnFull : Bool
  tmplW    : Option (PageRef × Bool)
  late     : List (Nat × Nat)
  lateKeep : Nat
  cause    : Option Cause
  targ     : Word
  retireIss : Bool
  stopTs   : Nat
  eng      : Engine
deriving DecidableEq, Repr

/-! ### Objects -/

/-- Where a page lives (R204). -/
inductive Residency | hbm | lpddr | peer | absent | poison
deriving DecidableEq, Repr

/-- The state of a version (R229); FREED versions are not listed. -/
inductive VerState | pending | current | retained
deriving DecidableEq, Repr

/-- A version of an object, or the one content of a LIVE object as version 0: bytes by R202's byte number, unlisted
bytes 0, with the task that holds it pending (R229, R230). -/
structure Ver where
  num    : Nat
  st     : VerState
  pins   : Nat
  data   : List Host.Cell
  writer : Option Party
deriving DecidableEq, Repr

/-- A stored page: the version whose writer stored it (later versions share it, R230), its number, the plot it is charged
to (R316), its residency and poisoned lines (R204), its age stamp and the interval of its last read (R317, R318), the
die that holds it, whether its eviction leaves it ABSENT with an intact copy in the LPDDR tier (R353), whether a POISON page
lies in the LPDDR tier, and whether an ABSENT page has an intact copy at its host source (R317). -/
structure Page where
  ver    : Nat
  num    : Nat
  charge : Nat
  res    : Residency
  lost   : List Nat
  stamp  : Nat
  reads  : Nat
  die    : Nat
  moving : Bool
  copy   : Bool
  low    : Bool
  source : Bool
deriving DecidableEq, Repr

/-- The freeze record of a page (R237 to R239), with the packages of listed racks that have still to acknowledge; an unlisted
page is OPEN with an empty presence vector. -/
structure Frz where
  page     : Nat
  count    : Nat
  thawing  : Bool
  presence : List CastPlace
  awaited  : List CastPlace
  racks    : List Nat
  tokens   : List (Nat × Nat)
deriving DecidableEq, Repr

/-- An owned grain of a LIVE object: owner and the h-register whose GRANT claimed it (R244, R216). -/
structure Grain where
  g     : Nat
  owner : Party
  h     : Fin 16
deriving DecidableEq, Repr

/-- The scope record of a held line (R257). -/
structure ScopeRec where
  scope : Scope
  party : Party
deriving DecidableEq, Repr

/-- The barrier state an engine keeps with a barrier line (R265 to R268): the initialiser, the held arrivals, the
parties' scopes, the phase of the latest arrival by party and h-register, the waiting BARWs with their targets and the
cycle of the last arrival. -/
structure BarState where
  init   : Party
  parent : Word
  held   : Nat
  uses   : List (Party × Scope)
  phases : List (Party × Fin 16 × Nat)
  waits  : List (Nat × Nat)
  last   : Nat
deriving DecidableEq, Repr

/-- A counted post (R291). -/
structure Post where
  sib  : Nat
  hash : Word
  ts   : Word
deriving DecidableEq, Repr

/-- The post records of a ballot line (R290 to R293). -/
structure BallotState where
  group : Nat
  posts : List Post
  ended : List Nat
  waits : List Nat
deriving DecidableEq, Repr

/-- A held sync line (R253, R254, R257): its line number and scope record, its barrier state and post records once it is a
barrier line or a ballot line (R265, R290), its recency in its engine, and whether it lies in the engine's overflow area. -/
structure SyncLine where
  line : Nat
  record : Option ScopeRec
  bar : Option BarState
  ballot : Option BallotState
  used : Nat
  out : Bool
deriving DecidableEq, Repr

/-- An object: its table entry (R200) and what its home keeps. -/
structure Obj where
  home   : Nat
  index  : Nat
  entry  : BitVec 1024
  vers   : List Ver
  pages  : List Page
  frz    : List Frz
  grains : List Grain
  lines  : List SyncLine
  maker  : Option Nat
deriving DecidableEq, Repr

/-- A participant of a collective: its rank, its request here (0 for another package's), its slot's bytes and marks. -/
structure Joined where
  rank  : Nat
  req   : Nat
  data  : List Byte
  marks : List Bool
deriving DecidableEq, Repr

/-- A collective in progress (R226): object, tuple, kind and its participants so far. -/
structure Coll where
  id     : Nat
  home   : Nat
  index  : Nat
  origin : List Nat
  kind   : CollKind
  joined : List Joined
deriving DecidableEq, Repr

/-! ### Plots and dispatchers -/

/-- What a service port is bound to (R315, R333). -/
inductive PortBind
  | ring (pair : Nat)
  | service (n : Nat)
deriving DecidableEq, Repr

/-- A plot: its descriptor (R272); for a ROOT its trap policy, debug session and ports (R304, R315); and the die whose
pool entry it holds (R285); whether the host closed it (R275); the party of its latest task and the die it is a candidate of. -/
structure Plot where
  id     : Nat
  desc   : BitVec 2048
  policy : BitVec 27
  debug  : Bool
  ports  : List (Nat × PortBind)
  pool   : Option Nat
  closed : Bool
  party  : Option Party
deriving DecidableEq, Repr

/-- A candidate of a die (R278, R281): its TASKSET, submitter, back-off end and failed attempts. -/
structure Cand where
  plot  : Nat
  src   : Nat
  until_ : Option Nat
  tries : Nat
deriving DecidableEq, Repr

/-- An admission in flight (R281): candidate, cores, grants so far, the resumed instance if it is a resumption, the DEFICIT
its selection took (R279), and whether it still waits for its victims' cores (R282). -/
structure Adm where
  id      : Nat
  plot    : Nat
  cores   : List Nat
  granted : Nat
  resume  : Option Nat
  cost    : Nat
  waits   : Bool
deriving DecidableEq, Repr

/-- The pointer of a level: its candidate, with the READYTS and source by which its ring orders it (R278). -/
structure RingPtr where
  level : Nat
  plot  : Nat
  ready : Nat
  src   : Nat
deriving DecidableEq, Repr

/-- The dispatcher of a die (R278 to R282): candidates, ring pointers by level, admissions, and one more than the cycle of its
last selection (0 before the first). -/
structure Disp where
  die     : Nat
  cands   : List Cand
  ptrs    : List RingPtr
  adms    : List Adm
  nextAdm : Nat
  chose   : Nat
deriving DecidableEq, Repr

/-- A saved task member: its core's state, its trap cause (none for a pre-emption), whether it is held from the dispatcher, its die, the
timestamp of the stop, its snapshot slot, and the parts of its row whose items may change while it is saved, as they were written
(R304, R308, R311). -/
structure Saved where
  core   : Core
  cause  : Option Cause
  held   : Bool
  die    : Nat
  stopTs : Word
  slot   : Option Nat
  wrote  : List (Nat × List Byte)
deriving DecidableEq, Repr

/-! ### Host port, links and management -/

/-- A queue pair (R330 to R335). -/
structure QPair where
  n       : Nat
  regs    : BitVec 512
  sqHead  : Nat
  sqTail  : Nat
  cqHead  : Nat
  cqTail  : Nat
  mqHead  : Nat
  mqTail  : Nat
  cqPhase : Bool
  mqPhase : Bool
  pend    : List (BitVec 128)
  active  : List Nat
  wrote   : Bool
deriving DecidableEq, Repr

/-- An aperture (R336). -/
structure Aperture where
  n      : Nat
  handle : Word
  start  : Nat
  write  : Bool
  ver    : BitVec 32
  root   : Nat
deriving DecidableEq, Repr

/-- A host write that is held at a page, with its place in the arrival order of the held requests, its pages, and the number by
which it is known: a command's sequence number, or one above them all for a write of BAR2 or the write-back of a granule (R318, R238). -/
structure HostHold where
  arr   : Nat
  home  : Nat
  index : Nat
  pages : List Nat
  key   : Nat
deriving DecidableEq, Repr

/-- A line of a memory-side cache slice (R319, R321): its die, the stored page's object and version, its line number, the tag under
which it is held, the sectors of its image that are held, its recency, and whether it is a cast. -/
structure MlcLine where
  die     : Nat
  home    : Nat
  index   : Nat
  ver     : Nat
  line    : Nat
  tag     : Nat
  sectors : Nat
  used    : Nat
  cast    : Bool
deriving DecidableEq, Repr

/-- A granule of a host-shared object (R329): its owner, the timestamp from which it has it, whether a transfer runs, the accesses
held, in arrival order, and the bytes that the host holds dirty, by byte number of the object; an unlisted granule is the
PROCESSOR's. -/
structure Granule where
  at_   : GranuleRef
  accel : Bool
  since : Nat
  moving : Bool
  queue : List GranuleAccess
  dirty : List Host.Cell
deriving DecidableEq, Repr

/-- A memory bank's row activations (R320): counters by row, alerts in the order they arose (the first is being served while the bank is blocked), the timestamp until which it is blocked,
alerts and RFMs so far, the rows whose ACTs wait for the bank, in arrival order, and the rows that the last RFM refreshed. -/
structure BankRows where
  ctrl    : Nat
  bank    : Nat
  counts  : List (Nat × Nat)
  alerts  : List Nat
  blocked : Nat
  alerted : Nat
  rfms    : Nat
  waiting : List Nat
  refreshed : List Nat
deriving DecidableEq, Repr

/-- A message that its receiver has not acknowledged yet, with the timestamp of its first sending (R341, R342). -/
structure Unacked where
  seq   : Nat
  since : Nat
  body  : LinkBody
deriving DecidableEq, Repr

/-- What this package keeps of a peer (R340 to R342): the next sequence number to send, the messages sent and not yet
acknowledged, for each of the five virtual channels the next number to perform (across racks all messages go in the first), whether the
peer is unreachable, and whether it has advertised the format of compressed lines (R325). -/
structure Peer where
  pkg     : Nat
  sendSeq : Nat
  unacked : List Unacked
  recvd   : Vector Nat 5
  lost    : Bool
  lines   : Bool
deriving DecidableEq, Repr

/-- A message put on a link: receiver, port, virtual channel, sequence number and contents (R340, R341). -/
structure Packet where
  dst  : Nat
  port : Nat
  chan : Nat
  seq  : Nat
  body : LinkBody
deriving DecidableEq, Repr

/-- A peer's read that waits for an ABSENT page: its message, its object, version and pages, and its place among the held requests
(R204, R353). -/
structure HeldRead where
  src   : Nat
  seq   : Nat
  home  : Nat
  index : Nat
  ver   : Nat
  pages : List Nat
  arr   : Nat
deriving DecidableEq, Repr

/-- An end that the tasks of a plot still have to come to at their next bundle boundary (R284, R294): a cancellation, or the
termination of a subtree with its cause, the plots that it ends, and those of them that had not ended before. -/
structure Ending where
  plot   : Nat
  cancel : Bool
  cause  : Nat
  ids    : List Nat
  live   : List Nat
deriving DecidableEq, Repr

/-- A resource's corrected errors within the window, its spares used, and whether it was retired (R343). -/
structure ErrCount where
  res    : Resource
  times  : List Nat
  spares : Nat
  gone   : Bool
deriving DecidableEq, Repr

/-- The package's power state (R345, R346). -/
inductive Power | starting | running | fallow
deriving DecidableEq, Repr

/-- A host read's answer (R336): bytes, and whether the completion is marked poisoned or unsupported. -/
structure HostAnswer where
  bytes       : List Byte
  poisoned    : Bool
  unsupported : Bool
deriving DecidableEq, Repr

/-- A step to come: the first cycle in which it may be taken, the request it acts on, and the step. -/
structure Event where
  at_   : Nat
  subj  : Nat
  instr : Instr
deriving DecidableEq, Repr

/-- The machine. `ways` counts the fenced ways: of the memory-side cache slice of die d under d, of its synchronisation engine under 8 + d;
`retiring` lists ranges that are to be retired, with their controllers and the pages that lie there (R343). -/
structure State where
  -- time and free values
  cycle    : Nat
  ts       : Nat
  tsPhase  : Nat
  slew     : Int
  slewAcc  : Nat
  freeCtr  : Nat
  -- cores: the one whose turn it is, those that had this cycle, those still to come
  core     : Core
  behind   : List Core
  ahead    : List Core
  fenced   : List Nat
  pkg      : Nat
  -- what is to come: outside inputs, and the device's own pending steps by cycle; the request or command a step acts on, and
  -- accepted commands that must wait
  inbox    : List Instr
  agenda   : List Event
  subj     : Nat
  cmd      : Command
  cmdWait  : List Command
  -- requests and homes
  reqs     : List Req
  nextReq  : Nat
  colls    : List Coll
  objs     : List Obj
  token    : Nat
  hbmUsed  : List (Nat × Nat)
  lpddrUsed : Nat
  lastCharge : Nat
  localCasts : List PageRef
  told     : List (Nat × Nat)
  hostHeld : List HostHold
  cmdPins  : List (Nat × Nat × Nat × Nat)
  overflow : List (Nat × Nat)
  mlc      : List MlcLine
  -- plots and dispatchers
  plots    : List Plot
  nextPlot : Nat
  nextInst : Nat
  disps    : List Disp
  saved    : List Saved
  endings  : List Ending
  -- memory controllers, and the activation window they count in
  rows     : List BankRows
  window   : Nat
  -- host port
  cxl      : Bool
  hostMem  : List Host.Cell
  pairs    : List QPair
  apertures : List Aperture
  discards : List (Nat × Nat)
  journal  : List (Nat × BitVec 512)
  nextSeq  : Nat
  journTs  : Nat
  journWait : List (Nat × BitVec 512)
  granules : List Granule
  answers  : List HostAnswer
  irqs     : List Nat
  -- links
  peers    : List Peer
  outbox   : List Packet
  heldReads : List HeldRead
  -- errors, power and management
  errors   : List ErrCount
  ways     : List (Nat × Nat)
  retiring : List (Nat × PageRef)
  power    : Power
  reason   : Nat
  unit     : Nat
  test     : Nat
  adminOk  : Bool
  powerCap : Nat
  throttled : List Nat
  firmware : List FwImage
  staged   : Option (List FwImage)
  reports  : List (List Byte)
deriving DecidableEq, Repr

/-! ### Reset -/

/-- The tag RAW, scale 0, clean (R126). -/
def Tag.raw : Tag := ⟨0, 0, false⟩
/-- A v-register at task start (R126). -/
def VReg.reset : VReg := ⟨0, Tag.raw⟩
/-- A closed h-register (R197). -/
def HReg.closed : HReg := ⟨0, false, false, 0, 0, none⟩
/-- An f-register that no .furrow directive names (R210). -/
def Furrow.none : Furrow := ⟨0, 0, 0, 0, 0, 0, 0, false, false, 0, false, 0, 0, 0, 0, false, [], []⟩
/-- A bank at task start (R173). -/
def Bank.reset : Bank := ⟨.f32, [], [], 0⟩
/-- A B stage at task start (R183). -/
def BStage.reset : BStage := ⟨[], false⟩

/-- The library image of the microprogram store (R183, R195): entries 0 to 6 and the bodies at 4,032 to 4,071. Each
routine is fill, first load, MLOOP open, BSEL, load, cell operation, MLOOP close, MEND. -/
def libraryImage : List (Nat × Microword) :=
  let bld (src bix skip : Nat) : Microword := BitVec.ofNat 128 (6 + skip * 2 ^ 7 + bix * 2 ^ 37 + 2 * 2 ^ 49 + src * 2 ^ 51)
  let body (at_ fill src b1 cell : Nat) : List (Nat × Microword) :=
    [ (at_, BitVec.ofNat 128 (8 + fill * 2 ^ 58)),
      (at_ + 1, bld src 0 0),
      (at_ + 2, BitVec.ofNat 128 (9 + 2 * 2 ^ 9 + 4 * 2 ^ 63 + 2 ^ 75)),
      (at_ + 3, BitVec.ofNat 128 (7 + 2 * 2 ^ 49)),
      (at_ + 4, bld src b1 1),
      (at_ + 5, BitVec.ofNat 128 (cell + 6 * 2 ^ 4 + 2 ^ 9)),
      (at_ + 6, BitVec.ofNat 128 (9 + 2 ^ 61)),
      (at_ + 7, BitVec.ofNat 128 10) ]
  let entry (ix : Nat) : Nat := 2 ^ 15 + ix
  [ (0, BitVec.ofNat 128 (entry 4032 + entry 4033 * 2 ^ 16 + entry 4040 * 2 ^ 32 + entry 4041 * 2 ^ 48 +
      entry 4048 * 2 ^ 64 + entry 4056 * 2 ^ 80 + entry 4064 * 2 ^ 96)) ] ++
  body 4032 0 2 0 2 ++ body 4040 0 0 1 2 ++ body 4048 1 2 0 4 ++ body 4056 2 2 0 5 ++ body 4064 0 2 0 3

/-- The engine at task start: quiescent, so DONE is 1 (R173, R176, R183). -/
def Engine.reset : Engine :=
  { active := none, pending := none, fresh := none, wait := 0, ix := 0, row := 0, sub := 0, lv0 := none, lv1 := none,
    koff := 0, roff := 0, load := none, done := true, fault := false, fcode := 0, rout := 0, mwix := 0, arow := [], abad := false,
    work := Bank.reset, vis := Bank.reset, b0 := BStage.reset, b1 := BStage.reset, bact := 0, store := libraryImage,
    loaded := false }

/-- A core with no task, every register at the value a task starts with (R70, R126, R172, R173, R197, R255). -/
def Core.reset (id : Nat) : Core :=
  { id := id, run := .idle, stage := .events, task := none, pc := 0, x := Vector.replicate 64 0, a := Vector.replicate 16 0,
    p := 1, v := Vector.replicate 32 VReg.reset, m := Vector.replicate 8 0, q := Vector.replicate 16 .empty,
    h := Vector.replicate 16 HReg.closed, f := Vector.replicate 32 Furrow.none, mp := Vector.replicate 8 0, loops := [],
    calls := [], sbchk := false, scrlim := 0, cyc := 0, bundles := 0, clkstop := 0, waits := 0, counting := false, tags := [],
    deferq := [], deferIn := [], randN := 0, replay := none, emulated := [], pushMap := [], thawDone := [], scratch := [], marks := 0,
    frames := [], code := [], codeLen := 0, issued := 0, nextIss := 0, dueIss := 0, redirect := none, nextPc := 0, justIss := false,
    inflight := [], loads := [], endFx := [], iss := ⟨0, 8, .s, 0, true, false, 0⟩, out := .performed, port := [], portStop := 0, lastIss := 0,
    overdue := false, fwait := none, spawnW := none, spawnFull := false, tmplW := none, late := [], lateKeep := 0, cause := none, targ := 0, retireIss := false, stopTs := 0, eng := Engine.reset }

/-- The machine right after reset: the package starts, its first step is the power-on sequence (R345), no host pair is
enabled (R335), administration is not permitted (R334), the journal is empty with sequence numbers from 1 (R338), and
every core is idle. -/
def State.reset : State :=
  { cycle := 0, ts := 0, tsPhase := 0, slew := 0, slewAcc := 0, freeCtr := 0, core := Core.reset 0, behind := [], ahead := [], fenced := [],
    pkg := 0, inbox := [], agenda := [⟨0, 0, .powerOn⟩], subj := 0, cmd := ⟨0, 0, 0, false, 0, 0, 0, 0, 0, 0, 0, 0, 0⟩, cmdWait := [], reqs := [], nextReq := 1, colls := [], objs := [], token := 1,
    hbmUsed := [], lpddrUsed := 0, lastCharge := 0, localCasts := [], told := [], hostHeld := [], cmdPins := [], overflow := [], mlc := [], plots := [], nextPlot := 1, nextInst := 1,
    disps := (List.range 8).map (fun d => ⟨d, [], [], [], 0, 0⟩), saved := [], endings := [], rows := [], window := 0, cxl := false, hostMem := [],
    pairs := [], apertures := [], discards := [], journal := [], nextSeq := 1, journTs := 0, journWait := [], granules := [], answers := [], irqs := [],
    peers := [], outbox := [], heldReads := [], errors := [], ways := [], retiring := [], power := .starting, reason := 0, unit := 0, test := 0, adminOk := false, powerCap := 3400,
    throttled := [], firmware := [], staged := none, reports := [] }

end Sys2Proof.Machine
end

