-- ==== Sys2Proof/Machine/Ops.lean ====
section
/-! DEFINITION. The named operations over memory, registers, requests and the agenda; the guarded performance of a
syllable (R43); taking a trap and returning from it (R302 to R305). -/
namespace Sys2Proof.Machine

/-- The outcome type of every meaning. -/
abbrev Out := Host.Outcome State Fault Refusal

/-! ### Sparse maps in canonical form: keys strictly rising, no entry equal to the default -/

/-- What a sparse map holds at a key. -/
def sparseGet {α : Type} (d : α) : List (Nat × α) → Nat → α
  | [], _ => d
  | (j, w) :: r, k => if j = k then w else if k < j then d else sparseGet d r k

/-- A sparse map with one key set; setting the default removes the entry. -/
def sparseSet {α : Type} [DecidableEq α] (d : α) : List (Nat × α) → Nat → α → List (Nat × α)
  | [], k, v => if v = d then [] else [(k, v)]
  | (j, w) :: r, k, v =>
    if k < j then (if v = d then (j, w) :: r else (k, v) :: (j, w) :: r)
    else if k = j then (if v = d then r else (k, v) :: r)
    else (j, w) :: sparseSet d r k v

/-- The canonical form: every key at least `lo`, strictly rising, no default. -/
def sparseWf {α : Type} [DecidableEq α] (d : α) (lo : Nat) : List (Nat × α) → Bool
  | [] => true
  | (j, w) :: r => decide (lo ≤ j) && decide (w ≠ d) && sparseWf d (j + 1) r

/-! ### Memory: bytes by address, an unlisted byte 0 (R6, R20, R218) -/

abbrev Mem := List Host.Cell

/-- One byte of a memory: 0 where nothing is listed. -/
def memGet (m : Mem) (a : Nat) : Byte := sparseGet 0 m a
/-- A memory with one byte written. -/
def memSet (m : Mem) (a : Nat) (b : Byte) : Mem := sparseSet 0 m a b
/-- The canonical form of a memory. -/
abbrev Memory.wf (m : Mem) : Prop := sparseWf (0 : Byte) 0 m = true
/-- `n` bytes from an address. -/
def memBytes (m : Mem) (a : Nat) : Nat → List Byte
  | 0 => []
  | n + 1 => memGet m a :: memBytes m (a + 1) n
/-- A memory with bytes written from an address. -/
def memPut (m : Mem) (a : Nat) : List Byte → Mem
  | [] => m
  | b :: bs => memPut (memSet m a b) (a + 1) bs
/-- The number a list of bytes holds, little-endian (R6). -/
def ofBytes : List Byte → Nat
  | [] => 0
  | b :: bs => b.toNat + 256 * ofBytes bs
/-- The `n` low bytes of a number, little-endian (R6). -/
def toBytes (n v : Nat) : List Byte :=
  match n with
  | 0 => []
  | k + 1 => BitVec.ofNat 8 v :: toBytes k (v / 256)
/-- `n` bytes of a memory as one little-endian number. -/
def memRead (m : Mem) (a n : Nat) : Nat := ofBytes (memBytes m a n)
/-- A memory with the `n` low bytes of a number written, little-endian. -/
def memWrite (m : Mem) (a n v : Nat) : Mem := memPut m a (toBytes n v)

/-! ### Small arithmetic -/

/-- SignExtend(x, n) of R11 to 64 bits. -/
def signExt (n x : Nat) : Word := (BitVec.ofNat n x).signExtend 64
/-- ZeroExtend(x, n) of R11 to 64 bits. -/
def zeroExt (n x : Nat) : Word := BitVec.ofNat 64 (x % 2 ^ n)
/-- Bits [lo+n-1:lo] of a number. -/
def bitsOf (x lo n : Nat) : Nat := x / 2 ^ lo % 2 ^ n
/-- A vector with one place written. -/
def setAt {α : Type} {n : Nat} (v : Vector α n) (i : Fin n) (x : α) : Vector α n := v.set i.val x i.isLt
/-- A list with the first element that satisfies a test updated, if any. -/
def updFirst {α : Type} (p : α → Bool) (f : α → α) : List α → List α
  | [] => []
  | x :: r => if p x then f x :: r else x :: updFirst p f r
/-- Increment a number in a list of (key, count) pairs. -/
def bump (k n : Nat) (m : List (Nat × Nat)) : List (Nat × Nat) :=
  if m.any (fun e => e.1 = k) then updFirst (fun e => e.1 = k) (fun e => (e.1, e.2 + n)) m else m ++ [(k, n)]
/-- The count a list of (key, count) pairs holds. -/
def countOf (k : Nat) (m : List (Nat × Nat)) : Nat :=
  match m.find? (fun e => e.1 = k) with
  | some e => e.2
  | none => 0

/-! ### The device's own pending steps, and free values -/

/-- The core cycles in 10 ns: 21 at 2.1 GHz; under a power cap or with a throttled die a lower clock, of which the spec gives no
figure (R3, R348; one clock for the package: assumption log 60). -/
def State.rate (s : State) : Nat :=
  if s.powerCap = 3400 ∧ s.throttled = [] then Config.cyclesPer10ns
  else min Config.cyclesPer10ns (max 1 (Config.slowClock s.powerCap s.throttled))
/-- The cycles that a time in nanoseconds spans at the clock in force (R3, R348). -/
def State.cyclesIn (s : State) (ns : Nat) : Nat := (ns * s.rate + 9) / 10
/-- The next free delay (assumption log 1): at least one cycle. -/
def State.delay (s : State) : Nat := Config.latency s.freeCtr + 1
/-- The state after a free value was used. -/
def State.tick (s : State) : State := { s with freeCtr := s.freeCtr + 1 }
/-- A step put on the agenda after a free delay. -/
def State.later (s : State) (subj : Nat) (i : Instr) : State :=
  { s with agenda := s.agenda ++ [⟨s.cycle + s.delay, subj, i⟩], freeCtr := s.freeCtr + 1 }
/-- A step put on the agenda for a given number of cycles ahead. -/
def State.after (s : State) (n subj : Nat) (i : Instr) : State :=
  { s with agenda := s.agenda ++ [⟨s.cycle + n, subj, i⟩] }
/-- A step put on the agenda to be tried again in the next cycle: it must wait. -/
def State.again (s : State) (subj : Nat) (i : Instr) : State := s.after 1 subj i
/-- A free choice of the device (R94, R297). -/
def State.choose (s : State) : Bool := Config.choice s.freeCtr
/-- A further free choice of the same moment. -/
def State.chooseNext (s : State) (k : Nat) : Bool := Config.choice (s.freeCtr + k)

/-! ### Cores by number -/

/-- The state with the current core updated. -/
def State.modCore (s : State) (f : Core → Core) : State := { s with core := f s.core }
/-- Every core of the package, the current one first. -/
def State.cores (s : State) : List Core := s.core :: (s.behind ++ s.ahead)
/-- The core of a given number. -/
def State.coreAt (s : State) (id : Nat) : Option Core := s.cores.find? (fun c => c.id = id)
/-- Every core changed by a function. -/
def State.mapCores (s : State) (f : Core → Core) : State :=
  { s with core := f s.core, behind := s.behind.map f, ahead := s.ahead.map f }
/-- The core of a given number changed. -/
def State.modCoreAt (s : State) (id : Nat) (f : Core → Core) : State := s.mapCores fun c => if c.id = id then f c else c
/-- The die of a core (R15). -/
def dieOf (core : Nat) : Nat := core / 48
/-- The party a task member is (R257). -/
def State.party (s : State) (c : Core) : Party :=
  match c.task with
  | some t => ⟨s.pkg, dieOf c.id, t.inst, t.member, t.plot⟩
  | none => ⟨s.pkg, dieOf c.id, 0, 0, 0⟩

/-! ### Reading registers (R18, R38, R70) -/

/-- x0 reads as 0. -/
def Core.rx (c : Core) (r : Fin 64) : Word := if r = 0 then 0 else c.x.get r
def Core.ra (c : Core) (r : Fin 16) : Word := c.a.get r
/-- p0 reads as true. -/
def Core.rp (c : Core) (r : Fin 16) : Bool := r = 0 || c.p.getLsbD r.val
def Core.rv (c : Core) (r : Fin 32) : VReg := c.v.get r
def Core.rm (c : Core) (r : Fin 8) : MBits := c.m.get r
def Core.rmp (c : Core) (r : Fin 8) : Word := c.mp.get r
def Core.rh (c : Core) (r : Fin 16) : HReg := c.h.get r
def Core.rf (c : Core) (r : Fin 32) : Furrow := c.f.get r
def Core.rq (c : Core) (r : Fin 16) : QSlot := c.q.get r
/-- The x-register k places on; a syllable's entry keeps the number within the file. -/
def xPlus (r : Fin 64) (k : Nat) : Fin 64 := Fin.ofNat 64 (r.val + k)
def aPlus (r : Fin 16) (k : Nat) : Fin 16 := Fin.ofNat 16 (r.val + k)

/-! ### Writing registers: results in flight (R38, R39) -/

/-- The register a write names. -/
def Wr.reg : Wr → Reg
  | .x r _ => .x r.val
  | .a r _ => .a r.val
  | .p r _ => .p r.val
  | .v r _ => .v r.val
  | .m r _ => .m r.val
  | .mp r _ => .mp r.val

/-- The register file after a write; writes to x0 and p0 are discarded (R18, R70). -/
def Core.commit (c : Core) : Wr → Core
  | .x r v => if r = 0 then c else { c with x := setAt c.x r v }
  | .a r v => { c with a := setAt c.a r v }
  | .p r b => if r = 0 then c
      else { c with p := if b then c.p ||| (1#16 <<< r.val) else c.p &&& ~~~(1#16 <<< r.val) }
  | .v r v => { c with v := setAt c.v r v }
  | .m r b => { c with m := setAt c.m r b }
  | .mp r v => { c with mp := setAt c.mp r v }

/-- A result put in flight: written at the end of task cycle t + L - 1. -/
def Core.put (c : Core) (lat : Nat) (w : Wr) : Core := { c with inflight := c.inflight ++ [⟨c.cyc + lat - 1, w⟩] }
/-- A write of an x-register; x0 takes none. -/
def Core.wx (c : Core) (lat : Nat) (r : Fin 64) (v : Word) : Core := if r = 0 then c else c.put lat (.x r v)
/-- A write of a predicate; p0 takes none. -/
def Core.wp (c : Core) (lat : Nat) (r : Fin 16) (b : Bool) : Core := if r = 0 then c else c.put lat (.p r b)
def Core.wa (c : Core) (lat : Nat) (r : Fin 16) (v : Word) : Core := c.put lat (.a r v)
def Core.wv (c : Core) (lat : Nat) (r : Fin 32) (v : VReg) : Core := c.put lat (.v r v)
def Core.wm (c : Core) (lat : Nat) (r : Fin 8) (b : MBits) : Core := c.put lat (.m r b)
def Core.wmp (c : Core) (lat : Nat) (r : Fin 8) (v : Word) : Core := c.put lat (.mp r v)
/-- An effect left to the end of the cycle. -/
def Core.fx (c : Core) (e : EndEffect) : Core := { c with endFx := c.endFx ++ [e] }

/-! ### How a syllable reports (R300) -/

def Core.done (c : Core) : Core := { c with out := .performed }
/-- An issue cause with its argument (R300, R307). -/
def Core.trapW (c : Core) (k : Cause) (targ : Word) : Core := { c with out := .trapped k targ }
def Core.trap (c : Core) (k : Cause) : Core := c.trapW k 0
/-- The bundle is held at issue (R37). -/
def Core.hold (c : Core) : Core := { c with out := .held }
/-- The bundle waits for a landing with the clock stopped (R23). -/
def Core.stop (c : Core) : Core := { c with out := .stopped }

/-- Whether a register awaits a result that was in flight when the bundle reached issue: a bundle's syllables do not see
each other's results (R38). -/
def Core.pending (c : Core) (r : Reg) : Bool := (c.inflight.take c.iss.flying).any fun f => f.wr.reg = r
/-- STALL_SHORT holds on one of these sources (R38). -/
def Core.short (c : Core) (srcs : List Reg) : Bool := c.sbchk && srcs.any c.pending

/-- A report that holds the bundle at issue. -/
def IssueOut.holds : IssueOut → Bool
  | .held => true
  | .orphaned => true
  | _ => false

/-- A syllable's performance (R43): nothing when the guard is false; else `body`, which may hold the bundle (a held bundle
is not issued, so it reads nothing early, R37, R300), and STALL_SHORT when the guard predicate or a source awaits a result. -/
def perform (srcs : List Reg) (body : Core → Core) (c : Core) : Core :=
  if c.iss.guard = false then (if c.short [.p c.iss.gp.val] then c.trap .stallShort else c.done)
  else
    let r := body c.done
    if r.out.holds then r
    else if c.short (.p c.iss.gp.val :: srcs) then c.trap .stallShort
    else r

/-- The meaning of a syllable that acts on its core alone. -/
def syl (srcs : List Reg) (body : Core → Core) (s : State) : Out := .next { s with core := perform srcs body s.core }

/-- A syllable's performance when it acts on more than its core. -/
def performS (srcs : List Reg) (body : State → State) (s : State) : State :=
  let c := s.core
  if c.iss.guard = false then { s with core := if c.short [.p c.iss.gp.val] then c.trap .stallShort else c.done }
  else
    let r := body { s with core := c.done }
    if r.core.out.holds then r
    else if c.short (.p c.iss.gp.val :: srcs) then { s with core := c.trap .stallShort }
    else r

/-- The meaning of a syllable that acts on more than its core: `body` gives the state when the guard is true and no
source is short. -/
def sylS (srcs : List Reg) (body : State → State) (s : State) : Out := .next (performS srcs body s)

/-! ### Landing slots (R23, R255) -/

/-- What a read of a landing slot finds. -/
inductive QRead
  | orphan              -- EMPTY: ORPHAN_WAIT
  | short               -- before the due bundle with the scoreboard on
  | wait                -- the word has not arrived: the clock stops
  | word (w : Word) (thaw : Bool) (hset : Option (Fin 16 × HReg))
deriving DecidableEq, Repr

/-- A syllable of the bundle whose issue number is `c.issued` reads q[Q]. The due bundle itself found its word before
its syllables were performed, so an outstanding slot here is read early and becomes due here (R23). -/
def Core.readQ (c : Core) (q : Fin 16) : QRead :=
  match c.rq q with
  | .empty => .orphan
  | .landed w t => .word w t none
  | .outstanding _ _ t got =>
    if c.sbchk then .short
    else match got with
      | some l => .word l.word t l.hset
      | none => .wait

/-- A slot's contents changed. -/
def Core.setQ (c : Core) (q : Fin 16) (v : QSlot) : Core := { c with q := setAt c.q q v }
/-- An h-register's new state, as a landing brings it. -/
def Core.applyH (c : Core) : Option (Fin 16 × HReg) → Core
  | none => c
  | some (h, r) => { c with h := setAt c.h h r }

/-- A slot whose word is used becomes LANDED with it. -/
def Core.land (c : Core) (q : Fin 16) (w : Word) (t : Bool) (hs : Option (Fin 16 × HReg)) : Core :=
  (c.setQ q (.landed w t)).applyH hs

/-- The due bundles of this issue: every outstanding slot whose due bundle is bundle `n` becomes LANDED if its word has
arrived (R23, R255). -/
def Core.landDue (n : Nat) (c : Core) (q : Fin 16) : Core :=
  match c.rq q with
  | .outstanding due _ t (some l) => if due ≤ n then c.land q l.word t l.hset else c
  | _ => c
/-- Whether a slot's due bundle is bundle `n` and its word has not arrived. -/
def Core.lateDue (n : Nat) (c : Core) (q : Fin 16) : Bool :=
  match c.rq q with
  | .outstanding due _ _ none => due ≤ n
  | _ => false
/-- Every landing slot. -/
def allQ : List (Fin 16) := List.finRange 16

/-- A request names q[Q] with a due offset (R23, R255): at the end of the cycle the slot is OUTSTANDING, due at the
(d+1)-th bundle after. -/
def Core.nameQ (c : Core) (u : Due) (req : Nat) (thaw : Bool) (got : Option Landing) : Core :=
  c.fx (.named u.q (.outstanding (c.issued + u.off.val + 1) req thaw got))
/-- A slot named anew: a word that had arrived is discarded, but its h-register takes its state (R255). -/
def Core.renameQ (c : Core) (q : Fin 16) (v : QSlot) : Core :=
  (match c.rq q with | .outstanding _ _ _ (some l) => c.applyH l.hset | _ => c).setQ q v
/-- The bundle must be held: the slot is still OUTSTANDING and its word has not arrived (R255). -/
def Core.qBusy (c : Core) (q : Fin 16) : Bool :=
  match c.rq q with
  | .outstanding _ _ _ none => true
  | _ => false

/-- The step in which a request is performed: at its home entry, its engine, its barrier, its ballot or its service. -/
def ReqOp.event : ReqOp → Instr
  | .openH _ => .versionEvent | .close => .versionEvent | .pin => .versionEvent | .unpin => .versionEvent
  | .subsc _ => .versionEvent | .publ => .versionEvent
  | .atom _ _ _ _ => .syncAccessPerform | .red _ _ _ => .syncAccessPerform | .ldsync _ => .syncAccessPerform
  | .stsync _ _ => .syncAccessPerform | .barinit _ => .syncAccessPerform | .barw _ => .syncAccessPerform
  | .bread => .syncAccessPerform | .plotrd _ => .syncAccessPerform
  | .barr => .barrierArrival | .bpost _ _ => .ballotPost
  | .svc _ _ _ => .svcAllocx
  | _ => .objectRequestPerform

/-! ### Taking a trap (R300 to R304) -/

/-- The code of a cause (R299). -/
def causeCode (k : Cause) : Nat := k.ctorIdx + 1
/-- The performed bit of a slot (R302). -/
def perfBit (sl : Slot) : BitVec 7 := BitVec.ofNat 7 sl.bit
/-- Word k of the bundle at an address: of the replay buffer's image where the host rewrote it (R302, R305), else of the code
object. -/
def Core.codeWord (c : Core) (addr k : Nat) : Nat :=
  match c.replay with
  | some r =>
    if r.addr = addr && r.image ≠ [] then ofBytes ((r.image.drop (8 * k)).take 8) else memRead c.code (addr + 8 * k) 8
  | none => memRead c.code (addr + 8 * k) 8
/-- The slots a bundle lacks count as performed (R302). -/
def Core.absent (c : Core) (addr : Nat) : BitVec 7 := ~~~ (BitVec.ofNat 7 (c.codeWord addr 0))

/-- The emulated slots, and the performed bits, of a replay of the bundle at `addr` (assumption log 3). -/
def Core.inHand (c : Core) (addr : Nat) : List Slot := match c.replay with | some r => if r.addr = addr then r.emul else [] | none => []
def Core.donePerf (c : Core) (addr : Nat) : BitVec 7 := match c.replay with | some r => if r.addr = addr then r.perf else 0 | none => 0
/-- The rewritten image that a trap of the replayed bundle keeps. -/
def Core.imageOf (c : Core) (addr : Nat) : List Byte := match c.replay with | some r => if r.addr = addr then r.image else [] | none => []

/-- The operand words that a trap of the replayed bundle keeps as rewritten. -/
def Core.wordsOf (c : Core) (addr : Nat) : List Nat := match c.replay with | some r => if r.addr = addr then r.words else [] | none => []
/-- What the replay buffer holds after an issue or decode cause (R302). -/
def Core.replayFor (c : Core) (addr : Nat) (k : Cause) : Replay :=
  { addr := addr
    perf := match k with
      | .break_ => c.absent addr ||| perfBit .y
      | .trapInsn => c.absent addr ||| perfBit .y
      | .formatEmulate => c.absent addr ||| c.donePerf addr ||| perfBit c.iss.slot
      | _ => c.absent addr
    slotr := none
    emul := if k = .formatEmulate then c.inHand addr ++ [c.iss.slot] else []
    image := c.imageOf addr
    words := c.wordsOf addr }

/-- The core stops with a cause, its argument and a replay buffer, and its clock domain stops (R302, R304). -/
def Core.stopWith (c : Core) (k : Cause) (targ : Word) (r : Option Replay) : Core :=
  { c with run := .trapped, cause := some k, targ := targ, replay := r, out := .performed, fwait := none, spawnW := none,
           spawnFull := false, tmplW := none }

/-- TAKING A TRAP at decode or issue: the core stops, the whole bundle is in the replay buffer unperformed but for the
slot R302 names, and the trap message goes to the object manager, which resolves FORMAT_EMULATE and applies the policy
to every other cause (R304). -/
def State.takeTrap (s : State) (k : Cause) (targ : Word) : State :=
  let c := s.core
  let s := { s with core := { c.stopWith k targ (some (c.replayFor c.pc k)) with stopTs := s.ts } }
  s.later c.id (if k = .formatEmulate then .emulationDone c.id else .trapPolicy c.id)

/-- TAKING A LATE FAULT at a bundle boundary: the replay buffer holds the bundle that issued the request, all performed
but the faulting slot, with the request's captured operands (R301, R302). -/
def State.takeLate (s : State) (core : Nat) (k : Cause) (r : Option Replay) : State :=
  (s.modCoreAt core fun c => { c.stopWith k 0 r with stopTs := s.ts }).later core (.trapPolicy core)

/-- RETURN FROM A TRAP (R303, R305): the core runs again, with its replay buffer to issue first; a task whose RETIRE has
issued goes on waiting. The late faults recorded so far follow the replay (R301, R303). -/
def Core.resumeRun (c : Core) : Core :=
  { c with run := if c.retireIss then .retiring else .running, cause := none, targ := 0, lateKeep := c.late.length }

end Sys2Proof.Machine
end

