-- ==== Sys2Proof/Machine/Formats.lean ====
section
/-! DEFINITION. Number formats, exact values and RoundTo (R107 to R121, R133). -/
namespace Sys2Proof.Machine

/-- The float and tapered formats of R107. -/
inductive FloatFmt | f8e4 | f8e5 | t6 | t8 | f16 | bf16 | f32 | f64 | t16
deriving DecidableEq, Repr

/-- The kinds of a format code (R107). -/
inductive FmtKind
  | raw
  | int (signed : Bool) (bytes : Nat)
  | flt (f : FloatFmt)
  | reserved
  | poison
deriving DecidableEq, Repr

/-- The table of R107. -/
def fmtKind (f : Fmt) : FmtKind :=
  match f.toNat with
  | 0 => .raw
  | 1 => .int true 1 | 2 => .int false 1 | 3 => .int true 2 | 4 => .int false 2
  | 5 => .int true 4 | 6 => .int false 4 | 7 => .int true 8 | 8 => .int false 8
  | 9 => .flt .f8e4 | 10 => .flt .f8e5 | 11 => .flt .t6 | 12 => .flt .t8 | 13 => .flt .f16 | 14 => .flt .bf16
  | 15 => .flt .f32 | 16 => .flt .f64 | 17 => .flt .t16
  | 31 => .poison
  | _ => .reserved

def fmtRaw : Fmt := 0
def fmtI8 : Fmt := 1
def fmtN32 : Fmt := 6
def fmtN64 : Fmt := 8
def fmtT6 : Fmt := 11
def fmtF32 : Fmt := 15
def fmtF64 : Fmt := 16
def fmtPoison : Fmt := 31

/-- Element bytes in a register (R107). -/
def FloatFmt.bytes : FloatFmt → Nat
  | .f8e4 => 1 | .f8e5 => 1 | .t6 => 1 | .t8 => 1 | .f16 => 2 | .bf16 => 2 | .t16 => 2 | .f32 => 4 | .f64 => 8
def FmtKind.bytes : FmtKind → Nat
  | .raw => 4 | .int _ n => n | .flt f => f.bytes | .reserved => 4 | .poison => 4
/-- Whether a tile scale applies (R109). -/
def FmtKind.scaled : FmtKind → Bool
  | .flt .f8e4 => true | .flt .f8e5 => true | .flt .t6 => true | .flt .t8 => true | _ => false
def FloatFmt.tapered : FloatFmt → Bool
  | .t6 => true | .t8 => true | .t16 => true | _ => false
def FmtKind.isFloat : FmtKind → Bool
  | .flt _ => true | _ => false
def FmtKind.isInt : FmtKind → Bool
  | .int _ _ => true | _ => false

/-- Exponent and fraction widths of a binary format (R111, R112); a tapered format is read by its own rule. -/
def FloatFmt.eBits : FloatFmt → Nat
  | .f8e4 => 4 | .f8e5 => 5 | .f16 => 5 | .bf16 => 8 | .f32 => 8 | .f64 => 11 | _ => 0
def FloatFmt.fBits : FloatFmt → Nat
  | .f8e4 => 3 | .f8e5 => 2 | .f16 => 10 | .bf16 => 7 | .f32 => 23 | .f64 => 52 | _ => 0
/-- Bits of the magnitude field: all but the sign. -/
def FloatFmt.mBits : FloatFmt → Nat
  | .f8e4 => 7 | .f8e5 => 7 | .t6 => 5 | .t8 => 7 | .f16 => 15 | .bf16 => 15 | .t16 => 15 | .f32 => 31 | .f64 => 63
/-- The exponent bias (R111, R112). -/
def FloatFmt.bias (f : FloatFmt) : Nat := 2 ^ (f.eBits - 1) - 1
/-- The magnitude code of the largest finite value (R111, R112, R114). -/
def FloatFmt.maxMag : FloatFmt → Nat
  | .f8e4 => 0x7E
  | .t6 => 2 ^ 5 - 1 | .t8 => 2 ^ 7 - 1 | .t16 => 2 ^ 15 - 1
  | f => (2 ^ f.eBits - 1) * 2 ^ f.fBits - 1
/-- The canonical NaN, or NaR (R111, R112, R114). -/
def FloatFmt.nanCode : FloatFmt → Nat
  | .f8e4 => 0x7F
  | .t6 => 0x20 | .t8 => 0x80 | .t16 => 0x8000
  | f => (2 ^ f.eBits - 1) * 2 ^ f.fBits + 2 ^ (f.fBits - 1)
/-- The code of ±∞, or of what stands for it (R121, R133). -/
def FloatFmt.infCode (f : FloatFmt) (neg : Bool) : Nat :=
  match f with
  | .f8e4 => 0x7E + boolBit neg * 0x80
  | .t6 => 0x20 | .t8 => 0x80 | .t16 => 0x8000
  | f => (2 ^ f.eBits - 1) * 2 ^ f.fBits + boolBit neg * 2 ^ f.mBits

/-! ### Values -/

/-- An exact value: a NaN (or NaR), an infinity, or (-1)^neg × m × 2^e. -/
inductive FVal
  | nan
  | inf (neg : Bool)
  | fin (neg : Bool) (m : Nat) (e : Int)
deriving DecidableEq, Repr

/-- The length of the run of bits equal to `b` from bit n-1 down (R114). -/
def runLen (b : Bool) (k : Nat) : Nat → Nat
  | 0 => 0
  | n + 1 => if k.testBit n = b then runLen b k n + 1 else 0

/-- The value of a nonzero tapered magnitude field of `w` bits, as m × 2^e (R114). -/
def taperedMag (w k : Nat) : Nat × Int :=
  if k = 0 then (0, 0)
  else
    let b := k.testBit (w - 1)
    let run := runLen b k w
    let g : Int := if b then (run : Int) - 1 else -(run : Int)
    let rb := w - run - 1
    let rest := k % 2 ^ rb
    let n := rb - 1
    let e := if rb = 0 then 0 else rest / 2 ^ n
    (2 ^ n + rest % 2 ^ n, 2 * g + (e : Int) - (n : Int))

/-- The value of a finite magnitude code, as m × 2^e (R111, R112, R114). -/
def FloatFmt.magVal (f : FloatFmt) (k : Nat) : Nat × Int :=
  if f.tapered then taperedMag f.mBits k
  else
    let ex := k / 2 ^ f.fBits
    let fr := k % 2 ^ f.fBits
    if ex = 0 then (fr, 1 - (f.bias : Int) - (f.fBits : Int))
    else (2 ^ f.fBits + fr, (ex : Int) - (f.bias : Int) - (f.fBits : Int))

/-- Decode(format, code) (R109, R111, R112, R114). -/
def FloatFmt.decode (f : FloatFmt) (code : Nat) : FVal :=
  let k := code % 2 ^ f.mBits
  let neg := code / 2 ^ f.mBits % 2 = 1
  if f.tapered then
    if k = 0 then (if neg then .nan else .fin false 0 0)
    else let v := f.magVal k; .fin neg v.1 v.2
  else if k ≤ f.maxMag then let v := f.magVal k; .fin neg v.1 v.2
  else if f ≠ .f8e4 ∧ k = f.maxMag + 1 then .inf neg
  else .nan

/-- An integer pattern of `n` bytes as an exact value (R110). -/
def intVal (signed : Bool) (n code : Nat) : Int :=
  let c := code % 2 ^ (8 * n)
  if signed ∧ 2 ^ (8 * n - 1) ≤ c then (c : Int) - (2 ^ (8 * n) : Nat) else (c : Int)
def ofInt (i : Int) : FVal := .fin (i < 0) i.natAbs 0

/-- Val of a code under a format and a tile scale (R109, R135). -/
def valOf (k : FmtKind) (scale : Int) (code : Nat) : FVal :=
  match k with
  | .int s n => ofInt (intVal s n code)
  | .flt f =>
    match f.decode code with
    | .fin neg m e => if k.scaled then .fin neg m (e + scale) else .fin neg m e
    | v => v
  | _ => .fin false 0 0

/-! ### Comparisons of exact magnitudes -/

/-- m1 × 2^e1 against m2 × 2^e2. -/
def cmpDy (m1 : Nat) (e1 : Int) (m2 : Nat) (e2 : Int) : Ordering :=
  if e1 ≤ e2 then compare m1 (m2 * 2 ^ (e2 - e1).toNat) else compare (m1 * 2 ^ (e1 - e2).toNat) m2

/-- The sign of a nonzero finite value; zeros compare equal (R88, R142). -/
def cmpFin (n1 : Bool) (m1 : Nat) (e1 : Int) (n2 : Bool) (m2 : Nat) (e2 : Int) : Ordering :=
  if m1 = 0 ∧ m2 = 0 then .eq
  else if m1 = 0 then (if n2 then .gt else .lt)
  else if m2 = 0 then (if n1 then .lt else .gt)
  else match n1, n2 with
    | false, true => .gt
    | true, false => .lt
    | false, false => cmpDy m1 e1 m2 e2
    | true, true => cmpDy m2 e2 m1 e1

/-- The order of two exact values; none when either is a NaN. -/
def cmpVal : FVal → FVal → Option Ordering
  | .nan, _ => none
  | _, .nan => none
  | .inf a, .inf b => some (if a = b then .eq else if a then .lt else .gt)
  | .inf a, _ => some (if a then .lt else .gt)
  | _, .inf b => some (if b then .gt else .lt)
  | .fin n1 m1 e1, .fin n2 m2 e2 => some (cmpFin n1 m1 e1 n2 m2 e2)

/-! ### Exact results -/

/-- The exact result of an operation: a NaN, an infinity, a signed zero, or a nonzero real given by its sign and by the
order of its magnitude against m × 2^e. -/
inductive Exact
  | nan
  | inf (neg : Bool)
  | zero (neg : Bool)
  | num (neg : Bool) (cmp : Nat → Int → Ordering)

/-- The exact result m × 2^e; a zero keeps the sign given. -/
def Exact.dy (neg : Bool) (m : Nat) (e : Int) : Exact := if m = 0 then .zero neg else .num neg (cmpDy m e)
def Exact.ofVal : FVal → Exact
  | .nan => .nan | .inf n => .inf n | .fin n m e => .dy n m e

/-- ExactSum over finite addends, as an integer times 2^e (R11). -/
def sumDy : List (Bool × Nat × Int) → Int × Int
  | [] => (0, 0)
  | (n, m, e) :: r =>
    let s := sumDy r
    let i : Int := if n then -(m : Int) else m
    if e ≤ s.2 then (i + s.1 * 2 ^ (s.2 - e).toNat, e) else (i * 2 ^ (e - s.2).toNat + s.1, s.2)

/-- The sum of finite addends with R119's sign of a zero. -/
def sumExact (rm : Rm) (xs : List (Bool × Nat × Int)) : Exact :=
  let s := sumDy xs
  if s.1 = 0 then
    match xs with
    | [] => .zero false
    | (n, _, _) :: _ => if xs.all (fun x => x.2.1 = 0 && x.1 = n) then .zero n else .zero (rm = .rdn)
  else .num (s.1 < 0) (cmpDy s.1.natAbs s.2)

/-- A sum of values: NaN, and infinities of both signs, give NaN (R87, R119). -/
def sumVals (rm : Rm) (xs : List FVal) : Exact :=
  if xs.contains .nan then .nan
  else if xs.contains (.inf false) && xs.contains (.inf true) then .nan
  else if xs.contains (.inf false) then .inf false
  else if xs.contains (.inf true) then .inf true
  else sumExact rm (xs.filterMap fun v => match v with | .fin n m e => some (n, m, e) | _ => none)

def FVal.negate : FVal → FVal
  | .nan => .nan | .inf n => .inf !n | .fin n m e => .fin (!n) m e

/-- A product as a value: 0 × ∞ is NaN (R87). -/
def mulVal : FVal → FVal → FVal
  | .nan, _ => .nan
  | _, .nan => .nan
  | .inf a, .inf b => .inf (a != b)
  | .inf a, .fin b m _ => if m = 0 then .nan else .inf (a != b)
  | .fin a m _, .inf b => if m = 0 then .nan else .inf (a != b)
  | .fin a m e, .fin b k f => .fin (a != b) (m * k) (e + f)

/-- a × b + c with one rounding to come (R87, R137): NaN for 0 × ∞, for opposing infinities and for any NaN. -/
def fmaExact (rm : Rm) (a b c : FVal) : Exact := sumVals rm [mulVal a b, c]

/-- a / b (R87, R119). -/
def divExact : FVal → FVal → Exact
  | .nan, _ => .nan
  | _, .nan => .nan
  | .inf _, .inf _ => .nan
  | .inf a, .fin b _ _ => .inf (a != b)
  | .fin a _ _, .inf b => .zero (a != b)
  | .fin a m e, .fin b k f =>
    if m = 0 ∧ k = 0 then .nan
    else if k = 0 then .inf (a != b)
    else if m = 0 then .zero (a != b)
    else .num (a != b) fun x g => cmpDy m e (k * x) (f + g)

/-- √a (R87). -/
def sqrtExact : FVal → Exact
  | .nan => .nan
  | .inf n => if n then .nan else .inf false
  | .fin n m e => if m = 0 then .zero n else if n then .nan else .num false fun x g => cmpDy m e (x * x) (2 * g)

/-- A value times 2^k (R139). -/
def FVal.shift (v : FVal) (k : Int) : FVal :=
  match v with
  | .fin n m e => .fin n m (e + k)
  | v => v

/-! ### RoundTo (R116 to R118, R121, R133) -/

/-- The greatest magnitude code not above x, found from the top bit down: `le k` tells whether code k's value is at
most x. -/
def findMag (le : Nat → Bool) : Nat → Nat → Nat
  | 0, k => k
  | n + 1, k => if le (k + 2 ^ n) then findMag le n (k + 2 ^ n) else findMag le n k

/-- The midpoint of two adjacent finite values, as m × 2^e. -/
def midpoint (a b : Nat × Int) : Nat × Int :=
  if a.2 ≤ b.2 then (a.1 + b.1 * 2 ^ (b.2 - a.2).toNat, a.2 - 1) else (a.1 * 2 ^ (a.2 - b.2).toNat + b.1, b.2 - 1)

/-- Which of two adjacent magnitude codes k and k + 1 a mode selects for a value between them (R116). -/
def pick (rm : Rm) (neg : Bool) (mid : Ordering) (k : Nat) : Nat :=
  match rm with
  | .rne => match mid with | .lt => k | .gt => k + 1 | .eq => if k % 2 = 0 then k else k + 1
  | .rna => match mid with | .lt => k | _ => k + 1
  | .rtz => k
  | .rup => if neg then k else k + 1
  | .rdn => if neg then k + 1 else k
  | .odd => if k % 2 = 1 then k else k + 1

/-- The magnitude code for a magnitude beyond the largest finite value (R117, R118). -/
def overflow (f : FloatFmt) (rm : Rm) (neg : Bool) (cmp : Nat → Int → Ordering) : Nat :=
  if f.tapered || f = .f8e4 then f.maxMag
  else
    let top := f.magVal f.maxMag
    match rm with
    | .rne | .rna => if cmp (2 * top.1 + 1) (top.2 - 1) = .lt then f.maxMag else f.maxMag + 1
    | .rtz | .odd => f.maxMag
    | .rup => if neg then f.maxMag else f.maxMag + 1
    | .rdn => if neg then f.maxMag + 1 else f.maxMag

/-- The magnitude code of RoundTo for a nonzero real (R116 to R118). -/
def roundMag (f : FloatFmt) (rm : Rm) (neg : Bool) (cmp : Nat → Int → Ordering) : Nat :=
  let at_ (k : Nat) : Ordering := cmp (f.magVal k).1 (f.magVal k).2
  let k := findMag (fun k => k ≤ f.maxMag && at_ k ≠ .lt) f.mBits 0
  if k ≠ 0 ∧ at_ k = .eq then k
  else if k = f.maxMag then overflow f rm neg cmp
  else if k = 0 ∧ f.tapered then 1
  else
    let mid := midpoint (f.magVal k) (f.magVal (k + 1))
    pick rm neg (cmp mid.1 mid.2) k

/-- The code of a sign and a magnitude; a tapered format has no negative zero (R118). -/
def FloatFmt.code (f : FloatFmt) (neg : Bool) (mag : Nat) : Nat :=
  if f.tapered ∧ mag = 0 then 0 else mag + boolBit neg * 2 ^ f.mBits

/-- RoundTo(format, mode, x × 2^(-scale)) with the special results of R121 and R133. -/
def roundTo (f : FloatFmt) (rm : Rm) (scale : Int) : Exact → Nat
  | .nan => f.nanCode
  | .inf n => f.infCode n
  | .zero n => f.code n 0
  | .num n cmp => f.code n (roundMag f rm n fun m e => cmp m (e + scale))

/-! ### Rounding to integers (R116, R121) -/

/-- RoundToInt(mode, x) of a finite value. -/
def roundInt (rm : Rm) (neg : Bool) (m : Nat) (e : Int) : Int :=
  let mag : Nat :=
    if 0 ≤ e then m * 2 ^ e.toNat
    else
      let d := 2 ^ (-e).toNat
      let q := m / d
      if m % d = 0 then q else pick rm neg (compare (2 * (m % d)) d) q
  if neg then -(mag : Int) else mag

/-- The range of an integer format (R110). -/
def intMin (signed : Bool) (n : Nat) : Int := if signed then -((2 ^ (8 * n - 1) : Nat) : Int) else 0
def intMax (signed : Bool) (n : Nat) : Int :=
  if signed then ((2 ^ (8 * n - 1) : Nat) : Int) - 1 else ((2 ^ (8 * n) : Nat) : Int) - 1
/-- SatInt(format, x) (R11). -/
def satInt (signed : Bool) (n : Nat) (x : Int) : Int :=
  if x < intMin signed n then intMin signed n else if intMax signed n < x then intMax signed n else x
/-- The pattern of an integer modulo 2^(8n) (R110, R135). -/
def wrapInt (n : Nat) (x : Int) : Nat := (x % ((2 ^ (8 * n) : Nat) : Int)).toNat

/-- A conversion of a value to a format under a destination scale (R121); 0 for formats that R121 traps. -/
def convertVal (dst : FmtKind) (rm : Rm) (scale : Int) (v : FVal) : Nat :=
  match dst with
  | .int s n =>
    wrapInt n (match v with
      | .nan => 0
      | .inf true => intMin s n
      | .inf false => intMax s n
      | .fin neg m e => satInt s n (roundInt rm neg m e))
  | .flt f => roundTo f rm scale (.ofVal v)
  | _ => 0

/-- A conversion between two codes (R121). A format to itself returns the value unchanged but for a NaN. -/
def convertCode (src dst : FmtKind) (rm : Rm) (sscale : Int) (code : Nat) : Nat :=
  convertVal dst rm 0 (valOf src sscale code)

/-- The outcome of a format check, in R132's order: reserved before mismatch before emulation. -/
def fmtCause (isReserved mismatch emulate : Bool) : Option Cause :=
  if isReserved then some .formatReserved else if mismatch then some .formatMismatch
  else if emulate then some .formatEmulate else none

end Sys2Proof.Machine
end

