-- ==== Sys2Proof/Machine/Flags.lean ====
section
/-! DEFINITION. Conditions: the compares of R82, R88 and R142 and the classes of R143. The X4 has no flag register
(R87): conditions go to predicates and masks. -/
namespace Sys2Proof.Machine

/-- Cond(x, y) of R82. -/
def condHolds (c : Cond) (x y : Word) : Bool :=
  match c with
  | .eq => x == y
  | .ne => x != y
  | .lt => x.slt y
  | .ge => y.sle x
  | .ltn => x.ult y
  | .gen => y.ule x
  | .le => x.sle y
  | .gt => y.slt x

/-- The conditions of R88 and R142 on the order of a pair; none is unordered. -/
def fcondHolds (c : FCond) (o : Option Ordering) : Bool :=
  match c, o with
  | .eq, some .eq => true
  | .ne, none => true
  | .ne, some r => r != .eq
  | .lt, some .lt => true
  | .le, some r => r != .gt
  | .gt, some .gt => true
  | .ge, some r => r != .lt
  | .un, none => true
  | _, _ => false

/-- Whether a magnitude code is subnormal (R111, R112, R143). -/
def FloatFmt.subnormal (f : FloatFmt) (code : Nat) : Bool :=
  !f.tapered && decide (0 < code % 2 ^ f.mBits) && decide (code % 2 ^ f.mBits < 2 ^ f.fBits)

/-- The classes of R143, one bit each, of an element. -/
def classBits (k : FmtKind) (code : Nat) : Nat :=
  match valOf k 0 code with
  | .nan => 1
  | .inf true => 2
  | .inf false => 32
  | .fin neg m _ =>
    let sub := match k with | .flt f => f.subnormal code | _ => false
    if m = 0 then 8 else (if neg then 4 else 16) + (if sub then 64 else 0)

end Sys2Proof.Machine
end

