-- ==== Sys2Proof/Machine/Operands.lean ====
section
/-! DEFINITION. The operand forms: vector elements and masks (R108, R126, R129), scratch addresses and granules (R86,
R152, R154), packed T6 (R115), index tuples (R46). -/
namespace Sys2Proof.Machine

/-! ### Elements (R108, R126) -/

/-- The w-byte pattern of element i of a 512-byte image. -/
def bitsAt (d : VBits) (w i : Nat) : Nat := (d.toNat / 2 ^ (8 * w * i)) % 2 ^ (8 * w)
/-- The number whose w-byte elements are a list. -/
def packElems (w : Nat) : List Nat → Nat
  | [] => 0
  | e :: es => e % 2 ^ (8 * w) + 2 ^ (8 * w) * packElems w es
/-- A 512-byte image from the function that gives each of its elements. -/
def mkImage (w n : Nat) (el : Nat → Nat) : VBits := BitVec.ofNat 4096 (packElems w ((List.range n).map el))
/-- Elements per register (R126). -/
def elems (w : Nat) : Nat := 512 / w
/-- The kind of a register's format. -/
def VReg.kind (v : VReg) : FmtKind := fmtKind v.tag.fmt
/-- The element bytes of a register (R107). -/
def VReg.w (v : VReg) : Nat := v.kind.bytes
/-- Val(r, i) (R135). -/
def VReg.val (v : VReg) (i : Nat) : FVal := valOf v.kind v.tag.scale.toInt (bitsAt v.data v.w i)
/-- Bits(r, i) (R135). -/
def VReg.bits (v : VReg) (i : Nat) : Nat := bitsAt v.data v.w i
/-- The signed integer that an element holds, in an integer format. -/
def VReg.int (v : VReg) (i : Nat) : Int :=
  match v.kind with
  | .int s n => intVal s n (v.bits i)
  | _ => v.bits i
/-- A 32-bit lane (R126). -/
def VReg.lane (v : VReg) (l : Nat) : Nat := bitsAt v.data 4 l
/-- The format code POISON (R125). -/
def VReg.isPoison (v : VReg) : Bool := v.tag.fmt = fmtPoison
/-- The poison bit or the code POISON: what an interpreting instruction traps on (R131). -/
def VReg.marked (v : VReg) : Bool := v.tag.poison || v.isPoison

/-! ### Masks (R129, R130) -/

/-- Active(i) for elements of w bytes: the bit of the element's lowest byte. -/
def active (c : Core) (k : MaskOp) (w i : Nat) : Bool :=
  match k with
  | .all => true
  | .mask m _ => (c.rm m).getLsbD (w * i)
/-- The same for a mask operand whose MZ is 0. -/
def activeO (c : Core) (k : Option (Fin 8)) (w i : Nat) : Bool :=
  match k with
  | none => true
  | some m => (c.rm m).getLsbD (w * i)
/-- Merging: the old destination is a source (R129). -/
def MaskOp.merges : MaskOp → Bool
  | .mask _ false => true
  | _ => false
/-- The registers a mask operand makes sources: its mask, and under merge the destination. -/
def maskSrcs (k : MaskOp) (d : Fin 32) : List Reg :=
  match k with
  | .all => []
  | .mask m z => .m m.val :: (if z then [] else [.v d.val])
def maskSrcO : Option (Fin 8) → List Reg
  | none => []
  | some m => [.m m.val]
/-- A 512-bit mask from a result per element of w bytes: w equal bits for each (R130). -/
def mkMask (w n : Nat) (f : Nat → Bool) : MBits :=
  BitVec.ofNat 512 (((List.range n).filter f).map fun i => (2 ^ w - 1) * 2 ^ (w * i)).sum

/-! ### Scratch (R20, R21, R86, R115, R153) -/

/-- The bytes of scratch from an address. -/
def Core.scrBytes (c : Core) (a n : Nat) : List Byte := memBytes c.scratch a n
/-- Whether a 128-byte line carries a poison mark. -/
def Core.marked (c : Core) (line : Nat) : Bool := c.marks.getLsbD line
/-- Whether any line that holds one of these bytes carries a mark. -/
def Core.anyMark (c : Core) (a n : Nat) : Bool :=
  n ≠ 0 && (List.range ((a + n - 1) / 128 - a / 128 + 1)).any fun k => c.marked (a / 128 + k)
/-- The marks with one line's mark set or cleared. -/
def setMark (m : BitVec 4096) (line : Nat) (on : Bool) : BitVec 4096 :=
  if on then m ||| (1#4096 <<< line) else m &&& ~~~(1#4096 <<< line)

/-- The T6 codes of packed bytes, four to a 3-byte group (R115). -/
def unpackT6 (n : Nat) (bytes : List Byte) : List Nat :=
  let v := ofBytes bytes
  (List.range n).map fun i => v / 2 ^ (6 * i) % 64
/-- The packed bytes of T6 codes (R115): three for every four codes, the last group's unused fields 0. -/
def packT6 (codes : List Nat) : List Byte :=
  let v := ((List.range codes.length).zip codes).foldl (fun a e => a + e.2 % 64 * 2 ^ (6 * e.1)) 0
  toBytes ((codes.length + 3) / 4 * 3) v

/-- The access size of a register in scratch (R154): 384 bytes for T6, else 512. -/
def accessSize (f : Fmt) : Nat := if f = fmtT6 then 384 else 512
/-- The element patterns that n bytes of scratch hold under a format. -/
def elemsOf (f : Fmt) (bytes : List Byte) : List Nat :=
  let w := (fmtKind f).bytes
  if f = fmtT6 then unpackT6 512 bytes
  else let v := ofBytes bytes; (List.range (512 / w)).map fun i => v / 2 ^ (8 * w * i) % 2 ^ (8 * w)
/-- The bytes of scratch that element patterns make under a format. -/
def bytesOf (f : Fmt) (es : List Nat) : List Byte :=
  if f = fmtT6 then packT6 es else toBytes 512 (packElems (fmtKind f).bytes es)
/-- The place of an element's bytes in an access: first byte and count (for T6 the bytes its field lies in). -/
def elemPlace (f : Fmt) (i : Nat) : Nat × Nat :=
  if f = fmtT6 then (6 * i / 8, (6 * i + 5) / 8 - 6 * i / 8 + 1) else let w := (fmtKind f).bytes; (w * i, w)

/-- UInt(a[BASE]) + OFS, exact (R86, R154). -/
def effAddr (c : Core) (base : Fin 16) (ofs : BitVec 19) : Nat := (c.ra base).toNat + ofs.toNat

/-! ### The vector ports (R152) -/

/-- The granules, per bank, that byte ranges of scratch touch: 64 counts of distinct granules. -/
def bankCounts (granules : List Nat) : List Nat :=
  let ds := granules.eraseDups
  (List.range 64).map fun b => (ds.filter fun g => g % 64 = b).length
/-- The 32-byte granules of n bytes from an address, active elements or not (DESIGN CHOICE, assumption log 94). -/
def granulesOf (a n : Nat) : List Nat := if n = 0 then [] else (List.range ((a + n - 1) / 32 - a / 32 + 1)).map (a / 32 + ·)
/-- The first task cycle after `t` of phase `p` of the frame (R21). -/
def nextPhase (t p : Nat) : Nat := t + 1 + (p + 4 - (t + 1) % 4) % 4

/-- A scratch syllable's granules join its slot's port: from the slot's first phase after the issue, due in the first or the
second. -/
def Core.portAdd (c : Core) (second : Bool) (granules : List Nat) : Core :=
  let v1 := c.iss.slot = .v1
  let p := nextPhase c.cyc (if v1 then 1 else 0)
  { c with port := c.port ++ [⟨v1, p, if second then p + 4 else p, bankCounts granules⟩] }

/-! ### Tuples and tile operands (R46, R214) -/

/-- The coordinates of an index tuple: the a-registers from T, one for each dimension. -/
def Core.tuple (c : Core) (t : Fin 16) (n : Nat) : List Word := (List.range n).map fun k => c.ra (aPlus t k)
/-- The a-registers a tuple of n coordinates names. -/
def tupleSrcs (t : Fin 16) (n : Nat) : List Reg := (List.range n).map fun k => .a (aPlus t k).val

end Sys2Proof.Machine
end

