-- ==== Sys2Proof/Machine/Scalar.lean ====
section
/-! DEFINITION. The scalar instructions: integer arithmetic and logic, compares, predicates, address registers, control
and status registers, scratch access and the tag table (R70 to R86, R90). -/
namespace Sys2Proof.Machine

/-! ### Shared shapes -/

/-- A syllable that writes x[D] with a function of two x-registers (R77, R78). -/
def alu2 (lat : Nat) (f : Word → Word → Word) (d a b : Fin 64) (s : State) : Out :=
  syl [.x a.val, .x b.val] (fun c => c.wx lat d (f (c.rx a) (c.rx b))) s
/-- A syllable that writes x[D] with a function of one x-register (R79, R80). -/
def alu1 (f : Word → Word) (d a : Fin 64) (s : State) : Out :=
  syl [.x a.val] (fun c => c.wx 1 d (f (c.rx a))) s
/-- A syllable that writes p[D] with a function of two predicates (R84). -/
def pred2 (f : Bool → Bool → Bool) (d a b : Fin 16) (s : State) : Out :=
  syl [.p a.val, .p b.val] (fun c => c.wp 1 d (f (c.rp a) (c.rp b))) s

/-! ### Values of R77 to R80 -/

def vMulh (a b : Word) : Word := BitVec.ofInt 64 (a.toInt * b.toInt / 2 ^ 64)
def vMulhn (a b : Word) : Word := BitVec.ofNat 64 (a.toNat * b.toNat / 2 ^ 64)
/-- DIV of R78: truncation; -1 for a divisor of 0. -/
def vDiv (a b : Word) : Word := if b = 0 then -1 else BitVec.ofInt 64 (a.toInt.tdiv b.toInt)
def vDivn (a b : Word) : Word := if b = 0 then -1 else BitVec.ofNat 64 (a.toNat / b.toNat)
/-- REM of R78: the remainder takes the sign of the dividend; the dividend for a divisor of 0. -/
def vRem (a b : Word) : Word := if b = 0 then a else BitVec.ofInt 64 (a.toInt.tmod b.toInt)
def vRemn (a b : Word) : Word := if b = 0 then a else BitVec.ofNat 64 (a.toNat % b.toNat)
def vMin (a b : Word) : Word := if a.sle b then a else b
def vMax (a b : Word) : Word := if b.sle a then a else b
def vMinn (a b : Word) : Word := if a.ule b then a else b
def vMaxn (a b : Word) : Word := if b.ule a then a else b
/-- The shift count x[B][5:0] (R77). -/
def shiftBy (b : Word) : Nat := b.toNat % 64
def vShl (a b : Word) : Word := a <<< shiftBy b
def vShr (a b : Word) : Word := a >>> shiftBy b
def vSra (a b : Word) : Word := a.sshiftRight (shiftBy b)
def vRotl (a b : Word) : Word := a.rotateLeft (shiftBy b)
/-- The number of 0 bits above the highest 1 bit among bits n-1 to 0. -/
def lead0 (x : Nat) : Nat → Nat
  | 0 => 0
  | n + 1 => if x.testBit n then 0 else lead0 x n + 1
/-- The number of 0 bits below the lowest 1 bit, from bit k on, among n bits. -/
def trail0 (x k : Nat) : Nat → Nat
  | 0 => 0
  | n + 1 => if x.testBit k then 0 else trail0 x (k + 1) n + 1
/-- The number of 1 bits among bits n-1 to 0. -/
def ones (x : Nat) : Nat → Nat
  | 0 => 0
  | n + 1 => ones x n + boolBit (x.testBit n)
def vClz (a : Word) : Word := BitVec.ofNat 64 (lead0 a.toNat 64)
def vCtz (a : Word) : Word := BitVec.ofNat 64 (trail0 a.toNat 0 64)
def vPopc (a : Word) : Word := BitVec.ofNat 64 (ones a.toNat 64)
/-- SignExtend(IMM, 32) (R80). -/
def simm (i : BitVec 32) : Word := i.signExtend 64

/-! ### Integer arithmetic and logic (R77 to R83) -/

def execAdd (d a b : Fin 64) (s : State) : Out := alu2 1 (fun a b => a + b) d a b s
def execSub (d a b : Fin 64) (s : State) : Out := alu2 1 (fun a b => a - b) d a b s
def execMul (d a b : Fin 64) (s : State) : Out := alu2 3 (fun a b => a * b) d a b s
def execMulh (d a b : Fin 64) (s : State) : Out := alu2 3 vMulh d a b s
def execMulhn (d a b : Fin 64) (s : State) : Out := alu2 3 vMulhn d a b s
def execDiv (d a b : Fin 64) (s : State) : Out := alu2 20 vDiv d a b s
def execDivn (d a b : Fin 64) (s : State) : Out := alu2 20 vDivn d a b s
def execRem (d a b : Fin 64) (s : State) : Out := alu2 20 vRem d a b s
def execRemn (d a b : Fin 64) (s : State) : Out := alu2 20 vRemn d a b s
def execMin (d a b : Fin 64) (s : State) : Out := alu2 1 vMin d a b s
def execMax (d a b : Fin 64) (s : State) : Out := alu2 1 vMax d a b s
def execMinn (d a b : Fin 64) (s : State) : Out := alu2 1 vMinn d a b s
def execMaxn (d a b : Fin 64) (s : State) : Out := alu2 1 vMaxn d a b s
def execAnd (d a b : Fin 64) (s : State) : Out := alu2 1 (fun a b => a &&& b) d a b s
def execOr (d a b : Fin 64) (s : State) : Out := alu2 1 (fun a b => a ||| b) d a b s
def execXor (d a b : Fin 64) (s : State) : Out := alu2 1 (fun a b => a ^^^ b) d a b s
def execAndn (d a b : Fin 64) (s : State) : Out := alu2 1 (fun a b => a &&& ~~~b) d a b s
def execShl (d a b : Fin 64) (s : State) : Out := alu2 1 vShl d a b s
def execShr (d a b : Fin 64) (s : State) : Out := alu2 1 vShr d a b s
def execSra (d a b : Fin 64) (s : State) : Out := alu2 1 vSra d a b s
def execRotl (d a b : Fin 64) (s : State) : Out := alu2 1 vRotl d a b s
def execClz (d a : Fin 64) (s : State) : Out := alu1 vClz d a s
def execCtz (d a : Fin 64) (s : State) : Out := alu1 vCtz d a s
def execPopc (d a : Fin 64) (s : State) : Out := alu1 vPopc d a s
/-- CMP (R82). -/
def execCmp (k : Cond) (d : Fin 16) (a b : Fin 64) (s : State) : Out :=
  syl [.x a.val, .x b.val] (fun c => c.wp 1 d (condHolds k (c.rx a) (c.rx b))) s
/-- SEL (R83). -/
def execSel (d a b : Fin 64) (p : Fin 16) (s : State) : Out :=
  syl [.x a.val, .x b.val, .p p.val] (fun c => c.wx 1 d (if c.rp p then c.rx a else c.rx b)) s
/-- MOVI (R80). -/
def execMovi (d : Fin 64) (imm : BitVec 32) (s : State) : Out := syl [] (fun c => c.wx 1 d (simm imm)) s
/-- MOVL (R81). -/
def execMovl (d : Fin 64) (limm : BitVec 40) (s : State) : Out := syl [] (fun c => c.wx 1 d (limm.signExtend 64)) s
def execAddi (d a : Fin 64) (imm : BitVec 32) (s : State) : Out := alu1 (· + simm imm) d a s
def execAndi (d a : Fin 64) (imm : BitVec 32) (s : State) : Out := alu1 (· &&& simm imm) d a s
def execOri (d a : Fin 64) (imm : BitVec 32) (s : State) : Out := alu1 (· ||| simm imm) d a s
def execXori (d a : Fin 64) (imm : BitVec 32) (s : State) : Out := alu1 (· ^^^ simm imm) d a s
def execShli (d a k : Fin 64) (s : State) : Out := alu1 (· <<< k.val) d a s
def execShri (d a k : Fin 64) (s : State) : Out := alu1 (· >>> k.val) d a s
def execSrai (d a k : Fin 64) (s : State) : Out := alu1 (·.sshiftRight k.val) d a s
/-- CMPI (R82). -/
def execCmpi (k : Cond) (d : Fin 16) (a : Fin 64) (imm : BitVec 32) (s : State) : Out :=
  syl [.x a.val] (fun c => c.wp 1 d (condHolds k (c.rx a) (simm imm))) s

/-! ### Address registers and predicates (R84, R85) -/

def execAadd (d a : Fin 16) (imm : BitVec 32) (s : State) : Out :=
  syl [.a a.val] (fun c => c.wa 1 d (c.ra a + simm imm)) s
def execAmovAX (d : Fin 16) (a : Fin 64) (s : State) : Out := syl [.x a.val] (fun c => c.wa 1 d (c.rx a)) s
def execAmovXA (d : Fin 64) (a : Fin 16) (s : State) : Out := syl [.a a.val] (fun c => c.wx 1 d (c.ra a)) s
def execPand (d a b : Fin 16) (s : State) : Out := pred2 and d a b s
def execPor (d a b : Fin 16) (s : State) : Out := pred2 or d a b s
def execPxor (d a b : Fin 16) (s : State) : Out := pred2 xor d a b s
def execPnot (d a : Fin 16) (s : State) : Out := syl [.p a.val] (fun c => c.wp 1 d (!c.rp a)) s

/-! ### Control and status registers (R74 to R76) -/

/-- COREID (R75). -/
def coreId (pkg core : Nat) : Word :=
  BitVec.ofNat 64 (core + core / 48 * 2 ^ 9 + core % 48 / 8 * 2 ^ 12 + core % 8 * 2 ^ 15 + pkg * 2 ^ 18)

/-- What CSRRD reads (R74, R75); reserved fields read 0. -/
def csrRead (s : State) (n : Nat) : Word :=
  let c := s.core
  match n with
  | 0 => BitVec.ofNat 64 (boolBit c.sbchk)
  | 1 => coreId s.pkg c.id
  | 2 => match c.task with | some t => BitVec.ofNat 64 (t.member + t.shape * 8) | none => 0
  | 3 => match c.task with | some t => zeroExt 32 t.ix | none => 0
  | 4 => BitVec.ofNat 64 c.scrlim
  | 5 => BitVec.ofNat 64 (1 + 1 * 2 ^ 8)
  | 16 => BitVec.ofNat 64 c.cyc
  | 17 => BitVec.ofNat 64 c.bundles
  | 18 => BitVec.ofNat 64 c.clkstop
  | 19 => BitVec.ofNat 64 c.waits
  | _ => 0

/-- CSRRD (R76); an unassigned number traps ILLEGAL at decode, before any meaning. -/
def execCsrrd (d : Fin 64) (csr : Fin 4096) (s : State) : Out :=
  sylS [] (fun s => s.modCore fun c => c.wx 1 d (csrRead s csr.val)) s

/-- CSRWR (R76): SBCHK takes x[A][0] from the next cycle; every other field ignores the write. -/
def execCsrwr (csr : Fin 4096) (a : Fin 64) (s : State) : Out :=
  syl [.x a.val] (fun c => if csr = 0 then c.fx (.sbchk ((c.rx a).getLsbD 0)) else c) s

/-! ### Scratch access (R72, R73, R86, R205) -/

def ldBytes : LdSize → Nat
  | .b => 1 | .bs => 1 | .h => 2 | .hs => 2 | .w => 4 | .ws => 4 | .d => 8
def ldSigned : LdSize → Bool
  | .bs => true | .hs => true | .ws => true | _ => false
def stBytes : StSize → Nat
  | .b => 1 | .h => 2 | .w => 4 | .d => 8

/-- Whether an aligned access of n bytes lies in [0, S) (R86). -/
def Core.inScratch (c : Core) (addr n : Nat) : Bool := addr % n = 0 && addr + n ≤ c.scrlim

/-- The task cycle in which the scalar port performs an access issued in cycle t: the next one of phase 3 (R21, R72). -/
def portCycleOf (t : Nat) : Nat := t + (if t % 4 = 3 then 4 else 3 - t % 4)
/-- The value of a load of n bytes. -/
def loadValue (signed : Bool) (n v : Nat) : Word := if signed then signExt (8 * n) v else zeroExt (8 * n) v
/-- A load put in flight, to be performed by the scalar port in its phase-3 cycle; x0 takes none (R72). -/
def Core.noteLoad (c : Core) (d : Fin 64) (addr n : Nat) (signed : Bool) : Core :=
  if d = 0 then c
  else
    let ready := c.cyc + 4
    let nth := (c.inflight.filter fun f => f.ready = ready && f.wr.reg = .x d.val).length
    { c with loads := c.loads ++ [⟨d, ready, nth, addr, n, signed, portCycleOf c.cyc⟩] }

/-- LDS (R86): the cause order is SCRATCH_BOUNDS, then POISON for a marked line. Its value is scratch as it stands at issue, with
the bytes that fills bring before its phase-3 cycle (R72, `Core.patchLoads`). -/
def execLds (sz : LdSize) (d : Fin 64) (base : Fin 16) (ofs : BitVec 19) (s : State) : Out :=
  syl [.a base.val] (fun c =>
    let n := ldBytes sz
    let addr := effAddr c base ofs
    if c.inScratch addr n = false then c.trap .scratchBounds
    else if c.anyMark addr n then c.trap .poison
    else
      (c.noteLoad d addr n (ldSigned sz)).wx 5 d (loadValue (ldSigned sz) n (memRead c.scratch addr n))) s

/-- STS (R86): the bytes are written at the end of the cycle (R73). -/
def execSts (sz : StSize) (d : Fin 64) (base : Fin 16) (ofs : BitVec 19) (s : State) : Out :=
  syl [.a base.val, .x d.val] (fun c =>
    let n := stBytes sz
    let addr := effAddr c base ofs
    if c.inScratch addr n = false then c.trap .scratchBounds
    else c.fx (.bytes addr (toBytes n (c.rx d).toNat))) s

/-! ### The tag table (R90): the valid entries by rising slot -/

def tagPut (t : List (Nat × Word)) (slot : Nat) (key : Word) : List (Nat × Word) :=
  t.filter (fun e => e.1 < slot) ++ (slot, key) :: t.filter (fun e => slot < e.1)
def tagFind (t : List (Nat × Word)) (key : Word) : Word :=
  match t.find? (fun e => e.2 = key) with
  | some e => BitVec.ofNat 64 e.1
  | none => -1
def execTlook (d a : Fin 64) (s : State) : Out := syl [.x a.val] (fun c => c.wx 2 d (tagFind c.tags (c.rx a))) s
def execTset (a b : Fin 64) (s : State) : Out :=
  syl [.x a.val, .x b.val] (fun c => { c with tags := tagPut c.tags ((c.rx a).toNat % 1024) (c.rx b) }) s
def execTinv (a : Fin 64) (s : State) : Out :=
  syl [.x a.val] (fun c =>
    { c with tags := if (c.rx a).getLsbD 63 then [] else c.tags.filter fun e => e.1 ≠ (c.rx a).toNat % 1024 }) s

end Sys2Proof.Machine
end

