-- ==== Sys2Proof/Machine/Control.lean ====
section
/-! DEFINITION. Control flow and the loop sequencer (R91 to R105): transfers with two delay slots, the call stack, loop
levels, the end of a body, RETIRE's issue. -/
namespace Sys2Proof.Machine

/-! ### Fetching (R36, R91) -/

/-- The length of the bundle at an address, from its header. -/
def Core.lenAt (c : Core) (addr : Nat) : Nat := bundleLen (c.codeWord addr 0)
/-- The address of the bundle that follows the second delay slot of the bundle being performed (R91). -/
def Core.pastSlots (c : Core) : Nat :=
  let d1 := c.iss.addr + c.iss.len
  let d2 := d1 + c.lenAt d1
  d2 + c.lenAt d2
/-- The target of a displacement from the bundle being performed (R91), as a signed byte offset. -/
def Core.target (c : Core) (disp : BitVec 32) : Int := (c.iss.addr : Int) + dispBytes disp
/-- Whether a byte offset lies in the code object (R91). -/
def Core.inCode (c : Core) (t : Int) : Bool := decide (0 ≤ t) && decide (t < (c.codeLen : Int))

/-! ### Loop levels (R98): innermost first in the list -/

/-- The call depth (R97). -/
def Core.callDepth (c : Core) : Nat := c.calls.length
/-- The innermost level at the current depth (R98). -/
def Core.innermost (c : Core) : Option Level := c.loops.find? fun l => l.cd = c.callDepth
/-- The level of a number from 1, the outermost (R98). -/
def Core.level (c : Core) (k : Nat) : Option Level := c.loops.reverse[k - 1]?
/-- Whether FIRST and LAST withhold the bundle: none when the level named is not active (R40). -/
def Core.withheld (c : Core) : LevelTest → Option Bool
  | .none => some false
  | .first l => (c.level (l.val + 1)).map fun v => v.lc ≠ 0
  | .last l => (c.level (l.val + 1)).map fun v => v.lc + 1 ≠ v.n
  | .both l => (c.level (l.val + 1)).map fun v => v.lc ≠ 0 || v.lc + 1 ≠ v.n

/-- A step entry k of a step word (R99): register, stride and rewind when its EN is 1. -/
def stepEntry (sw : Word) (k : Nat) : Option (Fin 16 × Word × Bool) :=
  let e := sw.toNat / 2 ^ (32 * k)
  if e % 2 = 1 then some (Fin.ofNat 16 (e / 4), (BitVec.ofNat 26 (e / 64)).signExtend 64, e / 2 % 2 = 1) else none
def stepEntries (sw : Word) : List (Fin 16 × Word × Bool) := [0, 1].filterMap (stepEntry sw)
/-- a[r] changed by an amount (R99). -/
def Core.bumpA (c : Core) (r : Fin 16) (v : Word) : Core := { c with a := setAt c.a r (c.ra r + v) }
/-- The steps of a loop-back (R101). -/
def Core.stepBack (c : Core) (sw : Word) : Core := (stepEntries sw).foldl (fun c e => c.bumpA e.1 e.2.1) c
/-- The steps of an exit at the end bundle (R101). -/
def Core.stepExit (c : Core) (l : Level) : Core :=
  (stepEntries l.sw).foldl (fun c e =>
    c.bumpA e.1 (if e.2.2 then -(e.2.1 * BitVec.ofNat 64 l.lc) else e.2.1)) c
/-- The steps of a level left by control flow (R102). -/
def Core.stepLeave (c : Core) (l : Level) : Core :=
  (stepEntries l.sw).foldl (fun c e => if e.2.2 then c.bumpA e.1 (-(e.2.1 * BitVec.ofNat 64 l.lc)) else c) c

/-- LOOP_BODY_END (R101): the sequencer at the end of the issue cycle of the bundle at `addr`, whose successor is at
`past`. Each round loops back or pops a level, so at most as many rounds as levels. -/
def sequence (addr past : Nat) : Nat → Core → Core
  | 0, c => c
  | n + 1, c =>
    match c.innermost with
    | none => c
    | some l =>
      if l.e ≠ addr then c
      else if l.lc + 1 < l.n then
        { (c.stepBack l.sw) with
          loops := updFirst (fun v => v.cd = c.callDepth) (fun v => { v with lc := v.lc + 1 }) c.loops, nextPc := l.b }
      else
        let c := { (c.stepExit l) with loops := c.loops.erase l, nextPc := past }
        sequence addr past n c

/-- Pop levels at depth `cd`, innermost first: at least `k`, and further ones until a body contains the target (R102). -/
def leaveLevels (cd target : Nat) : Nat → Nat → Core → Core
  | 0, _, c => c
  | n + 1, k, c =>
    match c.loops.find? fun l => l.cd = cd with
    | none => c
    | some l =>
      if k = 0 ∧ l.b ≤ target ∧ target ≤ l.e then c
      else leaveLevels cd target n (k - 1) { (c.stepLeave l) with loops := c.loops.erase l }

/-- Pop every level opened at depth `cd` (R102, RET). -/
def leaveAll (cd : Nat) : Nat → Core → Core
  | 0, c => c
  | n + 1, c =>
    match c.loops.find? fun l => l.cd = cd with
    | none => c
    | some l => leaveAll cd n { (c.stepLeave l) with loops := c.loops.erase l }

/-- What a transfer does to the stacks at the end of its second delay slot (R97, R102). -/
def Core.applyAct (c : Core) (target : Nat) : StackAct → Core
  | .none => c
  | .push e => { c with calls := e :: c.calls }
  | .pop => { (leaveAll c.callDepth 6 c) with calls := c.calls.tail }
  | .leave k => leaveLevels c.callDepth target 6 k c

/-! ### Transfers -/

/-- R102's check: the end of the innermost body lies within the bundle of the transfer or its delay slots. -/
def Core.endNear (c : Core) : Bool :=
  match c.innermost with
  | none => false
  | some l => c.iss.addr ≤ l.e && l.e < c.pastSlots

/-- A transfer's pending redirection: its own bundle and two delay slots, then the target if
taken, with the fetch cost (R91, R92). -/
def Core.redirectTo (c : Core) (target : Option Nat) (act : StackAct) (cost : Nat) : Core :=
  { c with redirect := some ⟨3, target, act, cost⟩ }

/-- A transfer syllable (R91): LOOP_NEST of R102 whatever the guard; with a false guard its delay slots still issue, at
the fetch cost `idle`; with a true guard its body decides. -/
def performTransfer (srcs : List Reg) (idle : Nat) (body : Core → Core) (c : Core) : Core :=
  if c.endNear then c.trap .loopNest
  else if c.short [.p c.iss.gp.val] then c.trap .stallShort
  else if c.iss.guard = false then c.done.redirectTo none .none idle
  else if c.short srcs then c.trap .stallShort
  else body c.done
def transfer (srcs : List Reg) (idle : Nat) (body : Core → Core) (s : State) : Out :=
  .next { s with core := performTransfer srcs idle body s.core }

/-- A taken transfer to a byte offset, or OBJ_BOUNDS outside the code object (R91). -/
def Core.takenTo (c : Core) (t : Int) (act : StackAct) (cost : Nat) : Core :=
  if c.inCode t then c.redirectTo (some t.toNat) act cost else c.trap .objBounds

/-- The condition source of BR (R63). A flag that the engine sets at the end of this cycle is observed either way
(R94). -/
def Core.brSource (c : Core) (free : Bool) : BrSrc → Bool
  | .pred p => c.rp p
  | .mdone => c.eng.done || (c.eng.fresh.isSome && free)
  | .mfault => c.eng.fault || ((match c.eng.fresh with | some k => k ≠ 0 | none => false) && free)

/-- BR (R92, R95): a wrong hint costs 3 cycles. -/
def execBr (src : BrSrc) (disp : BitVec 32) (hint : Bool) (s : State) : Out :=
  let srcs : List Reg := match src with | .pred p => [.p p.val] | _ => []
  let free := s.choose
  transfer srcs (if hint then 3 else 0) (fun c =>
    if c.brSource free src then c.takenTo (c.target disp) (.leave 0) (if hint then 0 else 3)
    else c.redirectTo none .none (if hint then 3 else 0)) s.tick
/-- JMP (R96). -/
def execJmp (disp : BitVec 32) (s : State) : Out := transfer [] 0 (fun c => c.takenTo (c.target disp) (.leave 0) 0) s
/-- JMPX (R92, R96): always counted as wrongly predicted. -/
def execJmpx (a : Fin 64) (s : State) : Out :=
  transfer [.x a.val] 3 (fun c => c.takenTo (8 * (c.rx a).toNat) (.leave 0) 3) s
/-- CALL (R97). -/
def execCall (disp : BitVec 32) (s : State) : Out :=
  transfer [] 0 (fun c =>
    if Config.callDepth ≤ c.calls.length then c.trap .callDepth
    else c.takenTo (c.target disp) (.push ⟨c.pastSlots, c.loops.length⟩) 0) s
/-- RET (R97). -/
def execRet (s : State) : Out :=
  transfer [] 0 (fun c =>
    match c.calls with
    | [] => c.trap .callDepth
    | e :: _ => c.takenTo e.addr .pop 0) s
/-- LBREAK (R103). -/
def execLbreak (n : Fin 7) (disp : BitVec 32) (s : State) : Out :=
  transfer [] 0 (fun c =>
    if (c.loops.filter fun l => l.cd = c.callDepth).length < n.val then c.trap .loopNest
    else c.takenTo (c.target disp) (.leave n.val) 0) s

/-! ### LOOP and LOOPX (R100) -/

/-- Open a level with a count and a step word, or pass over the body when the count is 0. -/
def Core.openLoop (c : Core) (count : Nat) (sw : Word) (disp : BitVec 32) : Core :=
  let e := (c.target disp).toNat
  if count = 0 then { c with redirect := some ⟨1, some (e + c.lenAt e), .none, 3⟩ }
  else if c.loops.length = Config.loopDepth then c.trap .loopNest
  else if (match c.innermost with | some l => decide (l.e < e) | none => false) then c.trap .loopNest
  else { c with loops := ⟨0, count, c.iss.addr + c.iss.len, e, sw, c.callDepth⟩ :: c.loops }

def execLoop (limm : BitVec 40) (disp : BitVec 32) (s : State) : Out :=
  syl [] (fun c => c.openLoop limm.toNat 0 disp) s
def execLoopx (a : Fin 64) (disp : BitVec 32) (s : State) : Out :=
  syl [.x a.val, .x (xPlus a 1).val] (fun c => c.openLoop (c.rx a).toNat (c.rx (xPlus a 1)) disp) s

/-! ### RETIRE's issue (R105) -/

/-- RETIRE: the core issues no further bundle and waits (R105). -/
def execRetire (s : State) : Out := syl [] (fun c => { c with run := .retiring, retireIss := true }) s

/-- NOP performs nothing, and nothing stops it at issue, whatever the guard (R57). -/
def execNop (s : State) : Out := .next { s with core := s.core.done }

/-- An empty bundle performs nothing; its issue is counted and its STALL applies like any other's (R36). -/
def execEmptyBundle (s : State) : Out := .next { s with core := s.core.done }

/-! ### The end of a cycle (R38, R73) -/

/-- The engine without work: its position is discarded; `clear` also clears FAULT with its code and sets DONE (R178, R194). -/
def Engine.idle (e : Engine) (clear : Bool) : Engine :=
  { e with active := none, pending := none, fresh := none, wait := 0, row := 0, sub := 0, lv0 := none, lv1 := none, koff := 0,
           roff := 0, load := none, arow := [], abad := false, done := e.done || clear, fault := e.fault && !clear,
           fcode := if clear then 0 else e.fcode }
/-- Claims at the front that are done are counted filled, in claim order. -/
def Furrow.settle (f : Furrow) : Furrow :=
  let n := (f.claims.takeWhile (·.done)).length
  { f with claims := f.claims.drop n, filled := f.filled + n }
/-- One deferred effect. -/
def Core.applyFx (c : Core) : EndEffect → Core
  | .bytes a bs => { c with scratch := memPut c.scratch a bs }
  | .mark l on => { c with marks := setMark c.marks l on }
  | .fill f n => { c with f := setAt c.f f { c.rf f with filled := (c.rf f).filled + n } }
  | .release f n => { c with f := setAt c.f f { c.rf f with free := (c.rf f).free + n } }
  | .sbchk on => { c with sbchk := on }
  | .taken _ _ => c
  | .settle f => { c with f := setAt c.f f (c.rf f).settle }
  | .hreg h r => { c with h := setAt c.h h r }
  | .named q v => c.renameQ q v
  | .mabort => { c with eng := c.eng.idle true }
  | .finit f =>
    let o := c.rf f
    { c with f := setAt c.f f { o with filled := 0, free := o.count, prod := if o.remote then 5 else 0, cons := 0, pbnd := false,
                                       pcore := 0, tail := 0, head := 0, vrd := 0, vwr := 0, claims := [], taken := [] } }

/-- The effects left to the end of the cycle, in order. -/
def Core.endEffects (c : Core) : Core := c.endFx.foldl Core.applyFx { c with endFx := [] }
/-- RESULT_WRITEBACK (R38): at the end of a cycle every result that is ready is written, the later-issued last, and the
effects its bundle left to the end of the cycle are applied in slot order (R73). -/
def Core.writeback (c : Core) : Core :=
  let ready := c.inflight.filter fun f => f.ready ≤ c.cyc
  let c := { c with inflight := c.inflight.filter (fun f => !(f.ready ≤ c.cyc)), loads := c.loads.filter fun l => !(l.ready ≤ c.cyc) }
  let c := ready.foldl (fun c f => c.commit f.wr) c
  c.endEffects

/-- Each pop at a remote furrow returns a slot to its producer's mirror (R223). -/
def State.returnSlots (s : State) (c : Core) (f : Fin 32) : Nat → State
  | 0 => s
  | n + 1 =>
    let g := c.rf f
    let dest := match c.task with | some t => t.inst * 8 + t.member | none => 0
    (if g.remote && g.pbnd then s.later 0 (.pushSlotReturn g.pcore dest f.val) else s).returnSlots c f n
/-- The slots a bundle popped, by furrow. -/
def Core.popped (c : Core) : List (Fin 32 × Nat) :=
  c.endFx.filterMap fun e => match e with | .release f n => some (f, n) | _ => none

/-- The effects left to the end of a cycle in which no result is written, with the slots returned to their producers. -/
def State.endEffects (s : State) : State :=
  s.core.popped.foldl (fun t p => t.returnSlots s.core p.1 p.2) { s with core := s.core.endEffects }
def execResultWriteback (s : State) : Out :=
  .next (s.core.popped.foldl (fun t p => t.returnSlots s.core p.1 p.2) { s with core := s.core.writeback })

end Sys2Proof.Machine
end

