-- ==== Sys2Proof/Machine/Lookup.lean ====
section
/-! DEFINITION. Fields of the object table entry (R200) and of the plot descriptor (R272), the lookup of objects, plots
and tasks, rights (R200, R216), and the placement of elements (R202). -/
namespace Sys2Proof.Machine

/-! ### Fields of wide words -/

/-- A field of a bit vector. -/
def field {n : Nat} (v : BitVec n) (lo len : Nat) : Nat := v.toNat / 2 ^ lo % 2 ^ len
/-- A bit vector with one field replaced, modulo the field's width. -/
def setField {n : Nat} (v : BitVec n) (lo len x : Nat) : BitVec n :=
  BitVec.ofNat n (v.toNat - field v lo len * 2 ^ lo + x % 2 ^ len * 2 ^ lo)

/-! ### Handles (R27, R199) -/

def handleHome (h : Word) : Nat := h.toNat / 2 ^ 47
def handleIndex (h : Word) : Nat := h.toNat / 2 ^ 14 % 2 ^ 33
def handleGen (h : Word) : Nat := h.toNat % 2 ^ 14
def mkHandle (home index gen : Nat) : Word := BitVec.ofNat 64 (home * 2 ^ 47 + index % 2 ^ 33 * 2 ^ 14 + gen % 2 ^ 14)

/-! ### The object table entry (R200) -/

def Obj.gen (o : Obj) : Nat := field o.entry 0 14
def Obj.valid (o : Obj) : Bool := field o.entry 14 1 = 1
def Obj.rank (o : Obj) : Nat := field o.entry 15 3
def Obj.fmt (o : Obj) : Fmt := BitVec.ofNat 5 (field o.entry 18 5)
def Obj.scale (o : Obj) : Nat := field o.entry 23 8
def Obj.tiled (o : Obj) : Bool := field o.entry 31 1 = 1
def Obj.live (o : Obj) : Bool := field o.entry 32 1 = 1
def Obj.comp (o : Obj) : Bool := field o.entry 33 1 = 1
def Obj.hostsh (o : Obj) : Bool := field o.entry 34 1 = 1
def Obj.dim (o : Obj) (k : Nat) : Nat := field o.entry (64 + 32 * k) 32
def Obj.shdim (o : Obj) : Nat := field o.entry 256 3
def Obj.shblk (o : Obj) : Nat := field o.entry 260 32
def Obj.shn (o : Obj) : Nat := field o.entry 292 8
def Obj.peers (o : Obj) : Nat := field o.entry 320 128
def Obj.ownr (o : Obj) : Nat := field o.entry 640 7
def Obj.tenr (o : Obj) : Nat := field o.entry 647 7
def Obj.ownp (o : Obj) : Nat := field o.entry 654 32
def Obj.rmap (o : Obj) : Word := BitVec.ofNat 64 (field o.entry 576 64)
def Obj.rlist (o : Obj) : Nat := field o.entry 704 64
def Obj.curv (o : Obj) : Nat := field o.entry 768 32
def Obj.pwrt (o : Obj) : Nat := field o.entry 800 32
def Obj.pinc (o : Obj) : Nat := field o.entry 832 32
def Obj.fmap (o : Obj) : Word := BitVec.ofNat 64 (field o.entry 896 64)
def Obj.gmap (o : Obj) : Word := BitVec.ofNat 64 (field o.entry 960 64)
def Obj.setE (o : Obj) (lo len x : Nat) : Obj := { o with entry := setField o.entry lo len x }
def Obj.setCurv (o : Obj) (v : Nat) : Obj := o.setE 768 32 v
def Obj.setPwrt (o : Obj) (v : Nat) : Obj := o.setE 800 32 v
def Obj.kind (o : Obj) : FmtKind := fmtKind o.fmt
/-- The dimensions, outermost first. -/
def Obj.dims (o : Obj) : List Nat := (List.range o.rank).map o.dim
/-- The number of elements. -/
def Obj.count (o : Obj) : Nat := o.dims.foldl (· * ·) 1

/-- Whether the handle unit rejects an entry (R8, R200). -/
def Obj.rejected (o : Obj) : Bool :=
  field o.entry 686 18 ≠ 0 || field o.entry 300 20 ≠ 0 || field o.entry 259 1 ≠ 0 || field o.entry 35 29 ≠ 0 ||
  o.rank = 0 || o.rank = 7 || fmtKind o.fmt = .reserved || o.fmt = fmtPoison || (o.tiled && o.rank = 1) ||
  128 < o.shn || o.rank ≤ o.shdim

/-- The object a home package and table index name. -/
def State.objAt (s : State) (home index : Nat) : Option Obj := s.objs.find? fun o => o.home = home && o.index = index
/-- The object a handle names, unless the handle is stale (R199). -/
def State.objOf (s : State) (h : Word) : Option Obj :=
  if handleIndex h = 0 then none
  else match s.objAt (handleHome h) (handleIndex h) with
    | some o => if o.valid && o.gen = handleGen h && !o.rejected then some o else none
    | none => none
/-- The object an open h-register names: a handle that went stale since its open still works there (R219). -/
def State.objReg (s : State) (r : HReg) : Option Obj := s.objAt (handleHome r.handle) (handleIndex r.handle)
/-- One object changed. -/
def State.modObj (s : State) (home index : Nat) (f : Obj → Obj) : State :=
  { s with objs := updFirst (fun o => o.home = home && o.index = index) f s.objs }

/-! ### The plot descriptor (R272) -/

def Plot.kind (p : Plot) : Nat := field p.desc 0 4
def Plot.level (p : Plot) : Nat := field p.desc 4 3
def Plot.prio (p : Plot) : Nat := field p.desc 8 4
def Plot.plim (p : Plot) : Nat := field p.desc 12 4
def Plot.weight (p : Plot) : Nat := field p.desc 16 16
def Plot.inherit (p : Plot) : Nat := field p.desc 32 16
def Plot.domain (p : Plot) : Bool := field p.desc 48 1 = 1
def Plot.preempt (p : Plot) : Bool := field p.desc 49 1 = 1
def Plot.state (p : Plot) : Nat := field p.desc 50 4
def Plot.parent (p : Plot) : Nat := field p.desc 96 32
def Plot.stallth (p : Plot) : Nat := field p.desc 128 48
def Plot.btmo (p : Plot) : Nat := if field p.desc 192 48 = 0 then 2 ^ 32 else field p.desc 192 48
def Plot.cores (p : Plot) : Nat := field p.desc 256 16
def Plot.scrkib (p : Plot) : Nat := field p.desc 272 9
def Plot.lpool (p : Plot) : Nat := field p.desc 288 13
def Plot.hbmb (p : Plot) : Nat := field p.desc 320 48
def Plot.hbmuse (p : Plot) : Nat := field p.desc 384 48
def Plot.minhbm (p : Plot) : Nat := field p.desc 448 48
def Plot.rcores (p : Plot) : Nat := field p.desc 512 16
def Plot.lpuse (p : Plot) : Nat := field p.desc 528 13
def Plot.code (p : Plot) : Word := BitVec.ofNat 64 (field p.desc 576 64)
def Plot.param (p : Plot) : Word := BitVec.ofNat 64 (field p.desc 640 64)
def Plot.save (p : Plot) : Word := BitVec.ofNat 64 (field p.desc 704 64)
def Plot.rlist (p : Plot) : Word := BitVec.ofNat 64 (field p.desc 768 64)
def Plot.ballot (p : Plot) : Word := BitVec.ofNat 64 (field p.desc 832 64)
def Plot.entry (p : Plot) : Nat := field p.desc 896 32
def Plot.tasks (p : Plot) : Nat := field p.desc 928 32
def Plot.gang (p : Plot) : Nat := field p.desc 960 2
def Plot.sgran (p : Plot) : Nat := field p.desc 962 5
def Plot.sibix (p : Plot) : Nat := field p.desc 967 6
def Plot.seed (p : Plot) : Nat := field p.desc 976 32
def Plot.nextix (p : Plot) : Nat := field p.desc 1024 32
def Plot.donen (p : Plot) : Nat := field p.desc 1056 32
def Plot.sibs (p : Plot) : Nat := field p.desc 1088 7
def Plot.quorum (p : Plot) : Nat := field p.desc 1095 7
def Plot.readyts (p : Plot) : Nat := field p.desc 1152 64
def Plot.deficit (p : Plot) : Nat := field p.desc 1216 32
def Plot.set (p : Plot) (lo len x : Nat) : Plot := { p with desc := setField p.desc lo len x }
/-- A field raised, modulo its width. -/
def Plot.add (p : Plot) (lo len x : Nat) : Plot := p.set lo len (field p.desc lo len + x)
/-- A field lowered, modulo its width. -/
def Plot.sub (p : Plot) (lo len x : Nat) : Plot := p.set lo len (field p.desc lo len + 2 ^ len - x % 2 ^ len)

/-- The kinds and states of R12 and R275. -/
def kindRoot : Nat := 0
def kindGroup : Nat := 1
def kindSib : Nat := 2
def kindTaskset : Nat := 3
def stActive : Nat := 0
def stSettled : Nat := 1
def stDone : Nat := 2
def stTerminated : Nat := 3
def stCancelled : Nat := 4

/-- Rows and columns of a gang shape (R14). -/
def gangRows (g : Nat) : Nat := if g = 2 ∨ g = 3 then 2 else 1
def gangCols (g : Nat) : Nat := if g = 0 then 1 else if g = 3 then 4 else 2
def gangSize (g : Nat) : Nat := gangRows g * gangCols g

def State.plotAt (s : State) (id : Nat) : Option Plot := s.plots.find? fun p => p.id = id
def State.modPlot (s : State) (id : Nat) (f : Plot → Plot) : State :=
  { s with plots := updFirst (fun p => p.id = id) f s.plots }
/-- A plot and its ancestors, itself first; a tree has at most 8 levels (R12). -/
def ancestorsFuel (s : State) : Nat → Nat → List Plot
  | 0, _ => []
  | n + 1, id =>
    match s.plotAt id with
    | none => []
    | some p => p :: (if p.kind = kindRoot then [] else ancestorsFuel s n p.parent)
def State.ancestors (s : State) (id : Nat) : List Plot := ancestorsFuel s 8 id
/-- The ROOT of a plot. -/
def State.rootOf (s : State) (id : Nat) : Nat := match (s.ancestors id).getLast? with | some p => p.id | none => 0
/-- Every plot of the chain from a plot to its ROOT changed. -/
def State.modChain (s : State) (id : Nat) (f : Plot → Plot) : State :=
  let ids := (s.ancestors id).map (·.id)
  { s with plots := s.plots.map fun p => if ids.contains p.id then f p else p }
/-- The plots of a subtree. -/
def State.subtree (s : State) (id : Nat) : List Plot := s.plots.filter fun p => (s.ancestors p.id).any (·.id = id)
def State.children (s : State) (id : Nat) : List Plot := s.plots.filter fun p => p.kind ≠ kindRoot && p.parent = id

/-! ### Tasks -/

/-- The event source number of a core (R326). -/
def State.source (s : State) (core : Nat) : Nat := s.pkg * 2 ^ 15 + dieOf core * 2 ^ 12 + core


/-- The core that runs a party's task member, if one does. -/
def State.coreOf (s : State) (p : Party) : Option Core :=
  s.cores.find? fun c => match c.task with | some t => t.inst = p.inst && t.member = p.mem | none => false
/-- Whether a core's task belongs to a plot. -/
def Core.runs (c : Core) (plot : Nat) : Bool := match c.task with | some t => t.plot = plot | none => false
/-- The task member of a party, on its core or saved, changed. -/
def State.modParty (s : State) (p : Party) (f : Core → Core) : State :=
  let hit (c : Core) : Bool := match c.task with | some t => t.inst = p.inst && t.member = p.mem | none => false
  let s := s.mapCores fun c => if hit c then f c else c
  { s with saved := s.saved.map fun v => if hit v.core then { v with core := f v.core } else v }
/-- The task's TASKSET. -/
def State.plotOf (s : State) (c : Core) : Option Plot := match c.task with | some t => s.plotAt t.plot | none => none
/-- The barrier timeout of a party's plot (R269, R272). -/
def State.timeout (s : State) (p : Party) : Nat := match s.plotAt p.plot with | some q => q.btmo | none => 2 ^ 32

/-- Every member of a party's task, on its core or saved, changed (R13). -/
def State.modTask (s : State) (p : Party) (f : Core → Core) : State :=
  let hit (c : Core) : Bool := match c.task with | some t => t.inst = p.inst | none => false
  let s := s.mapCores fun c => if hit c then f c else c
  { s with saved := s.saved.map fun v => if hit v.core then { v with core := f v.core } else v }
/-- Two parties are members of one task (R13). -/
def Party.sameTask (p q : Party) : Bool := p.pkg = q.pkg && p.inst = q.inst

/-! ### Rights (R200, R216) -/

def rRead : Nat := 0
def rWrite : Nat := 1
def rAtomic : Nat := 2
def rPublish : Nat := 3
def rFreeze : Nat := 4
def rGrant : Nat := 5
def rAdmin : Nat := 6

/-- The rights that an entry grants a plot's subtree: the owner subtree's, else those of the owner's tenant, with those
of the rights list (R200). The maps of the object manager grant none (R201). -/
def State.rightsOf (s : State) (o : Obj) (plot : Nat) : BitVec 7 :=
  let own := (s.ancestors plot).any fun p => p.id = o.ownp
  let tenant := s.rootOf plot = s.rootOf o.ownp && s.rootOf plot ≠ 0
  let base := if own then o.ownr else if tenant then o.tenr else 0
  BitVec.ofNat 7 base ||| (if o.rlist = 0 then 0 else BitVec.ofNat 7 (Config.listedRights o.rlist plot))
def HReg.has (r : HReg) (right : Nat) : Bool := r.rights.getLsbD right

/-! ### Placement of elements (R115, R202) -/

/-- Bits of an element in storage. -/
def elemBits (f : Fmt) : Nat := if f = fmtT6 then 6 else 8 * (fmtKind f).bytes
/-- The row-major number of coordinates. -/
def rowMajor : List Nat → List Nat → Nat
  | d :: ds, i :: is => i * ds.foldl (· * ·) 1 + rowMajor ds is
  | _, _ => 0
/-- The bytes of n consecutive elements: T6 in whole 3-byte groups of four (R115). -/
def packedBytes (f : Fmt) (n : Nat) : Nat := if f = fmtT6 then (n + 3) / 4 * 3 else n * (fmtKind f).bytes
/-- The elements of the stream in which an object's elements are packed: the whole object in LINEAR, a row in TILED (R202). -/
def Obj.streamLen (o : Obj) : Nat := if o.tiled then o.dim (o.rank - 1) else o.count
/-- The 256-byte columns of tiles that a row of a TILED object spans (R202). -/
def Obj.tileCols (o : Obj) : Nat := (packedBytes o.fmt o.streamLen + 255) / 256
/-- The byte number of byte b of an element's stream: the whole object in LINEAR, its row in TILED (R202). -/
def Obj.byteNum (o : Obj) (at_ : List Nat) (b : Nat) : Nat :=
  if o.tiled then
    let r := o.rank
    let outer := rowMajor (o.dims.take (r - 2)) (at_.take (r - 2))
    let ct := o.tileCols
    let rt := (o.dim (r - 2) + 31) / 32
    let i := at_.getD (r - 2) 0
    let t := (outer * rt + i / 32) * ct + b / 256
    t * 8192 + i % 32 * 256 + b % 256
  else b
/-- The first bit of an element in its stream. -/
def Obj.streamBit (o : Obj) (at_ : List Nat) : Nat :=
  (if o.tiled then at_.getD (o.rank - 1) 0 else rowMajor o.dims at_) * elemBits o.fmt
/-- The byte numbers that hold an element. -/
def Obj.elemBytes (o : Obj) (at_ : List Nat) : List Nat :=
  let b := o.streamBit at_
  (List.range ((b + elemBits o.fmt - 1) / 8 - b / 8 + 1)).map fun k => o.byteNum at_ (b / 8 + k)
/-- The bytes of storage an object spans. -/
def Obj.size (o : Obj) : Nat :=
  if o.tiled then
    let r := o.rank
    let outer := (o.dims.take (r - 2)).foldl (· * ·) 1
    outer * ((o.dim (r - 2) + 31) / 32) * o.tileCols * 8192
  else packedBytes o.fmt o.count
/-- The object pages of an object (R29). -/
def Obj.pageCount (o : Obj) : Nat := (o.size + 65535) / 65536

/-- The version record with a number: 0 for LIVE. -/
def Obj.verAt (o : Obj) (v : Nat) : Option Ver := o.vers.find? fun x => x.num = v
def Obj.modVer (o : Obj) (v : Nat) (f : Ver → Ver) : Obj := { o with vers := updFirst (fun x => x.num = v) f o.vers }
/-- The version an h-register reads or writes (R221). -/
def Obj.verOf (o : Obj) (r : HReg) : Nat := if o.live then 0 else r.ver.toNat
/-- The stored page that version v has at page number n: its own, or the one it shares (R230). -/
def Obj.pageAt (o : Obj) (v n : Nat) : Option Page :=
  (o.pages.filter fun p => p.num = n && decide (p.ver ≤ v)).foldl
    (fun b p => match b with | none => some p | some q => if q.ver < p.ver then some p else b) none
/-- One stored page changed. -/
def Obj.modPage (o : Obj) (ver n : Nat) (f : Page → Page) : Obj :=
  { o with pages := updFirst (fun p => p.ver = ver && p.num = n) f o.pages }
/-- Whether the line that holds a byte of a version is poisoned (R204, R205). -/
def Obj.poisoned (o : Obj) (v byte : Nat) : Bool :=
  match o.pageAt v (byte / 65536) with
  | some p => p.res = .poison && p.lost.contains (byte / 128)
  | none => false
/-- A byte of a version: 0 from a poisoned line (R205). -/
def Obj.byteOf (o : Obj) (v byte : Nat) : Byte :=
  if o.poisoned v byte then 0 else match o.verAt v with | some x => memGet x.data byte | none => 0
/-- An element's code in a version. -/
def Obj.readElem (o : Obj) (v : Nat) (at_ : List Nat) : Nat :=
  ofBytes ((o.elemBytes at_).map (o.byteOf v)) / 2 ^ (o.streamBit at_ % 8) % 2 ^ elemBits o.fmt
/-- The package that stores the block of an element (R203, R253): the home, or, for a sharded object, the rack position that
is the (b mod SHN)-th set bit of PEERS, for the element's block b along the sharded dimension. -/
def Obj.holder (o : Obj) (at_ : List Nat) : Nat :=
  if o.shn = 0 then o.home
  else
    let places := (List.range 128).filter fun k => o.peers / 2 ^ k % 2 = 1
    match places[at_.getD o.shdim 0 / o.shblk % o.shn]? with
    | some k => o.home / 128 * 128 + k
    | none => o.home
/-- Whether any byte of an element lies in a poisoned line. -/
def Obj.elemPoisoned (o : Obj) (v : Nat) (at_ : List Nat) : Bool := (o.elemBytes at_).any (o.poisoned v)
/-- A version with bytes written at given byte numbers. -/
def Obj.putBytes (o : Obj) (v : Nat) (bs : List (Nat × Byte)) : Obj :=
  o.modVer v fun x => { x with data := bs.foldl (fun m b => memSet m b.1 b.2) x.data }
/-- A byte that a version stores, whatever its line's poison. -/
def Obj.stored (o : Obj) (v byte : Nat) : Byte := match o.verAt v with | some x => memGet x.data byte | none => 0
/-- The bytes that a write of an element leaves beyond the last element of its stream: in the last T6 group of the stream, the
high fields that no element uses are 0 (R115). -/
def Obj.spare (o : Obj) (v : Nat) (at_ : List Nat) : List (Nat × Byte) :=
  let n := o.streamLen
  if o.fmt ≠ fmtT6 || n % 4 = 0 || o.streamBit at_ / 24 ≠ n / 4 then []
  else
    let first := 6 * n / 8
    (List.range (packedBytes o.fmt n - first)).map fun k =>
      let b := o.byteNum at_ (first + k)
      (b, if k = 0 then BitVec.ofNat 8 ((o.stored v b).toNat % 2 ^ (6 * n % 8)) else 0)
/-- An element's code written in a version: the other elements' fields of its bytes stay. -/
def Obj.writeElem (o : Obj) (v : Nat) (at_ : List Nat) (code : Nat) : Obj :=
  let ns := o.elemBytes at_
  let sh := o.streamBit at_ % 8
  let w := elemBits o.fmt
  let old := ofBytes (ns.map (o.stored v))
  let new := old - old / 2 ^ sh % 2 ^ w * 2 ^ sh + code % 2 ^ w * 2 ^ sh
  let o := o.putBytes v (ns.zip (toBytes ns.length new))
  o.putBytes v (o.spare v at_)
/-- The coordinates of element n (R202). -/
def coordsOf : List Nat → Nat → List Nat
  | [], _ => []
  | _ :: ds, n => let p := ds.foldl (· * ·) 1; n / p :: coordsOf ds (n % p)

/-- The tier a page lies in, poisoned or not. -/
def Page.tier (p : Page) : Residency := if p.res = .poison then (if p.low then .lpddr else .hbm) else p.res

/-! ### Line encodings (R321 to R323) -/

/-- The words of b bytes of a line. -/
def lineWords (b : Nat) (line : List Byte) : List Nat := (List.range (128 / b)).map fun k => ofBytes ((line.drop (b * k)).take b)
/-- Whether a line is representable as a base of b bytes and deltas of d bytes. -/
def baseDelta (b d : Nat) (line : List Byte) : Bool :=
  let ws := lineWords b line
  let base := ws.getD 0 0
  ws.all fun w =>
    let delta := (w + 2 ^ (8 * b) - base) % 2 ^ (8 * b)
    decide (delta < 2 ^ (8 * d - 1)) || decide (2 ^ (8 * b) - 2 ^ (8 * d - 1) ≤ delta)
/-- The encodings in the order of R323: fewest sectors first, then the lowest tag. -/
def encodings : List (Nat × (List Byte → Bool)) :=
  [ (1, fun l => l.all (· = 0)), (2, fun l => (lineWords 4 l).all (· = (lineWords 4 l).getD 0 0)), (3, baseDelta 8 1),
    (4, baseDelta 8 2), (5, baseDelta 4 1), (6, baseDelta 4 2), (7, baseDelta 2 1) ]
/-- The tag of a line of an object with COMP = 1 (R322, R323); 0 when no encoding fits. -/
def lineTag (line : List Byte) : Nat := match encodings.find? fun e => e.2 line with | some e => e.1 | none => 0
/-- The sectors of a tag (R322); a reserved tag has no image. -/
def tagSectors (tag : Nat) : Nat :=
  match tag with
  | 0 => 4 | 2 => 1 | 3 => 1 | 4 => 2 | 5 => 2 | 6 => 3 | 7 => 3 | _ => 0
/-- The widths of base and deltas of a base-delta tag (R322). -/
def tagWidths (tag : Nat) : Option (Nat × Nat) :=
  match tag with
  | 3 => some (8, 1) | 4 => some (8, 2) | 5 => some (4, 1) | 6 => some (4, 2) | 7 => some (2, 1) | _ => none
/-- The compressed image of a line under a tag, in whole sectors (R322): the base, then the deltas, from byte 0; the rest 0. -/
def lineImage (tag : Nat) (line : List Byte) : List Byte :=
  let fill (bs : List Byte) : List Byte := bs ++ List.replicate (32 * tagSectors tag - bs.length) 0
  match tagWidths tag with
  | some (b, d) =>
    let ws := lineWords b line
    let base := ws.getD 0 0
    fill (toBytes b base ++ (ws.map fun w => toBytes d (w + 2 ^ (8 * b) - base)).flatten)
  | none => if tag = 0 then line else if tag = 2 then fill (line.take 4) else []
/-- The delta k of an image, sign-extended from d bytes, modulo 2^(8b). -/
def imageDelta (b d k : Nat) (image : List Byte) : Nat :=
  let n := ofBytes ((image.drop (b + d * k)).take d)
  if n < 2 ^ (8 * d - 1) then n else n + 2 ^ (8 * b) - 2 ^ (8 * d)
/-- The 128 bytes that an image expands to; none for a poisoned line: tag 0xF, a reserved tag (R322, R325). -/
def expandLine (tag : Nat) (image : List Byte) : Option (List Byte) :=
  match tagWidths tag with
  | some (b, d) =>
    let base := ofBytes (image.take b)
    some ((List.range (128 / b)).map fun k => toBytes b (base + imageDelta b d k image)).flatten
  | none =>
    match tag with
    | 0 => some image
    | 1 => some (List.replicate 128 0)
    | 2 => some ((List.range 32).map fun _ => image.take 4).flatten
    | _ => none
/-- The tag a line of an object carries: 0xF when poisoned, and 0 in an object with COMP = 0 (R321). -/
def Obj.tagOf (o : Obj) (v line : Nat) : Nat :=
  if o.poisoned v (128 * line) then 15
  else if !o.comp then 0
  else lineTag ((List.range 128).map fun k => o.byteOf v (128 * line + k))
/-- A line as it leaves for a unit that holds compressed lines, or expanded for one that does not (R325). -/
def Obj.sentLine (o : Obj) (v line : Nat) (compressed : Bool) : SentLine :=
  let bytes := (List.range 128).map fun k => o.byteOf v (128 * line + k)
  let tag := o.tagOf v line
  if tag = 15 then ⟨line, 15, []⟩ else if compressed then ⟨line, tag, lineImage tag bytes⟩ else ⟨line, 0, bytes⟩

/-! ### Frozen pages and casts (R237, R238) -/

/-- A page of a version is FROZEN: a frozen page of a VERSIONED object is the page of CURV, which later versions share (R237). -/
def Obj.frozenAt (o : Obj) (v n : Nat) : Bool :=
  (o.frz.any fun z => z.page = n && decide (0 < z.count)) &&
    (o.live || match o.pageAt v n, o.pageAt o.curv n with | some p, some q => p.ver = q.ver | _, _ => false)
/-- A page of a version that moves. -/
def Obj.movingAt (o : Obj) (v n : Nat) : Bool := match o.pageAt v n with | some p => p.moving | none => false
/-- The pages of a read that may form casts: FROZEN ones that do not move (R238, R318). -/
def Obj.castable (o : Obj) (v : Nat) (ns : List Nat) : List Nat := ns.filter fun n => o.frozenAt v n && !o.movingAt v n
/-- A presence vector with a place's bit set. -/
def Frz.castAt (z : Frz) (at_ : CastPlace) : Frz := if z.presence.contains at_ then z else { z with presence := z.presence ++ [at_] }
/-- The casts that a read of frozen pages may form at a place: the home sets its bits before the data leaves (R237). -/
def State.formCasts (s : State) (o : Obj) (v : Nat) (ns : List Nat) (at_ : CastPlace) : State :=
  let ns := o.castable v ns
  let s := s.modObj o.home o.index fun o =>
    { o with frz := o.frz.map fun z => if ns.contains z.page then z.castAt at_ else z }
  let refs := ns.map fun n => (⟨o.home, o.index, v, n⟩ : PageRef)
  if at_ = .here then { s with localCasts := s.localCasts ++ refs.filter fun p => !s.localCasts.contains p } else s

/-! ### The memory-side cache (R319) -/

/-- The set of a line in its slice: 65,536 sets of 16 ways (DESIGN CHOICE, assumption log 83: the spec gives no placement). -/
def mlcSet (index line : Nat) : Nat := (index + line) % 65536
/-- The ways of a die's slice that are not fenced (R343). -/
def State.mlcWays (s : State) (die : Nat) : Nat := 16 - countOf die s.ways
/-- A place for a line in its slice: a set of `ways` ways that is full gives up its least recently used line. -/
def mlcRoom (ways die index line : Nat) (ms : List MlcLine) : List MlcLine :=
  let mine (m : MlcLine) : Bool := m.die = die && mlcSet m.index m.line = mlcSet index line
  if (ms.filter mine).length < ways then ms
  else match (ms.filter mine).foldl (fun b m => match b with
      | none => some m
      | some k => if m.used < k.used then some m else some k) none with
    | some old => ms.erase old
    | none => ms
/-- The slices that may hold a line of a page for an access from a die (none: from no die of this package), and whether it is a cast
there: the slice of the die whose HBM holds the page, through which every access to it passes; and the requester's slice, for casts of
FROZEN pages that do not move, and for lines of pinned versions. -/
def Obj.mlcPlaces (o : Obj) (from_ : Option Nat) (v : Nat) (p : Page) : List (Nat × Bool) :=
  let own := if p.tier = .hbm then [(p.die, false)] else []
  match from_ with
  | none => own
  | some d =>
    if own.any fun x => x.1 = d then own
    else if o.castable v [p.num] ≠ [] then own ++ [(d, true)]
    else if o.vers.any fun x => x.num = v && decide (0 < x.pins) then own ++ [(d, false)]
    else own
/-- The sectors held once a chunk has passed: all that the image of a compressed line has, as the line is expanded from it and encoded
into it (R321, R324); of an uncompressed line the chunk's own, or all four when the line was held compressed before. -/
def heldSectors (tag chunk : Nat) (old : Option MlcLine) : Nat :=
  if tag ≠ 0 then 2 ^ tagSectors tag - 1
  else match old with
    | none => 2 ^ (chunk % 4)
    | some m => if m.tag = 0 then Nat.lor m.sectors (2 ^ (chunk % 4)) else 15
/-- The recency that a use of a line gives: later than every other's. -/
def State.mlcRecent (s : State) : Nat := (s.mlc.map (·.used)).foldl max 0 + 1
/-- One chunk passes through a slice: its line is held under its tag and is the most recent; a line that is not held yet is allocated
only where `alloc` says so (R220). -/
def State.mlcPut (s : State) (alloc : Bool) (o : Obj) (v ver chunk : Nat) (at_ : Nat × Bool) : State :=
  let line := chunk / 4
  let tag := o.tagOf v line
  let hit (m : MlcLine) : Bool := m.die = at_.1 && m.home = o.home && m.index = o.index && m.ver = ver && m.line = line
  let sectors := heldSectors tag chunk (s.mlc.find? hit)
  if s.mlc.any hit then
    { s with mlc := updFirst hit (fun m => { m with tag := tag, sectors := sectors, used := s.mlcRecent, cast := m.cast || at_.2 }) s.mlc }
  else if !alloc || s.mlcWays at_.1 = 0 then s
  else { s with mlc := mlcRoom (s.mlcWays at_.1) at_.1 o.index line s.mlc ++
          [⟨at_.1, o.home, o.index, ver, line, tag, sectors, s.mlcRecent, at_.2⟩] }
/-- One chunk is transferred through the memory-side cache. -/
def State.mlcChunk (s : State) (alloc : Bool) (from_ : Option Nat) (o : Obj) (v chunk : Nat) : State :=
  match o.pageAt v (chunk / 2048) with
  | none => s
  | some p => (o.mlcPlaces from_ v p).foldl (fun s a => s.mlcPut alloc o v p.ver chunk a) s
/-- The chunks of some bytes, as they stand in the object now, pass through the memory-side cache. -/
def State.mlcTouch (s : State) (alloc : Bool) (from_ : Option Nat) (home index v : Nat) (bs : List Nat) : State :=
  match s.objAt home index with
  | some o => ((bs.map (· / 32)).eraseDups).foldl (fun s k => s.mlcChunk alloc from_ o v k) s
  | none => s
/-- The lines of a stored page that leaves its place are dropped. -/
def State.mlcDrop (s : State) (home index ver num : Nat) : State :=
  { s with mlc := s.mlc.filter fun m => !(m.home = home && m.index = index && m.ver = ver && m.line / 512 = num) }

end Sys2Proof.Machine
end

