-- ==== Sys2Proof/Machine/Furrows.lean ====
section
/-! DEFINITION. Furrows (R210 to R213): endpoints, waits and their liveness, claiming, filling and taking slots; the furrow
instructions of the Y slot (R270). -/
namespace Sys2Proof.Machine

/-! ### Endpoints (R211) -/

def endC : Nat := 1
def endV : Nat := 2
def endM : Nat := 3
def endY : Nat := 4
def endRemote : Nat := 5

/-- An endpoint may act as producer: the furrow is initialised and its producer is unbound or this one. -/
def Furrow.mayProduce (f : Furrow) (e : Nat) : Bool := f.init && (f.prod = 0 || f.prod = e)
def Furrow.mayConsume (f : Furrow) (e : Nat) : Bool := f.init && (f.cons = 0 || f.cons = e)
/-- One furrow changed. -/
def Core.modF (c : Core) (i : Fin 32) (g : Furrow → Furrow) : Core := { c with f := setAt c.f i (g (c.rf i)) }
/-- The scratch offset of a slot. -/
def Furrow.slotAt (f : Furrow) (k : Nat) : Nat := f.base + f.slotsz * k
/-- The slot n places on, in the circle. -/
def Furrow.after (f : Furrow) (k n : Nat) : Nat := if f.count = 0 then 0 else (k + n) % f.count

/-! ### Waits (R212) -/

/-- Whether core `pcore` runs a task of the same ROOT. -/
def State.sameRoot (s : State) (c : Core) (pcore : Nat) : Bool :=
  match c.task, s.coreAt pcore with
  | some t, some d => match d.task with | some u => s.rootOf t.plot = s.rootOf u.plot | none => false
  | _, _ => false
/-- The producing end is live; `issue` when the wait holds this core's issue (R212). -/
def State.prodLive (s : State) (c : Core) (f : Furrow) (issue : Bool) : Bool :=
  if f.prod = endC then f.claims ≠ []
  else if f.prod = endV || f.prod = endY then !issue
  else if f.prod = endRemote then !f.pbnd || s.sameRoot c f.pcore
  else false
/-- The consuming end is live (R212). -/
def State.consLive (_s : State) (c : Core) (f : Furrow) (issue : Bool) : Bool :=
  if f.cons = endC then f.taken.any fun k => !k.done
  else if f.cons = endV || f.cons = endY then !issue
  else if f.cons = endM then c.eng.active.isSome || c.eng.pending.isSome
  else false

/-- A furrow wait that holds issue: its check falls in its first cycle and then every 1,024 cycles (R212). -/
def Core.furrowHold (c : Core) (live : Bool) : Core :=
  let w0 := match c.fwait with | some w => w | none => c.waits
  let c := { c with fwait := some w0 }
  if (c.waits - w0) % 1024 = 0 && !live then { c with out := .orphaned } else c.hold

/-! ### Slots (R213) -/

/-- The filled slots as they stood at the start of the cycle: those popped or taken in it count. -/
def Core.filledStart (c : Core) (i : Fin 32) : Nat :=
  (c.rf i).filled + (c.endFx.map fun e => match e with
    | .release f n => if f = i then n else 0
    | .taken f n => if f = i then n else 0
    | _ => 0).sum
/-- Pop slots at HEAD: FILLED falls, FREE rises at the end of the cycle. -/
def Core.popSlots (c : Core) (i : Fin 32) (n : Nat) : Core :=
  (c.modF i fun f => { f with filled := f.filled - n, head := f.after f.head n }).fx (.release i n)
/-- Claim slots at TAIL: FREE falls. -/
def Core.claimSlots (c : Core) (i : Fin 32) (n : Nat) : Core :=
  c.modF i fun f => { f with free := f.free - n, tail := f.after f.tail n }
/-- A producing request claims the slot at TAIL. -/
def Core.claimFor (c : Core) (i : Fin 32) (req : Nat) : Core :=
  (c.modF i fun f => { f with claims := f.claims ++ [⟨req, f.tail, false⟩] }).claimSlots i 1
/-- A consuming request takes the slot at HEAD. -/
def Core.takeFor (c : Core) (i : Fin 32) (req : Nat) : Core :=
  (c.modF i fun f => { f with filled := f.filled - 1, head := f.after f.head 1, taken := f.taken ++ [⟨req, f.head, false⟩] }).fx
    (.taken i 1)
/-- The slot a request took is popped: FREE rises once every slot taken before it is popped too (R22). -/
def Furrow.popTaken (f : Furrow) (req : Nat) : Furrow :=
  let ks := f.taken.map fun k => if k.req = req then { k with done := true } else k
  let n := (ks.takeWhile (·.done)).length
  { f with taken := ks.drop n, free := f.free + n }
/-- A claimed slot is written; it is counted filled at the end of the cycle. -/
def Furrow.fillClaim (f : Furrow) (req : Nat) : Furrow :=
  { f with claims := f.claims.map fun k => if k.req = req then { k with done := true } else k }

/-- The word of a load with the bytes that a fill writes at `a` in place of the old ones. -/
def LoadRec.patch (l : LoadRec) (a : Nat) (data : List Byte) (w : Word) : Word :=
  let old := toBytes l.size w.toNat
  let new := (List.range l.size).map fun k =>
    if a ≤ l.addr + k ∧ l.addr + k < a + data.length then data.getD (l.addr + k - a) 0 else old.getD k 0
  loadValue l.signed l.size (ofBytes new)
/-- A list with its n-th element that satisfies a test updated. -/
def updNth {α : Type} (p : α → Bool) (f : α → α) : Nat → List α → List α
  | _, [] => []
  | n, x :: r => if p x then (if n = 0 then f x :: r else x :: updNth p f (n - 1) r) else x :: updNth p f n r
/-- A fill in a cycle that the bank frame does not count comes before the phase-3 cycle of every load that the scalar port still
holds, which returns its bytes (R72). -/
def Core.patchLoads (c : Core) (a : Nat) (data : List Byte) : Core :=
  if c.stage ≠ .halted then c
  else
    let held := c.loads.filter fun l => decide (c.cyc ≤ l.port)
    { c with inflight := held.foldl (fun fs l =>
        updNth (fun f => f.ready = l.ready && f.wr.reg = .x l.reg.val)
          (fun f => match f.wr with | .x r w => { f with wr := .x r (l.patch a data w) } | _ => f) l.nth fs) c.inflight }

/-- Scratch with a slot's bytes written from outside the bundle stream, and the marks of R205: set for a line with any
poisoned byte, cleared for a line wholly written clean. -/
def Core.fillBytes (c : Core) (a : Nat) (data : List Byte) (poison : List Bool) : Core :=
  let n := data.length
  let lines := if n = 0 then [] else (List.range ((a + n - 1) / 128 - a / 128 + 1)).map (a / 128 + ·)
  let marks := lines.foldl (fun m l =>
    let lo := max a (128 * l)
    let hi := min (a + n) (128 * l + 128)
    if (List.range (hi - lo)).any fun k => poison.getD (lo - a + k) false then setMark m l true
    else if hi - lo = 128 then setMark m l false else m) c.marks
  { c.patchLoads a data with scratch := memPut c.scratch a data, marks := marks }

/-! ### FINIT, FPUSH, FPOP, FWAIT (R270) -/

/-- Whether a request, engine work or a push uses a furrow of the current core. -/
def State.furrowUsed (s : State) (i : Fin 32) : Bool :=
  let c := s.core
  let f := c.rf i
  f.claims ≠ [] || f.taken ≠ [] ||
  (f.cons = endM && (c.eng.active.isSome || c.eng.pending.isSome)) ||
  s.reqs.any fun r => match r.op, r.phase with
    | .push d g _ _ _, .sent => d = c.id && g = i.val
    | .push d g _ _ _, .filling _ _ => d = c.id && g = i.val
    | _, _ => false

/-- FINIT: any furrow that a .furrow directive declared and no producer has bound remotely. -/
def execFinit (i : Fin 32) (s : State) : Out :=
  let used := s.furrowUsed i
  syl [] (fun c =>
    let f := c.rf i
    if !f.decl || !f.init || (f.remote && f.pbnd) then c.trap .furrowConfig
    else if used then c.hold
    else c.fx (.finit i)) s

/-- FPUSH: claims and fills n slots with what scratch holds; the lines keep their marks. -/
def execFpush (i : Fin 32) (a : Fin 64) (s : State) : Out :=
  let live := s.consLive s.core (s.core.rf i) true
  syl [.x a.val] (fun c =>
    let f := c.rf i
    let n := (c.rx a).toNat
    if !f.init || f.count < n then c.trap .furrowConfig
    else if n = 0 then c
    else if !f.mayProduce endY then c.trap .furrowConfig
    else if f.free < n then c.furrowHold live
    else ((c.modF i fun f => { f with prod := endY }).claimSlots i n).fx (.fill i n)) s

/-- FPOP: pops n slots at HEAD. -/
def execFpop (i : Fin 32) (a : Fin 64) (s : State) : Out :=
  let live := s.prodLive s.core (s.core.rf i) true
  syl [.x a.val] (fun c =>
    let f := c.rf i
    let n := (c.rx a).toNat
    if !f.init || f.count < n then c.trap .furrowConfig
    else if n = 0 then c
    else if !f.mayConsume endY then c.trap .furrowConfig
    else if f.filled < n then c.furrowHold live
    else (c.modF i fun f => { f with cons := endY }).popSlots i n) s

/-- FWAIT: waits for n filled slots and binds nothing. -/
def execFwait (i : Fin 32) (a : Fin 64) (s : State) : Out :=
  let live := s.prodLive s.core (s.core.rf i) true
  syl [.x a.val] (fun c =>
    let f := c.rf i
    let n := (c.rx a).toNat
    if !f.init || f.count < n then c.trap .furrowConfig
    else if c.filledStart i < n then c.furrowHold live
    else c) s

end Sys2Proof.Machine
end

