-- ==== Sys2Proof/Machine/Issue.lean ====
section
/-! DEFINITION. The issue of a bundle (R36 to R40, R48, R91 to R93, R101 to R104, R255, R300 to R303): fetch, decode-time
fates, skips, holds, landings, the performance of its syllables in slot order, and the end of its issue cycle. The
meaning of a syllable comes in as the parameter `ex`, which Step gives `exec`. -/
namespace Sys2Proof.Machine

/-! ### Fetch and decode-time fates -/

/-- The bundle at an address of the code object. -/
def Core.fetch (c : Core) (addr : Nat) : Except DecodeError Bundle :=
  decodeWords ((List.range (c.lenAt addr / 8)).map (c.codeWord addr))

/-- Whether the next bundle is a delay-slot bundle (R91). -/
def Core.inDelay (c : Core) : Bool := c.redirect.isSome

/-- The decode-time causes, in R48's order: ILLEGAL, then DELAY_BRANCH. -/
def Core.decodeFate (c : Core) (addr : Nat) : Except Cause Bundle :=
  match c.fetch addr with
  | .error _ => .error .illegal
  | .ok b => if c.inDelay && b.sylls.any (·.instr.isTransferOrLoop) then .error .delayBranch else .ok b

/-- R104: an issued bundle contains the end of the innermost body without starting at it. -/
def Core.straddles (c : Core) (addr len : Nat) : Bool :=
  match c.innermost with
  | some l => addr < l.e && l.e < addr + len
  | none => false

/-! ### Performing the syllables -/

/-- What the syllables of a bundle reported together. -/
structure Tally where
  held    : Bool
  orphan  : Option IssueCtx
  stopped : Bool
  trap    : Option (Cause × Word × IssueCtx)
deriving DecidableEq, Repr

def Tally.none : Tally := ⟨false, .none, false, .none⟩

/-- One more report (R300: the first syllable in slot order that has a cause). -/
def Tally.note (t : Tally) (o : IssueOut) (ctx : IssueCtx) : Tally :=
  match o with
  | .performed => t
  | .held => { t with held := true }
  | .orphaned => { t with held := true, orphan := some ctx }
  | .stopped => { t with stopped := true }
  | .trapped k w => if t.trap.isSome then t else { t with trap := some (k, w, ctx) }

/-- The context of a syllable (R43, R306). -/
def Core.ctx (c : Core) (addr len flying : Nat) (emul : List Slot) (y : Syllable) : IssueCtx :=
  ⟨addr, len, y.slot, y.guard.p, c.rp y.guard.p != y.guard.neg, emul.contains y.slot, flying⟩

/-- Whether a replay passes over a syllable: the replay buffer marks it performed, and no emulated result of it is in hand. -/
def passesOver (r : Option Replay) (y : Syllable) : Bool :=
  match r with | some r => r.perf &&& perfBit y.slot ≠ 0 && !r.emul.contains y.slot | none => false
/-- The syllables in slot order, but for those the replay buffer marks performed (R302, R303); the emulated one is
performed as the system cores compute it. -/
def performAll (ex : Instr → State → Out) (addr len flying : Nat) (r : Option Replay) :
    List Syllable → State → Tally → Host.Outcome (State × Tally) Fault Refusal
  | [], s, t => .next (s, t)
  | y :: ys, s, t =>
    let emul := match r with | some r => r.emul | none => []
    if passesOver r y then performAll ex addr len flying r ys s t
    else
      let ctx := s.core.ctx addr len flying emul y
      match ex y.instr { s with core := { s.core with iss := ctx, out := .performed } } with
      | .next s' => performAll ex addr len flying r ys s' (t.note s'.core.out ctx)
      | .fault f => .fault f
      | .refused f => .refused f

/-! ### The end of an issue cycle -/

/-- The address and length of the bundle issued in this cycle have their effect on the stream (R91 to R93, R101, R102):
the loop sequencer, then a redirection whose last bundle this is; so a LOOP of count 0 at the end of the innermost body steps that level
and goes where R100 says (DESIGN CHOICE, assumption log 91). -/
def Core.endIssue (c : Core) : Core :=
  let addr := c.iss.addr
  let past := addr + c.iss.len
  let c := sequence addr past (c.loops.length + 1) { c with justIss := false }
  match c.redirect with
  | none => { c with pc := c.nextPc }
  | some r =>
    if 1 < r.left then { c with pc := c.nextPc, redirect := some { r with left := r.left - 1 } }
    else
      let c := { c with redirect := none, nextIss := c.nextIss + r.cost }
      match r.target with
      | some t => { (c.applyAct t r.act) with pc := t }
      | none => { c with pc := c.nextPc }

/-- A bundle that FIRST or LAST withholds occupies one issue cycle and counts as a delay slot (R40); one that holds a transfer
makes its successors delay slots (R91): the next two bundles issued, wherever the loop sequencer goes, with no fetch cost whatever the
hint (DESIGN CHOICE, assumption log 117). -/
def Core.skipBundle (c : Core) (transfer : Bool) (addr len : Nat) : Core :=
  { c with redirect := if transfer then some ⟨3, none, .none, 0⟩ else c.redirect, iss := { c.iss with addr := addr, len := len }, nextPc := addr + len, justIss := true, nextIss := c.cyc + 1,
           dueIss := c.cyc + 1, counting := true, replay := none, lateKeep := 0 }

/-- An issued bundle is counted and applies its STALL (R37, R74). -/
def Core.issuedBundle (c : Core) (addr len stall : Nat) : Core :=
  { c with iss := { c.iss with addr := addr, len := len }, justIss := true, bundles := c.bundles + 1, issued := c.issued + 1,
           nextIss := c.cyc + 1 + stall, dueIss := c.cyc + 1 + stall, counting := true, replay := none, fwait := none,
           spawnW := none, spawnFull := false, tmplW := none, lateKeep := 0, out := .performed }

/-- A hold cycle (R37, R74). -/
def Core.holdCycle (c : Core) : Core := { c with waits := c.waits + 1, justIss := false, out := .performed }

/-- The vector and mask results in flight (R313). -/
def Core.vInFlight (c : Core) : Nat :=
  (c.inflight.filter fun f => match f.wr with | .v _ _ => true | .m _ _ => true | _ => false).length
/-- The same with the results that a bundle's syllables would add, each under its own guard (R313). -/
def Core.vWould (c : Core) (r : Option Replay) (ys : List Syllable) : Nat :=
  let run := ys.filter fun y => !passesOver r y && (c.rp y.guard.p != y.guard.neg)
  c.vInFlight + ((run.flatMap (·.instr.dests)).filter fun d => match d with | .v _ => true | .m _ => true | _ => false).length

/-- Every syllable of a bundle performed; an empty bundle performs nothing (R36). -/
def performBundle (ex : Instr → State → Out) (addr len : Nat) (r : Option Replay) (ys : List Syllable) (s : State) :
    Host.Outcome (State × Tally) Fault Refusal :=
  match ys with
  | [] =>
    match ex .emptyBundle s with
    | .next s' => .next (s', Tally.none)
    | .fault f => .fault f
    | .refused f => .refused f
  | ys => performAll ex addr len s.core.inflight.length r ys s Tally.none

/-! ### One issue cycle -/

/-- The next part of the current core's cycle. -/
def State.toStage (s : State) (g : Stage) : State := s.modCore fun c => { c with stage := g }

/-- One nanosecond of the timestamp: the rate of the correction in force, in parts per million, adds up, and each whole
million makes one nanosecond count twice or not at all (R327). -/
def State.tickNs (s : State) : State :=
  let acc := s.slewAcc + s.slew.natAbs
  if acc < 1000000 then { s with ts := s.ts + 1, slewAcc := acc }
  else { s with ts := s.ts + (if s.slew < 0 then 0 else 2), slewAcc := acc - 1000000 }
/-- The world goes on to the next core; after the last one, to the next cycle. The timestamp counts 10 ns for every 21 cycles, or for
the cycles of a lower clock (R3, R327, R348). -/
def State.rotate (s : State) : State :=
  let done := { s.core with stage := .events }
  match s.ahead with
  | c :: r => { s with core := c, ahead := r, behind := s.behind ++ [done] }
  | [] =>
    let t := s.tsPhase + 10
    let n := s.rate
    let s := (List.range (t / n)).foldl (fun s _ => s.tickNs) { s with cycle := s.cycle + 1, tsPhase := t % n }
    match s.behind with
    | [] => { s with core := done }
    | c :: r => { s with core := c, behind := [], ahead := r ++ [done] }

/-- A cycle in which the core's clock domain is stopped for a landing or for a vector port (R37, R74). -/
def State.clockStop (s : State) : State := s.modCore fun c => { c with clkstop := c.clkstop + 1, out := .performed }

/-- The outcome of a bundle whose syllables were performed from `s0`: a hold, which is waited out first with the clock running
and raises nothing but ORPHAN_WAIT (R23, R37, R300); then a clock stop for a landing; then a trap, or its issue. `would` is the
number of vector and mask results in flight if it issues (R313). -/
def settle (s0 : State) (addr len stall would : Nat) (late : Bool) (r : State × Tally) : State :=
  let s := r.1
  let t := r.2
  match t.orphan with
  | some ctx => ({ s0 with core := { s0.core with iss := ctx } }.takeTrap .orphanWait 0).toStage .halted
  | none =>
  if t.held || decide (48 < if t.stopped || t.trap.isSome then would else s.core.vInFlight) then
    -- a wait's record of its first cycle is kept (R212, R287)
    ({ s0 with core := { s0.core with fwait := s.core.fwait, spawnW := s.core.spawnW, tmplW := s.core.tmplW } }.modCore Core.holdCycle).toStage
      .engine
  else if late || t.stopped then s0.clockStop.toStage .halted
  else match t.trap with
    | some (k, w, ctx) => ({ s0 with core := { s0.core with iss := ctx } }.takeTrap k w).toStage .halted
    | none => (s.modCore fun c => { c.issuedBundle addr len stall with lastIss := s.cycle, overdue := false }).toStage .engine

/-- The register results that the system cores compute for the syllable that traps FORMAT_EMULATE (R306): what its meaning puts in
flight, due at the end of the replay cycle. -/
def emulate (ex : Instr → State → Out) (s : State) (ys : List Syllable) (t : Tally) : List InFlight :=
  match t.trap with
  | some (.formatEmulate, _, ctx) =>
    (match ys.find? fun y => y.slot = ctx.slot with
      | some y => (match ex y.instr { s with core := { s.core with iss := { ctx with emul := true }, out := .performed } } with
        | .next u => u.core.inflight.drop s.core.inflight.length
        | _ => [])
      | none => [])
  | _ => []
/-- The bundle at the program counter reaches issue. LOOP_NEST of a bundle that contains the end of the body, or that tests FIRST or LAST
with no level, comes before its holds and its syllables (DESIGN CHOICE, assumption log 92). -/
def issueBundle (ex : Instr → State → Out) (s : State) : Out :=
  let c := s.core
  let addr := c.pc
  let len := c.lenAt addr
  if c.codeLen < addr + len then .next ((s.takeTrap .objBounds 0).toStage .halted)
  else match c.decodeFate addr with
    | .error k => .next ((s.takeTrap k 0).toStage .halted)
    | .ok b =>
      match c.withheld b.test with
      | none => .next ((s.takeTrap .loopNest 0).toStage .halted)
      | some true => .next ((s.modCore fun c => c.skipBundle (b.sylls.any (·.instr.isTransfer)) addr len).toStage .engine)
      | some false =>
        if c.straddles addr len then .next ((s.takeTrap .loopNest 0).toStage .halted)
        else
          let late := allQ.any (c.lateDue c.issued)
          let s1 := s.modCore fun c =>
            { (allQ.foldl (Core.landDue c.issued) c) with nextPc := addr + len, iss := { c.iss with addr := addr, len := len } }
          match performBundle ex addr len c.replay b.sylls s1 with
          | .next r =>
            .next (settle (s.modCore fun c => { c with emulated := emulate ex s1 b.sylls r.2 }) addr len b.stall.val
              (c.vWould c.replay b.sylls) late r)
          | .fault f => .fault f
          | .refused f => .refused f

/-! ### Slot replays (R302, R303, R305) -/

/-- The operand words that a request captured at its issue, after its index tuple. -/
def Req.extraWords (r : Req) : List Nat :=
  match r.op with
  | .gather _ => [r.list.toNat]
  | .scatter _ => [r.list.toNat]
  | .push dest f _ _ _ => [dest + 512 * f]
  | .subsc beyond => [beyond.toNat]
  | .atom _ _ operand cmp => [r.n, operand.toNat, cmp.toNat]
  | .red _ _ operand => [r.n, operand.toNat]
  | .ldsync _ => [r.n]
  | .stsync _ operand => [r.n, operand.toNat]
  | .barinit expect => [expect.toNat]
  | .bpost hash _ => [hash.toNat]
  | .plotrd sel => [sel.toNat]
  | .svc _ msg _ => msg.map BitVec.toNat
  | _ => []
/-- All of them, in the order of the registers that the syllable reads. -/
def Req.operandWords (r : Req) : List Nat := r.origin ++ r.extraWords
/-- The registers in which a syllable finds operand words: an index tuple of `rank` registers, then what else it reads. -/
def operandRegs (rank : Nat) (i : Instr) : List Reg :=
  let tuple (t : Fin 16) (more : Nat) : List Reg := (List.range (rank + more)).map fun k => .a (t.val + k)
  let xs (a : Fin 64) (n : Nat) : List Reg := (List.range n).map fun k => .x (xPlus a k).val
  match i with
  | .fetch _ x _ => tuple x.t 0
  | .store _ x _ => tuple x.t 0
  | .gather x _ => tuple x.t 1
  | .scatter x _ => tuple x.t 1
  | .pushr _ t => [.a t.val]
  | .copyo x _ _ => tuple x.t 0
  | .coll _ x _ _ => tuple x.t 0
  | .freeze x _ => tuple x.t 0
  | .thaw x _ => tuple x.t 0
  | .grant x _ => tuple x.t 0
  | .subsc _ t _ => [.a t.val]
  | .atom _ _ _ _ a _ => xs a 3
  | .red _ _ _ _ a => xs a 2
  | .ldsync _ _ _ a _ => xs a 1
  | .stsync _ _ _ a => xs a 2
  | .barinit _ _ a => xs a 1
  | .bpost _ a => xs a 1
  | .plotrd a _ => xs a 1
  | .svc _ a _ => xs a 8
  | _ => []
/-- A register file with one register replaced for a replay. -/
def Core.withReg (c : Core) (e : Reg × Nat) : Core :=
  match e.1 with
  | .x n => { c with x := setAt c.x (Fin.ofNat 64 n) (BitVec.ofNat 64 e.2) }
  | .a n => { c with a := setAt c.a (Fin.ofNat 16 n) (BitVec.ofNat 64 e.2) }
  | _ => c
/-- The core as a slot replay's syllable sees it: its operand registers hold the captured words, its h-register the captured state, no
result is in flight, no landing is awaited, and the furrow slot it claimed or took stands ready. -/
def Core.forReplay (c : Core) (r : Req) (y : Syllable) (words : List Nat) : Core :=
  let c := ((operandRegs r.origin.length y.instr).zip words).foldl Core.withReg c
  let h : Vector HReg 16 := setAt (c.h.map fun g => { g with due := none }) r.h { r.reg with opened := true, due := none }
  let c := { c with inflight := [], endFx := [], q := Vector.replicate 16 .empty, h := h, out := .performed,
                    iss := ⟨r.bundle, c.lenAt r.bundle, r.slot, y.guard.p, true, false, 0⟩ }
  match r.furrow with
  | some f => c.modF f fun g => { g with free := max 1 g.free, filled := max 1 g.filled }
  | none => c
/-- The request goes out again as it was captured. -/
def State.reissue (s : State) (r : Req) : State :=
  ({ s with reqs := updFirst (fun e => e.id = r.id) (fun e => { e with phase := .sent, arr := 0, absent := false }) s.reqs }.modCore
    fun c => { c with replay := none }).later r.id r.op.event
/-- A replay whose bundle image or operands the host rewrote (R305): the slot's syllable, as the image now has it, is performed on them;
the request that it sends takes the place of the first one, with its landing slot and its furrow slot. What it sends is checked as at an
issue; a cause stops the core again with the same replay buffer (R303). -/
def replayRewritten (ex : Instr → State → Out) (s : State) (p : Replay) (r : Req) : State :=
  let c := s.core
  let drop : State := { s.modCore (fun c => { c with replay := none }) with reqs := s.reqs.filter fun e => e.id ≠ r.id }
  match c.fetch r.bundle with
  | .error _ => s.takeLate c.id .illegal (some p)
  | .ok b =>
    match b.sylls.find? fun y => y.slot = r.slot with
    | none => drop
    | some y =>
      let words := if p.words = [] then r.operandWords else p.words
      let others := s.reqs.filter fun e => e.id ≠ r.id
      match ex y.instr { s with core := c.forReplay r y words, reqs := others } with
      | .next u =>
        (match u.core.out with
          | .performed =>
            (match u.reqs.find? fun e => e.id = s.nextReq with
              | some n =>
                let n := { n with id := r.id, q := r.q, furrow := r.furrow, fslot := r.fslot, issued := r.issued, bundle := r.bundle }
                ({ s with reqs := updFirst (fun e => e.id = r.id) (fun _ => n) s.reqs }.modCore
                  fun c => { c with replay := none }).later r.id n.op.event
              | none => drop)
          | .trapped k _ => s.takeLate c.id k (some p)
          | _ => s)
      | _ => s
/-- The replay cycle of a slot replay: the request goes out again with its captured operands, and no counter counts (R303). A slot that
the host marked performed is passed over (R305). -/
def replaySlot (ex : Instr → State → Out) (s : State) (p : Replay) (id : Nat) : State :=
  (match s.reqs.find? fun (r : Req) => r.id = id with
    | some r =>
      if p.perf &&& perfBit r.slot ≠ 0 then
        { s.modCore (fun c => { c with replay := none }) with reqs := s.reqs.filter fun e => e.id ≠ id }
      else if p.image = [] && p.words = [] then s.reissue r
      else replayRewritten ex s p r
    | none => s.modCore fun c => { c with replay := none }).toStage .halted

/-- A recorded late fault stops the core at this bundle boundary (R301). -/
def deliverLate (ex : Instr → State → Out) (s : State) : Out :=
  match ex (.lateFault s.core.id) s with
  | .next s => .next (s.toStage .halted)
  | .fault f => .fault f
  | .refused f => .refused f

/-- A whole replay: no slot of the bundle is performed (R302). -/
def Replay.whole (r : Replay) (c : Core) : Bool := r.perf = c.absent r.addr && r.emul = []
/-- The issue part of the current core's cycle: the replay buffer comes first (R303), then a late fault (R301), then the
bundle at the program counter. A whole replay that is held gives way to a late fault found since the task resumed. -/
def issueStage (ex : Instr → State → Out) (s : State) : Out :=
  let c := s.core
  match c.run with
  | .running =>
    if 0 < c.portStop then .next (s.modCore fun c => { c with portStop := c.portStop - 1 }).clockStop.rotate
    else if c.cyc < c.nextIss ∧ c.counting then
      -- idle cycles of STALL; beyond them, the fetch cost counts as WAITS (R37, R92)
      .next ((s.modCore fun c => { c with waits := if c.dueIss ≤ c.cyc then c.waits + 1 else c.waits }).toStage .engine)
    else match c.replay with
      | some ⟨a, pf, some id, em, im, ws⟩ => .next (replaySlot ex s ⟨a, pf, some id, em, im, ws⟩ id)
      | some r => if c.lateKeep < c.late.length && r.whole c then deliverLate ex s else issueBundle ex s
      | none => if c.late ≠ [] then deliverLate ex s else issueBundle ex s
  | .retiring =>
    match c.replay with
    | some ⟨a, pf, some id, em, im, ws⟩ => .next (replaySlot ex s ⟨a, pf, some id, em, im, ws⟩ id)
    | _ => if c.late ≠ [] then deliverLate ex s else .next (s.toStage .engine)
  | .idle => .next s.rotate
  | .emulating => .next (s.toStage .engine)
  | _ => .next (s.toStage .halted)

/-! ### The end of a core's cycle -/

/-- One round of a vector port: each bank gives the oldest job of the slot that needs it one granule; a job takes part from its
first phase on (R152). -/
def portRound (v1 : Bool) (now : Nat) : List Nat → List PortJob → List PortJob
  | _, [] => []
  | used, j :: js =>
    if j.v1 ≠ v1 ∨ now < j.first then j :: portRound v1 now used js
    else
      let ix := List.range 64
      let give := ix.filter fun b => 0 < j.banks.getD b 0 && !used.contains b
      { j with banks := ix.map fun b => if give.contains b then j.banks.getD b 0 - 1 else j.banks.getD b 0 } ::
        portRound v1 now (used ++ ix.filter fun b => 0 < j.banks.getD b 0) js
/-- Whether a job has all its granules. -/
def PortJob.complete (j : PortJob) : Bool := j.banks.all (· = 0)
/-- Further rounds, each in place of the slot's next phase, until every job of the slot whose deadline is now is complete. -/
def portOverrun (v1 : Bool) (now : Nat) : Nat → List PortJob → Nat × List PortJob
  | 0, js => (0, js)
  | n + 1, js =>
    if js.any fun j => j.v1 = v1 && j.deadline ≤ now && !j.complete then
      let r := portOverrun v1 now n (portRound v1 (now + 4) [] js)
      (r.1 + 1, r.2)
    else (0, js)
/-- The vector ports at the end of a task cycle: in its phase a slot performs one round, and granules left at a deadline
stop the clock for 4 cycles for each further round (R152). -/
def Core.portCycle (c : Core) : Core :=
  if c.cyc % 4 ≤ 1 then
    let v1 := c.cyc % 4 = 1
    let js := portRound v1 c.cyc [] c.port
    let r := portOverrun v1 c.cyc 512 js
    { c with port := r.2.filter fun j => !j.complete, portStop := c.portStop + 4 * r.1 }
  else c

/-- The engine's own flags at the end of a cycle (R94, R176): work that completes sets them. -/
def Engine.settleFlags (e : Engine) : Engine :=
  match e.fresh with
  | none => e
  | some k => { e with fresh := none, done := true, fault := e.fault || k ≠ 0, fcode := if k ≠ 0 then k else e.fcode }

/-- The deferral queue at the end of a cycle: entries in flight whose time has come join it (R164). -/
def Core.deferCycle (c : Core) : Core :=
  let due := c.deferIn.filter fun e => decide (e.1 ≤ c.cyc + 1)
  { c with deferIn := c.deferIn.filter (fun e => decide (c.cyc + 1 < e.1)), deferq := c.deferq ++ due.map (fun e => e.2) }

/-- The end of a task cycle, once the ready results are written: the ports, the stream, and CYCLE (R21, R74, R101). In
RETIRE's wait no counter counts (R105): the results and the deferral entries in flight come a cycle nearer. -/
def Core.endCycle (c : Core) : Core :=
  let idle := c.run = .retiring && !c.justIss
  let c := c.portCycle.deferCycle
  let c := { c with eng := c.eng.settleFlags }
  let c := if c.justIss then c.endIssue else c
  if idle then
    { c with inflight := c.inflight.map (fun f => { f with ready := f.ready - 1 }), loads := [], deferIn := c.deferIn.map fun e => (e.1 - 1, e.2) }
  else { c with cyc := if c.counting then c.cyc + 1 else c.cyc }

/-- The end of a cycle that the task's bank frame does not count: the fills performed in it, and the slots popped, are counted (R213). -/
def State.haltEnd (s : State) : State := s.endEffects.rotate
/-- The write-back part: RESULT_WRITEBACK, then the end of the cycle. -/
def writebackStage (ex : Instr → State → Out) (s : State) : Out :=
  match ex .resultWriteback s with
  | .next s => .next (s.modCore Core.endCycle).rotate
  | .fault f => .fault f
  | .refused f => .refused f

end Sys2Proof.Machine
end

