-- ==== Sys2Proof/Machine/Objects.lean ====
section
/-! DEFINITION. The issue of C-slot syllables (R206, R207, R214 to R226, R232 to R245): the checks made from the h-register
and its held entry, the holds, and the request each one sends. -/
namespace Sys2Proof.Machine

/-! ### Reports of a syllable that acts on more than its core -/

/-- An issue cause. -/
def State.fail (s : State) (k : Cause) : State := s.modCore fun c => c.trap k
/-- The bundle is held. -/
def State.held (s : State) : State := s.modCore Core.hold
/-- The first cause that holds, in order. -/
def firstCause : List (Bool × Cause) → Option Cause
  | [] => none
  | (b, k) :: r => if b then some k else firstCause r
/-- The syllable's effect unless a cause holds. -/
def State.checked (s : State) (ks : List (Bool × Cause)) (f : State → State) : State :=
  match firstCause ks with
  | some k => s.fail k
  | none => f s

/-! ### Naming an h-register (R216, R232, R255) -/

/-- A syllable that names h[H] while its new state is due with a landing reads that landing slot. The flag says whether
the syllable goes on. -/
def Core.nameH (c : Core) (h : Fin 16) : Core × Bool :=
  match (c.rh h).due with
  | none => (c, true)
  | some q =>
    match c.readQ q with
    | .orphan => (c.trap .orphanWait, false)
    | .short => (c.trap .stallShort, false)
    | .wait => (c.stop, false)
    | .word w t hs => (c.land q w t hs, true)

/-- A syllable that names an h-register: its guard, the hold for its landing slot or for a limit on requests (R37), the landing
of its h-register, before whose wait a furrow hold `wait` is waited out (R23, R37), STALL_SHORT on the sources that the held entry gives, then its body with the register, which makes the
other checks of R207 before it waits for a furrow (R220). -/
def sylHW (wait : State → Option State) (h : Fin 16) (hold : State → Bool) (srcs : State → HReg → List Reg)
    (body : HReg → State → State) (s : State) : Out :=
  sylS [] (fun s =>
    if hold s then s.held
    else
      let n := s.core.nameH h
      let s1 := { s with core := n.1 }
      let r := s1.core.rh h
      if n.2 = false then (if n.1.out = .stopped then (wait s).getD s1 else s1)
      else if s1.core.short (srcs s1 r) then s1.fail .stallShort
      else body r s1) s
/-- The same for a syllable that waits for no furrow. -/
def sylH (h : Fin 16) (hold : State → Bool) (srcs : State → HReg → List Reg) (body : HReg → State → State) (s : State) : Out :=
  sylHW (fun _ => none) h hold srcs body s

/-- The rank of the entry held for an open register (R207). -/
def State.rankOf (s : State) (r : HReg) : Nat := match s.objReg r with | some o => o.rank | none => 1
/-- The a-registers of a tuple, and `extra` further ones; only a[T] of a closed register (R207). -/
def State.tileSrcs (s : State) (t : Fin 16) (extra : Nat) (r : HReg) : List Reg :=
  if r.opened then (List.range (s.rankOf r + extra)).filterMap fun k => if t.val + k ≤ 15 then some (.a (t.val + k)) else none
  else [.a t.val]

/-! ### Requests (R206, R259) -/

/-- The requests that count as outstanding (R206). -/
def ReqOp.counts : ReqOp → Bool
  | .openH _ => true | .info _ _ => true | .alloc _ _ _ _ _ => true | .fetch _ => true | .store _ => true
  | .gather _ => true | .scatter _ => true | .push _ _ _ _ _ => true | .copyo _ _ _ _ => true | .coll _ => true
  | _ => false
/-- The requests of the Y slot (R259). -/
def ReqOp.isY : ReqOp → Bool
  | .atom _ _ _ _ => true | .red _ _ _ => true | .ldsync _ => true | .stsync _ _ => true | .barinit _ => true
  | .barr => true | .barw _ => true | .bpost _ _ => true | .bread => true | .plotrd _ => true | .svc _ _ _ => true
  | _ => false
/-- A request that is not yet performed. -/
def Req.open_ (r : Req) : Bool := match r.phase with | .answered _ => false | _ => true
/-- A party's requests. -/
def State.reqsOf (s : State) (p : Party) : List Req := s.reqs.filter fun r => r.party.inst = p.inst && r.party.mem = p.mem
/-- Whether one more object request would pass the limit. -/
def State.objFull (s : State) : Bool :=
  Config.objectRequests ≤ ((s.reqsOf (s.party s.core)).filter fun r => r.op.counts && r.open_).length
/-- Whether one more Y request of the task, whichever of its members issued them, would pass the limit (R13, R259). -/
def State.yFull (s : State) : Bool :=
  Config.yRequests ≤ (s.reqs.filter fun r => r.party.sameTask (s.party s.core) && r.op.isY && r.open_).length

/-- A request of the syllable being performed, through h[H] holding `r`. -/
def State.mkReq (s : State) (op : ReqOp) (h : Fin 16) (r : HReg) : Req :=
  { id := s.nextReq, op := op, party := s.party s.core, core := s.core.id, slot := s.core.iss.slot, q := none, h := h, reg := r,
    home := handleHome r.handle, index := handleIndex r.handle
    gen := match s.objReg r with | some o => o.gen | none => 0
    origin := [], rows := 0, rowB := 0, furrow := none, fslot := 0, scope := .system, n := 0, issued := s.cycle,
    bundle := s.core.iss.addr, phase := .sent, arr := 0, absent := false, failedAt := 0, list := 0, fin := 0, casts := false, cap := none }
/-- The request goes out; its step comes after a free delay. -/
def State.send (s : State) (r : Req) (i : Instr) : State :=
  { s with reqs := s.reqs ++ [r], nextReq := s.nextReq + 1 }.later r.id i
/-- The same for a request that names a landing slot (R23, R255). -/
def State.sendQ (s : State) (r : Req) (u : Due) (thaw : Bool) (i : Instr) : State :=
  (s.modCore fun c => c.nameQ u r.id thaw none).send { r with q := some u.q } i
/-- h[H] takes its new state with the word that q[Q] brings (R216, R232). -/
def State.dueH (s : State) (h : Fin 16) (r : HReg) (u : Due) : State :=
  s.modCore fun c => c.fx (.hreg h { r with due := some u.q })
/-- A landing request that counts: held while its slot is outstanding or the limit is reached. -/
def State.landHold (s : State) (u : Due) : Bool := s.core.qBusy u.q || s.objFull

/-! ### Tiles (R214) -/

/-- The rows of a tile shape. -/
def tileRows (sh : Fin 64) : Nat := 2 ^ (sh.val / 8)
/-- The bytes of a tile row: for T6, 32 × 2^m elements. -/
def tileRowB (sh : Fin 64) (f : Fmt) : Nat := (if f = fmtT6 then 24 else 32) * 2 ^ (sh.val % 8)
/-- The index tuple, read unsigned. -/
def Core.origin (c : Core) (t : Fin 16) (o : Obj) : List Nat := (c.tuple t o.rank).map (·.toNat)
/-- A tuple lies within the dimensions. -/
def inDims : List Nat → List Nat → Bool
  | [], [] => true
  | i :: is, d :: ds => decide (i < d) && inDims is ds
  | _, _ => false
/-- OBJ_BOUNDS of R214. -/
def Core.tileBounds (c : Core) (t : Fin 16) (sh : Fin 64) (o : Obj) : Bool :=
  15 < t.val + o.rank - 1 || !inDims (c.origin t o) o.dims || (o.rank = 1 && tileRows sh ≠ 1)
/-- FURROW_CONFIG of R211 and R214 for a tile in a slot. -/
def Furrow.badTile (f : Furrow) (usable : Bool) (sh : Fin 64) (o : Obj) : Bool :=
  !usable || tileRowB sh o.fmt * 8 % elemBits o.fmt ≠ 0 || tileRows sh * tileRowB sh o.fmt ≠ f.slotsz
/-- A request for a tile. -/
def Req.withTile (r : Req) (c : Core) (t : Fin 16) (sh : Fin 64) (o : Obj) : Req :=
  { r with origin := c.origin t o, rows := tileRows sh, rowB := tileRowB sh o.fmt }

/-! ### Rights, modes and versions (R207, R221) -/

/-- The VER value of an unpinned register (R228). -/
def unpinned : BitVec 32 := 0xFFFFFFFF
/-- OBJ_RIGHTS: closed, or a right missing. -/
def HReg.lacks (r : HReg) (rights : List Nat) : Bool := !r.opened || rights.any fun k => !r.has k
/-- VERSION for a read: an unpinned register (R234). -/
def HReg.noRead (r : HReg) (o : Obj) : Bool := !o.live && !r.write && r.ver = unpinned
/-- VERSION for a write: a VERSIONED object needs write mode (R221). -/
def HReg.noWrite (r : HReg) (o : Obj) : Bool := !o.live && !r.write

/-- The object of an h-register, or OBJ_RIGHTS when it is closed or lacks a right; then the body. -/
def State.withObj (s : State) (r : HReg) (rights : List Nat) (body : Obj → State) : State :=
  if r.lacks rights then s.fail .objRights
  else match s.objReg r with
    | none => s.fail .objRights
    | some o => body o

/-! ### Furrow ends of C requests (R211 to R213, R220) -/

/-- A producing request is held while FREE is 0; a request whose furrow it may not use is not. -/
def State.prodWait (s : State) (f : Fin 32) : Bool :=
  let g := s.core.rf f
  g.mayProduce endC && g.free = 0
/-- A consuming request is held while no slot is filled. -/
def State.consWait (s : State) (f : Fin 32) : Bool :=
  let g := s.core.rf f
  g.mayConsume endC && g.filled = 0
/-- Held at issue by the furrow wait of a producing request (R212). -/
def State.holdProd (s : State) (f : Fin 32) : State :=
  let live := s.consLive s.core (s.core.rf f) true
  s.modCore fun c => c.furrowHold live
/-- Held at issue by the furrow wait of a consuming request (R212). -/
def State.holdCons (s : State) (f : Fin 32) : State :=
  let live := s.prodLive s.core (s.core.rf f) true
  s.modCore fun c => c.furrowHold live
/-- The furrow hold of a producing or a consuming request, if it has one. -/
def State.prodHold (f : Fin 32) (s : State) : Option State := if s.prodWait f then some (s.holdProd f) else none
def State.consHold (f : Fin 32) (s : State) : Option State := if s.consWait f then some (s.holdCons f) else none
/-- The request claims the slot at TAIL and binds the producing end. -/
def State.sendProd (s : State) (r : Req) (f : Fin 32) (i : Instr) (named : Option (Due × Bool)) : State :=
  let slot := (s.core.rf f).tail
  let s := s.modCore fun c => (c.modF f fun g => { g with prod := endC }).claimFor f r.id
  let r := { r with furrow := some f, fslot := slot }
  match named with
  | some (u, t) => s.sendQ r u t i
  | none => s.send r i
/-- The request takes the slot at HEAD and binds the consuming end. -/
def State.sendCons (s : State) (r : Req) (f : Fin 32) (i : Instr) (named : Option (Due × Bool)) : State :=
  let slot := (s.core.rf f).head
  let s := s.modCore fun c => (c.modF f fun g => { g with cons := endC }).takeFor f r.id
  let r := { r with furrow := some f, fslot := slot }
  match named with
  | some (u, t) => s.sendQ r u t i
  | none => s.send r i

/-! ### OPEN, CLOSE, INFO, ALLOC, FREE (R216 to R219) -/

/-- OPEN (R216). -/
def execOpenH (w : Bool) (h t : Fin 16) (due : Due) (s : State) : Out :=
  sylH h (·.landHold due) (fun _ _ => [.a t.val]) (fun r s =>
    s.checked [(r.opened, .objRights)] fun s =>
      let r' := { HReg.closed with handle := s.core.ra t }
      (s.sendQ (s.mkReq (.openH w) h r') due false .versionEvent).dueH h HReg.closed due) s

/-- CLOSE (R216): the register closes at the end of the cycle; the home hears of it. -/
def execClose (h : Fin 16) (s : State) : Out :=
  sylH h (fun _ => false) (fun _ _ => []) (fun r s =>
    s.checked [(!r.opened, .objRights)] fun s =>
      (s.modCore fun c => c.fx (.hreg h HReg.closed)).send (s.mkReq .close h r) .versionEvent) s

/-- INFO (R217). -/
def execInfo (q : InfoQ) (h : Fin 16) (due : Due) (s : State) : Out :=
  sylH h (·.landHold due) (fun _ _ => []) (fun r s =>
    s.checked [(!r.opened, .objRights)] fun s =>
      s.sendQ (s.mkReq (.info q r.ver) h r) due false .objectRequestPerform) s

/-- ALLOC (R218): the request block is read at issue. -/
def execAlloc (t : Fin 16) (due : Due) (s : State) : Out :=
  sylS [.a t.val] (fun s =>
    if s.landHold due then s.held
    else
      let c := s.core
      let a := (c.ra t).toNat
      let word (k : Nat) : Word := BitVec.ofNat 64 (memRead c.scratch (a + 8 * k) 8)
      s.checked [(a % 32 ≠ 0 || c.scrlim < a + 32, .scratchBounds)] fun s =>
        s.sendQ (s.mkReq (.alloc (word 0) (word 1) (word 2) (word 3) false) 0 HReg.closed) due false .objectRequestPerform) s

/-- FREE (R219): it closes h[H] and asks the home to free the object. -/
def execFree (h : Fin 16) (s : State) : Out :=
  sylH h (fun _ => false) (fun _ _ => []) (fun r s =>
    s.withObj r [rAdmin] fun _ =>
      (s.modCore fun c => c.fx (.hreg h HReg.closed)).send (s.mkReq .free h r) .objectRequestPerform) s

/-! ### FETCH, STORE, GATHER, SCATTER (R220 to R222) -/

/-- The causes of a tile transfer after OBJ_RIGHTS. -/
def tileCauses (s : State) (r : HReg) (o : Obj) (wr : Bool) (x : Tile) (f : Fin 32) : List (Bool × Cause) :=
  let g := s.core.rf f
  [ (if wr then r.noWrite o else r.noRead o, .version), (s.core.tileBounds x.t x.sh o, .objBounds),
    (g.badTile (if wr then g.mayConsume endC else g.mayProduce endC) x.sh o, .furrowConfig) ]

/-- FETCH (R220). -/
def execFetch (mod : FetchMod) (x : Tile) (f : Fin 32) (s : State) : Out :=
  sylHW (State.prodHold f) x.h State.objFull (fun s r => s.tileSrcs x.t 0 r) (fun r s =>
    s.withObj r [rRead] fun o =>
      s.checked (tileCauses s r o false x f) fun s =>
        if s.prodWait f then s.holdProd f
        else s.sendProd ((s.mkReq (.fetch mod) x.h r).withTile s.core x.t x.sh o) f .objectRequestPerform none) s

/-- STORE (R220). -/
def execStore (noalloc : Bool) (x : Tile) (f : Fin 32) (s : State) : Out :=
  sylHW (State.consHold f) x.h State.objFull (fun s r => s.tileSrcs x.t 0 r) (fun r s =>
    s.withObj r [rWrite] fun o =>
      s.checked (tileCauses s r o true x f) fun s =>
        if s.consWait f then s.holdCons f
        else s.sendCons ((s.mkReq (.store noalloc) x.h r).withTile s.core x.t x.sh o) f .objectRequestPerform none) s

/-- The row list of a GATHER or SCATTER: 2^k 32-bit entries at a[T+r] (R222). -/
def Core.rowList (c : Core) (x : Tile) (o : Obj) : List Nat :=
  let a := (c.ra (aPlus x.t o.rank)).toNat
  (List.range (tileRows x.sh)).map fun k => memRead c.scratch (a + 4 * k) 4
/-- A request for a tile with a row list: it captures the list register too (R222, R302). -/
def Req.withList (r : Req) (c : Core) (x : Tile) (o : Obj) : Req :=
  { r.withTile c x.t x.sh o with list := c.ra (aPlus x.t o.rank) }
/-- Whether the list lies in scratch. -/
def Core.listIn (c : Core) (x : Tile) (o : Obj) : Bool :=
  let a := (c.ra (aPlus x.t o.rank)).toNat
  a % 4 = 0 && a + 4 * tileRows x.sh ≤ c.scrlim
/-- A tuple lies within the dimensions but for its row index, which the list replaces. -/
def inDimsBut (rank : Nat) (is ds : List Nat) : Bool :=
  (List.range rank).all fun k => k + 2 = rank || decide (is.getD k 0 < ds.getD k 0)
/-- OBJ_BOUNDS of R214 and R222 for a list. -/
def Core.listBounds (c : Core) (x : Tile) (o : Obj) : Bool :=
  15 < x.t.val + o.rank || o.rank = 1 || !inDimsBut o.rank (c.origin x.t o) o.dims ||
    (c.listIn x o && (c.rowList x o).any fun i => decide (o.dim (o.rank - 2) ≤ i))
/-- The causes of a list transfer after OBJ_RIGHTS. -/
def listCauses (s : State) (r : HReg) (o : Obj) (wr : Bool) (x : Tile) (f : Fin 32) : List (Bool × Cause) :=
  let g := s.core.rf f
  [ (if wr then r.noWrite o else r.noRead o, .version), (s.core.listBounds x o, .objBounds),
    (g.badTile (if wr then g.mayConsume endC else g.mayProduce endC) x.sh o, .furrowConfig),
    (!s.core.listIn x o, .scratchBounds) ]

/-- GATHER (R222). -/
def execGather (x : Tile) (f : Fin 32) (s : State) : Out :=
  sylHW (State.prodHold f) x.h State.objFull (fun s r => s.tileSrcs x.t 1 r) (fun r s =>
    s.withObj r [rRead] fun o =>
      s.checked (listCauses s r o false x f) fun s =>
        if s.prodWait f then s.holdProd f
        else s.sendProd ((s.mkReq (.gather (s.core.rowList x o)) x.h r).withList s.core x o) f .objectRequestPerform none) s

/-- SCATTER (R222). -/
def execScatter (x : Tile) (f : Fin 32) (s : State) : Out :=
  sylHW (State.consHold f) x.h State.objFull (fun s r => s.tileSrcs x.t 1 r) (fun r s =>
    s.withObj r [rWrite] fun o =>
      s.checked (listCauses s r o true x f) fun s =>
        if s.consWait f then s.holdCons f
        else s.sendCons ((s.mkReq (.scatter (s.core.rowList x o)) x.h r).withList s.core x o) f .objectRequestPerform none) s

/-! ### PUSHR (R223) -/

/-- The entry a PUSHR names, if there is one. -/
def Core.pushEntry (c : Core) (dest f : Nat) : Option PushEntry := c.pushMap.find? fun e => e.core = dest && e.furrow = f
/-- The entry the first PUSHR to a destination creates: it mirrors the destination's furrow as it stands. -/
def State.newEntry (s : State) (dest : Nat) (f : Fin 32) : PushEntry :=
  match s.coreAt dest with
  | some d =>
    let g := d.rf f
    let inst := match d.task with | some t => t.inst * 8 + t.member | none => 0
    if g.init then ⟨dest, f.val, g.slotsz, g.count, g.free, inst, false⟩ else ⟨dest, f.val, 0, 1, 1, inst, false⟩
  | none => ⟨dest, f.val, 0, 1, 1, 0, false⟩

/-- PUSHR (R223): its checks first; then it is held until f[F] has a filled slot and the mirror a free one, and takes both. The
entry of a destination that has ended gives ORPHAN_WAIT at issue, and in a wait for a free mirror slot at the wait's check; the one
wait checks both ends (R212). -/
def execPushr (f : Fin 32) (t : Fin 16) (s : State) : Out :=
  sylS [] (fun s =>
    let c := s.core
    let v := (c.ra t).toNat
    let dest := v % 512
    let df : Fin 32 := Fin.ofNat 32 (v / 512)
    let bad := 2 ^ 14 ≤ v || 383 < dest
    let known := c.pushEntry dest df.val
    let e := known.getD (s.newEntry dest df)
    if s.objFull then s.held
    else if c.short [.a t.val] then s.fail .stallShort
    else s.checked
      [ (bad || !(c.rf f).mayConsume endC || (known.isNone && Config.pushEntries ≤ c.pushMap.length), .furrowConfig),
        (e.ended && !(e.free = 0 && c.fwait.isSome), .orphanWait) ] fun s =>
      if e.free = 0 || s.consWait f then
        let live := (e.free ≠ 0 || !e.ended) && (!s.consWait f || s.prodLive s.core (s.core.rf f) true)
        s.modCore fun c => c.furrowHold live
      else
        let s := s.modCore fun c =>
          { c with pushMap := (c.pushMap.filter fun m => !(m.core = dest && m.furrow = df.val)) ++ [{ e with free := e.free - 1 }] }
        s.sendCons (s.mkReq (.push dest df.val e.inst [] []) 0 HReg.closed) f .objectRequestPerform none) s

/-! ### PREF, COPYO, COLL (R224 to R226) -/

/-- A step of the object manager on a page. -/
def pageStep (p : PageRef) (i : Instr) : Bool :=
  match i with | .pagePromotion q => p = q | .objMissingResolve q => p = q | .pageMoveComplete q => p = q | _ => false
/-- The object manager is asked to place a page in HBM: a fetch of it in progress comes next, a page in the LPDDR tier or at a peer is
moved, and an absent one is resolved (R224, R318). -/
def State.prefPage (s : State) (o : Obj) (v n : Nat) : State :=
  match o.pageAt v n with
  | none => s
  | some p =>
    let r : PageRef := ⟨o.home, o.index, p.ver, n⟩
    let hurry (e : Event) : Event := if pageStep r e.instr then { e with at_ := min e.at_ (s.cycle + 1) } else e
    if s.agenda.any fun e => pageStep r e.instr then { s with agenda := s.agenda.map hurry }
    else match p.res with
      | .absent => s.later 0 (.objMissingResolve r)
      | .peer => s.later 0 (.pagePromotion r)
      | _ => if p.tier = .lpddr then s.later 0 (.pagePromotion r) else s
/-- PREF (R224): the pages of the tile are asked for, and its lines placed in this die's MLC where R319 lets the slice hold them, as casts
if the pages are FROZEN (R237); out of bounds it does nothing. -/
def execPref (x : Tile) (s : State) : Out :=
  sylH x.h (fun _ => false) (fun s r => s.tileSrcs x.t 0 r) (fun r s =>
    s.withObj r [rRead] fun o =>
      if s.core.tileBounds x.t x.sh o then s
      else
        let w := tileRowB x.sh o.fmt * 8 / elemBits o.fmt
        let org := s.core.origin x.t o
        let at_ (i e : Nat) : List Nat :=
          if o.rank = 1 then org.map (· + e)
          else org.take (o.rank - 2) ++ [org.getD (o.rank - 2) 0 + i, org.getD (o.rank - 1) 0 + e]
        let v := o.verOf r
        let bytes := ((((List.range (tileRows x.sh)).map fun i => (List.range w).map fun e => at_ i e).flatten.filter
          fun p => inDims p o.dims).map o.elemBytes).flatten
        let s := (bytes.map (· / 65536)).eraseDups.foldl (fun s n => s.prefPage o v n) s
        let there := bytes.filter fun b => match o.pageAt v (b / 65536) with | some p => p.res ≠ .absent | none => false
        (s.formCasts o v ((there.map (· / 65536)).eraseDups) .here).mlcTouch true (some (dieOf s.core.id)) o.home o.index v there) s

/-- COPYO (R225): h[D] is the destination, the field F names the source register. -/
def execCopyo (x : Tile) (src : Fin 16) (due : Due) (s : State) : Out :=
  sylH x.h (·.landHold due) (fun _ _ => []) (fun _ s =>
    let n := s.core.nameH src
    let t := { s with core := n.1 }
    if n.2 = false then t
    else
      let s := t
      let r := s.core.rh x.h
      let q := s.core.rh src
      if s.core.short (s.tileSrcs x.t 0 r) then s.fail .stallShort
      else if q.lacks [rRead] then s.fail .objRights
      else s.withObj r [rWrite] fun o =>
        match s.objReg q with
        | none => s.fail .objRights
        | some p =>
          s.checked [ (r.noWrite o || q.noRead p, .version), (o.fmt ≠ p.fmt || o.scale ≠ p.scale, .formatMismatch),
              (o.rank ≠ p.rank || s.core.tileBounds x.t x.sh o || s.core.tileBounds x.t x.sh p, .objBounds) ] fun s =>
            let req := (s.mkReq (.copyo p.home p.index p.gen q.ver) x.h r).withTile s.core x.t x.sh o
            s.sendQ req due false .objectRequestPerform) s

/-- COLL (R226). The sum of T16 contributions is the system cores' (R107, R125). -/
def execColl (kind : CollKind) (x : Tile) (f : Fin 32) (due : Due) (s : State) : Out :=
  sylHW (if kind = .bc then State.prodHold f else State.consHold f) x.h (·.landHold due) (fun s r => s.tileSrcs x.t 0 r) (fun r s =>
    let bc := kind = .bc
    s.withObj r [if bc then rRead else rWrite] fun o =>
      let g := s.core.rf f
      s.checked [ (if bc then r.noRead o else !o.live, .version),
          (kind = .red && fmtKind o.fmt = .flt .t16 && !s.core.iss.emul, .formatEmulate), (s.core.tileBounds x.t x.sh o, .objBounds),
          (g.badTile (if bc then g.mayProduce endC else g.mayConsume endC) x.sh o, .furrowConfig) ] fun s =>
        let req := (s.mkReq (.coll kind) x.h r).withTile s.core x.t x.sh o
        if bc && s.prodWait f then s.holdProd f
        else if !bc && s.consWait f then s.holdCons f
        else if bc then s.sendProd req f .objectRequestPerform (some (due, false))
        else s.sendCons req f .objectRequestPerform (some (due, false))) s

/-! ### PIN, UNPIN, SUBSC, PUBL (R232 to R236) -/

/-- The shape of the three version instructions that land: `wr` the mode the register must have, `rights` what it needs. -/
def versionSyl (h : Fin 16) (srcs : List Reg) (rights : List Nat) (wr : Bool) (due : Due) (op : Core → ReqOp) (s : State) : Out :=
  sylH h (fun s => s.core.qBusy due.q) (fun _ _ => srcs) (fun r s =>
    s.withObj r rights fun o =>
      s.checked [(o.live || r.write ≠ wr, .version)] fun s =>
        (s.sendQ (s.mkReq (op s.core) h r) due false .versionEvent).dueH h r due) s

def execPin (h : Fin 16) (due : Due) (s : State) : Out := versionSyl h [] [rRead] false due (fun _ => .pin) s
def execSubsc (h t : Fin 16) (due : Due) (s : State) : Out :=
  versionSyl h [.a t.val] [rRead] false due (fun c => .subsc (c.ra t)) s
def execPubl (h : Fin 16) (due : Due) (s : State) : Out := versionSyl h [] [rPublish] true due (fun _ => .publ) s

/-- UNPIN (R234): at the end of the issue cycle VER becomes 0xFFFF_FFFF and the home releases the pin. -/
def execUnpin (h : Fin 16) (s : State) : Out :=
  sylH h (fun _ => false) (fun _ _ => []) (fun r s =>
    s.withObj r [] fun o =>
      s.checked [(o.live || r.write, .version)] fun s =>
        if r.ver = unpinned then s
        else
          let q := s.mkReq .unpin h r
          { s.modCore (fun c => c.fx (.hreg h { r with ver := unpinned })) with
            reqs := s.reqs ++ [q], nextReq := s.nextReq + 1 }.after 1 q.id .versionEvent) s

/-! ### FREEZE, THAW, THAWT, GRANT (R240 to R245) -/

/-- The shape of FREEZE, THAW and GRANT. -/
def spanSyl (x : Tile) (rights : List Nat) (live thaw : Bool) (due : Due) (op : ReqOp) (s : State) : Out :=
  sylH x.h (fun s => s.core.qBusy due.q) (fun s r => s.tileSrcs x.t 0 r) (fun r s =>
    s.withObj r rights fun o =>
      s.checked [(live && !o.live, .version), (s.core.tileBounds x.t x.sh o, .objBounds)] fun s =>
        s.sendQ ((s.mkReq op x.h r).withTile s.core x.t x.sh o) due thaw .objectRequestPerform) s

def execFreeze (x : Tile) (due : Due) (s : State) : Out := spanSyl x [rFreeze] false false due .freeze s
def execThaw (x : Tile) (due : Due) (s : State) : Out := spanSyl x [rFreeze] false true due .thaw s
def execGrant (x : Tile) (due : Due) (s : State) : Out := spanSyl x [rGrant, rWrite] true false due .grant s

/-- The word a THAWT gives: DONE is set when the core has the completion message (R242, R243). -/
def Core.refresh (c : Core) (w : Word) : Word :=
  let done := w.toNat % 256 ≠ 0 || w.getLsbD 8 || c.thawDone.contains (w.toNat / 2 ^ 32)
  if done then w ||| 256#64 else w
/-- THAWT (R243): its word is on time. -/
def execThawt (q : Fin 16) (s : State) : Out :=
  sylS [] (fun s =>
    let c := s.core
    let go (c : Core) (w : Word) (thaw : Bool) (hs : Option (Fin 16 × HReg)) : Core :=
      let c := c.land q w thaw hs
      if thaw then c.setQ q (.outstanding (c.issued + 1) 0 true (some ⟨c.refresh w, none⟩)) else c.trap .orphanWait
    match c.readQ q with
    | .orphan => s.fail .orphanWait
    | .short => s.fail .stallShort
    | .wait => s.modCore Core.stop
    | .word w t hs => { s with core := go c w t hs }) s

end Sys2Proof.Machine
end

