-- ==== Sys2Proof/Machine/Store.lean ====
section
/-! DEFINITION. What the homes do with bytes (R202 to R205, R209, R214, R230, R316 to R324, R350, R351): tile cells, reads and
writes of elements with their poison, stored pages and their charges, the object cache's frames, line encodings. -/
namespace Sys2Proof.Machine

/-! ### Cells of a tile (R214, R222) -/

/-- The index of dimension r-2 that tile row k uses. -/
def Req.rowIx (r : Req) (k : Nat) : Nat :=
  match r.op with
  | .gather l => l.getD k 0
  | .scatter l => l.getD k 0
  | _ => r.origin.getD (r.origin.length - 2) 0 + k
/-- The coordinates of element e of tile row k. -/
def Req.cell (r : Req) (k e : Nat) : List Nat :=
  let n := r.origin.length
  if n ≤ 1 then r.origin.map (· + e)
  else r.origin.take (n - 2) ++ [r.rowIx k, r.origin.getD (n - 1) 0 + e]
/-- Elements of a tile row. -/
def Req.width (r : Req) (o : Obj) : Nat := r.rowB * 8 / elemBits o.fmt
/-- The cells of a tile row, in order. -/
def Req.rowCells (r : Req) (o : Obj) (k : Nat) : List (List Nat) := (List.range (r.width o)).map (r.cell k)
/-- The cells of a tile that lie within the dimensions. -/
def Req.cells (r : Req) (o : Obj) : List (List Nat) :=
  ((List.range r.rows).map (r.rowCells o)).flatten.filter fun p => inDims p o.dims
/-- The byte numbers those cells touch. -/
def Req.bytes (r : Req) (o : Obj) : List Nat := ((r.cells o).map o.elemBytes).flatten
/-- The object pages of byte numbers. -/
def pagesOf (bs : List Nat) : List Nat := (bs.map (· / 65536)).eraseDups
/-- The bytes of in-bounds elements, as BFETCH and BSTORE count them (R272). -/
def Req.payload (r : Req) (o : Obj) : Nat := ((r.cells o).length * elemBits o.fmt + 7) / 8

/-! ### Reading a tile (R205, R220) -/

/-- The byte number that holds bit k of an element. -/
def Obj.bitByte (o : Obj) (at_ : List Nat) (k : Nat) : Nat := o.byteNum at_ ((o.streamBit at_ + k) / 8)
/-- The bytes of element codes laid out in a tile row: T6 packed (R115). -/
def rowBytes (f : Fmt) (codes : List Nat) : List Byte :=
  if f = fmtT6 then packT6 codes else (codes.map (toBytes (fmtKind f).bytes)).flatten
/-- A tile row of a version: its bytes, 0 beyond the dimensions, and for each byte whether it comes from a poisoned
line. -/
def Obj.readRow (o : Obj) (v rowB : Nat) (cs : List (List Nat)) : List Byte × List Bool :=
  let inb (p : List Nat) : Bool := inDims p o.dims
  let bytes := rowBytes o.fmt (cs.map fun p => if inb p then o.readElem v p else 0)
  if o.pages.all fun p => p.res ≠ .poison then (bytes, List.replicate rowB false)
  else
    let w := elemBits o.fmt
    (bytes, (List.range rowB).map fun b => (List.range 8).any fun j =>
      let p := cs.getD ((8 * b + j) / w) []
      inb p && o.poisoned v (o.bitByte p ((8 * b + j) % w)))
/-- The whole tile. -/
def Req.readTile (r : Req) (o : Obj) (v : Nat) : List Byte × List Bool :=
  let rows := (List.range r.rows).map fun k => o.readRow v r.rowB (r.rowCells o k)
  ((rows.map (·.1)).flatten, (rows.map (·.2)).flatten)

/-! ### Writing a tile (R204, R205, R324) -/

/-- One element to write: its place, its code, and whether it comes from a marked scratch line. -/
structure Put where
  at_  : List Nat
  code : Nat
  bad  : Bool
deriving DecidableEq, Repr

/-- The elements that a slot's bytes and marks give for a tile, in bounds only, in row order. -/
def Req.puts (r : Req) (o : Obj) (data : List Byte) (marks : List Bool) : List Put :=
  let w := elemBits o.fmt
  let row (k : Nat) : List Put :=
    let v := ofBytes ((data.drop (k * r.rowB)).take r.rowB)
    (List.range (r.width o)).map fun e =>
      let lo := k * r.rowB + e * w / 8
      let hi := k * r.rowB + (e * w + w - 1) / 8
      ⟨r.cell k e, v / 2 ^ (w * e) % 2 ^ w, (List.range (hi - lo + 1)).any fun j => marks.getD (lo + j) false⟩
  ((List.range r.rows).map row).flatten.filter fun p => inDims p.at_ o.dims

/-- A page's poison map with lines marked and lines cleared; a page whose map becomes empty leaves POISON. -/
def Page.mark (p : Page) (bad good : List Nat) : Page :=
  let mine (l : Nat) : Bool := l / 512 = p.num
  let lost := ((if p.res = .poison then p.lost else []).filter fun l => !good.contains l) ++ (bad.filter mine)
  let lost := lost.eraseDups
  if lost = [] then { p with res := p.tier, lost := [] }
  else { p with res := .poison, lost := lost, low := p.tier = .lpddr }
/-- The poison map of a version's pages after a write: `bad` lines become poisoned, `good` lines are clean. -/
def Obj.markLines (o : Obj) (v : Nat) (bad good : List Nat) : Obj :=
  let pages := ((bad ++ good).map (· / 512)).eraseDups
  pages.foldl (fun o n => match o.pageAt v n with
    | some p => o.modPage p.ver n fun q => q.mark bad good
    | none => o) o
/-- The lines of byte numbers. -/
def linesOf (bs : List Nat) : List Nat := (bs.map (· / 128)).eraseDups
/-- The lines every bit of which is among the written bits; an element that is written twice counts once. -/
def Obj.wholeLines (o : Obj) (ps : List Put) : List Nat :=
  let bits := ((ps.map (·.at_)).eraseDups.map fun p => (List.range (elemBits o.fmt)).map (o.bitByte p)).flatten
  (linesOf bits).filter fun l => (List.range 128).all fun j => bits.count (128 * l + j) = 8
/-- The poisoned lines among some lines are expanded as 128 zero bytes before a merge (R324). -/
def Obj.expandLost (o : Obj) (v : Nat) (ls : List Nat) : Obj :=
  (ls.filter fun l => o.poisoned v (128 * l)).foldl
    (fun o l => o.putBytes v ((List.range 128).map fun j => (128 * l + j, 0))) o
/-- Elements written into a version: codes, then the poison of the lines written from marked bytes; a line wholly
written from clean bytes is cleared. -/
def Obj.putElems (o : Obj) (v : Nat) (ps : List Put) : Obj :=
  let clean := o.pages.all fun p => p.res ≠ .poison
  let o := if clean then o else o.expandLost v (linesOf (ps.map fun p => o.elemBytes p.at_).flatten)
  let o := ps.foldl (fun o p => o.writeElem v p.at_ p.code) o
  let bad := linesOf ((ps.filter (·.bad)).map fun p => o.elemBytes p.at_).flatten
  if bad = [] && (o.pages.all fun p => p.res ≠ .poison) then o
  else o.markLines v bad ((o.wholeLines ps).filter fun l => !bad.contains l)

/-! ### Stored pages and charges (R230, R316) -/

/-- The timestamp rounded down to the aging interval (R317). -/
def State.stamp (s : State) : Nat := s.ts / 2 ^ 20 * 2 ^ 20
/-- Some plot of the chain would pass its nonzero HBMB with n more pages (R218, R230). -/
def State.overBudget (s : State) (plot n : Nat) : Bool :=
  (s.ancestors plot).any fun p => p.hbmb ≠ 0 && p.hbmb < p.hbmuse + n * Config.pageBytes
/-- n pages charged to a plot: HBMUSE of it and its ancestors counts them. -/
def State.charge (s : State) (plot n : Nat) : State :=
  { s with lastCharge := if n = 0 then s.lastCharge else plot }.modChain plot fun p => p.add 384 48 (n * Config.pageBytes)
/-- n pages no longer charged. -/
def State.uncharge (s : State) (plot n : Nat) : State := s.modChain plot fun p => p.sub 384 48 (n * Config.pageBytes)
/-- The free HBM pages of a die: those of the pool that are not taken; the reserved areas are no part of the pool. -/
def State.freeHbm (s : State) (die : Nat) : Nat := Config.pagesPerDie - Config.reservedPages die - countOf die s.hbmUsed
/-- A place for one new page: the die's own HBM, another die's, or the LPDDR tier (R316). -/
def State.place (s : State) (die : Nat) : Option (Residency × Nat) :=
  match (die :: (List.range 8).filter (· ≠ die)).find? fun d => 0 < s.freeHbm d with
  | some d => some (.hbm, d)
  | none => if s.lpddrUsed < Config.lpddrPages then some (.lpddr, die) else none
/-- One page taken in a tier. -/
def State.takePage (s : State) (res : Residency) (die : Nat) : State :=
  match res with
  | .hbm => { s with hbmUsed := bump die 1 s.hbmUsed }
  | .lpddr => { s with lpddrUsed := s.lpddrUsed + 1 }
  | _ => s
/-- One page given back, with the place that a move in progress has taken for it (R318) or its copy (R353). -/
def State.dropPage (s : State) (p : Page) : State :=
  let s := s.uncharge p.charge 1
  let hbm (s : State) : State := { s with hbmUsed := updFirst (fun e => e.1 = p.die) (fun e => (e.1, e.2 - 1)) s.hbmUsed }
  let lpddr (s : State) : State := { s with lpddrUsed := s.lpddrUsed - 1 }
  match p.tier with
  | .lpddr => if p.moving then hbm (lpddr s) else lpddr s
  | .absent => if p.copy then lpddr s else s
  | .peer => s
  | _ => if p.moving then hbm (lpddr s) else hbm s
/-- New pages of a version, numbered from `n`, placed from a die and charged to a plot; none when the pool has no room
(NOMEM). -/
def State.newPages (s : State) (ver plot die : Nat) : List Nat → Option (State × List Page)
  | [] => some (s, [])
  | n :: ns =>
    match s.place die with
    | none => none
    | some (res, d) =>
      ((s.takePage res d).newPages ver plot die ns).map fun r =>
        (r.1, ⟨ver, n, plot, res, [], s.stamp, 0, d, false, false, false, false⟩ :: r.2)
/-- The stored pages that no listed version of the object uses any more are freed (R230). -/
def State.sweepPages (s : State) (home index : Nat) : State :=
  match s.objAt home index with
  | none => s
  | some o =>
    let used (p : Page) : Bool := o.vers.any fun v => match o.pageAt v.num p.num with
      | some q => q.ver = p.ver
      | none => false
    let gone := o.pages.filter fun p => !used p
    let s := gone.foldl (fun s p => s.mlcDrop home index p.ver p.num) s
    gone.foldl State.dropPage (s.modObj home index fun o => { o with pages := o.pages.filter used })
/-- The shadow pages that writing these page numbers of the pending version needs (R230). -/
def Obj.newShadows (o : Obj) (v : Nat) (ns : List Nat) : List Nat :=
  if o.live then [] else ns.filter fun n => match o.pageAt v n with | some p => p.ver ≠ v | none => true

/-- An access to a page of a version stamps it (R317); a second read in consecutive intervals asks for promotion from
the LPDDR tier (R318). -/
def State.touchPage (s : State) (home index v : Nat) (read : Bool) (n : Nat) : State :=
  match s.objAt home index with
  | none => s
  | some o =>
    match o.pageAt v n with
    | none => s
    | some p =>
      let now := s.ts / 2 ^ 20 + 2
      let again := read && p.res = .lpddr && p.reads + 1 = now
      let s := s.modObj home index fun o => o.modPage p.ver n fun p =>
        { p with stamp := s.stamp, reads := if read then now else p.reads }
      if again then s.later 0 (.pagePromotion ⟨home, index, p.ver, n⟩) else s

/-! ### The object cache (R209, R350, R351) -/

/-- A line of a page that is the task's to hold under a kind of R209 other than a cast: of its own grain, of a version it has pinned, or
of its pending version. -/
def Obj.ownLine (o : Obj) (c : Core) (p : Party) (v line : Nat) : Bool :=
  let mine (wr : Bool) : Bool := (List.finRange 16).any fun h =>
    let r := c.rh h
    r.opened && handleHome r.handle = o.home && handleIndex r.handle = o.index && r.write = wr && r.ver.toNat = v
  if o.live then (o.grains.any fun g => g.g = line / 4 && g.owner = p) && !o.lines.any fun l => l.line / 2 = line
  else mine false || mine true
/-- A line may be held under one of the kinds of R209. -/
def Obj.mayCache (o : Obj) (c : Core) (p : Party) (v line : Nat) : Bool := o.frozenAt v (line / 512) || o.ownLine c p v line
/-- A line may be allocated: no cast is formed while its page moves (R318). -/
def Obj.mayAlloc (o : Obj) (c : Core) (p : Party) (v line : Nat) : Bool := o.castable v [line / 512] ≠ [] || o.ownLine c p v line
/-- A frame that holds a line of a version. -/
def OFrame.holds (home index ver line : Nat) (f : OFrame) : Bool := f.home = home && f.index = index && f.ver = ver && f.line = line
/-- The recency that a use gives: later than that of every frame. -/
def Core.recent (c : Core) : Nat := (c.frames.map (·.used)).foldl max 0 + 1
/-- A line that the cache holds is used (R350). -/
def Core.useLine (home index ver : Nat) (dirty : Bool) (c : Core) (line : Nat) : Core :=
  { c with frames := updFirst (OFrame.holds home index ver line) (fun f => { f with used := c.recent, dirty := f.dirty || dirty }) c.frames }
/-- A line enters the cache or is used again: the free frame of lowest offset, else the least recently used one, whose line is written
back first if it is dirty. -/
def Core.cacheLine (home index ver : Nat) (dirty : Bool) (c : Core) (line : Nat) : Core :=
  if c.frames.any (OFrame.holds home index ver line) then c.useLine home index ver dirty line
  else
    let now := c.recent
    let lo := (c.scrlim + 127) / 128
    match ((List.range (4096 - lo)).map (lo + ·)).find? fun k => !c.frames.any (·.frame = k) with
    | some k => { c with frames := c.frames ++ [⟨k, home, index, ver, line, now, dirty⟩] }
    | none =>
      match c.frames.foldl (fun b f => match b with
          | none => some f
          | some g => if f.used < g.used then some f else some g) none with
      | none => c
      | some old => { c with frames := c.frames.map fun f => if f.frame = old.frame then ⟨f.frame, home, index, ver, line, now, dirty⟩ else f }
/-- The lines that no kind holds any longer are dropped. -/
def State.sweepFrames (s : State) (p : Party) : State :=
  let keep (c : Core) (f : OFrame) : Bool := match s.objAt f.home f.index with
    | some o => o.mayCache c p f.ver f.line
    | none => false
  s.modParty p fun c => { c with frames := c.frames.filter (keep c) }
/-- The same for every member of a task. -/
def State.sweepTask (s : State) (p : Party) : State :=
  let mem : List Nat := s.cores.filterMap fun c => match c.task with | some t => if t.inst = p.inst then some t.member else none | none => none
  mem.foldl (fun s k => s.sweepFrames { p with mem := k }) s
/-- The dirty lines of a core are written back: the bytes are at the home as each store left them (assumption log 40), so what the
core keeps is that the lines are clean (R209). -/
def Core.cleanFrames (c : Core) : Core := { c with frames := c.frames.map fun f => { f with dirty := false } }
/-- The dirty lines of a party are written back, before a release of its task (R209). -/
def State.cleanParty (s : State) (p : Party) : State := s.modParty p Core.cleanFrames
/-- A request's lines enter its core's object cache, in ascending byte number, where R209 allows it; those that it wrote are dirty. -/
def State.cacheTile (s : State) (r : Req) (o : Obj) (v : Nat) (dirty : Bool) : State :=
  s.modParty r.party fun c =>
    ((linesOf (r.bytes o)).filter fun l => o.mayAlloc c r.party v l).mergeSort.foldl (Core.cacheLine o.home o.index v dirty) c
/-- A request that allocates nothing uses the lines that its core's object cache holds. -/
def State.useTile (s : State) (r : Req) (o : Obj) (v : Nat) : State :=
  s.modParty r.party fun c => (linesOf (r.bytes o)).mergeSort.foldl (Core.useLine o.home o.index v false) c
/-- A request's lines leave its core's object cache (R220, .NOALLOC). -/
def State.uncacheTile (s : State) (r : Req) (o : Obj) : State :=
  let ls := linesOf (r.bytes o)
  s.modParty r.party fun c =>
    { c with frames := c.frames.filter fun f => !(f.home = o.home && f.index = o.index && ls.contains f.line) }

end Sys2Proof.Machine
end

