-- ==== Sys2Proof/Machine/Home.lean ====
section
/-! DEFINITION. The homes (R203 to R208, R213, R218 to R227, R237 to R245, R329): the order of a task's requests, late checks
and late faults, the performance of object requests, fills, pushes, collectives, landings. -/
namespace Sys2Proof.Machine

/-! ### Links to other packages (R325, R340 to R343) -/

/-- The virtual channel of a message: requests, responses, invalidations and casts, barrier and ballot messages (none is among these
contents), collectives (R340). -/
def linkChannel : LinkBody → Fin 5
  | .reply _ _ | .lines _ _ | .ack _ => 1
  | .invalidate _ | .castAck _ _ => 2
  | .collJoin _ _ _ _ _ _ => 4
  | _ => 0
/-- Whether a package stands in this package's rack. -/
def State.sameRack (s : State) (pkg : Nat) : Bool := pkg / 128 = s.pkg / 128
/-- The channel of a message to or from a package: across racks all messages of a pair keep one order (R341). -/
def State.chanOf (s : State) (pkg : Nat) (b : LinkBody) : Fin 5 := if s.sameRack pkg then linkChannel b else 0
/-- The lanes a link port still runs on: 16, or the 8 of one half, or none (R343). -/
def State.portLanes (s : State) (port : Nat) : Nat :=
  let bad (hi : Bool) : Bool := s.errors.any fun e => e.gone && match e.res with | .lane p l => p = port && (decide (8 ≤ l) == hi) | _ => false
  (if bad false then 0 else 8) + (if bad true then 0 else 8)
/-- The port through which a package is reached: of the 18 Swigal ports of the rack's switches, or the two Ethernet ports across racks,
the first that still runs, from a place of the package's own on (DESIGN CHOICE, assumption log 62). -/
def State.portTo (s : State) (pkg : Nat) : Option Nat :=
  ((if s.sameRack pkg then (List.range 18).map fun k => (pkg + k) % 18 else (List.range 2).map fun k => 18 + (pkg + k) % 2)).find?
    fun p => s.portLanes p ≠ 0
def State.modPeer (s : State) (pkg : Nat) (f : Peer → Peer) : State :=
  { s with peers := s.peers.map fun p => if p.pkg = pkg then f p else p }
/-- A message put on a link; none goes out when no port runs. -/
def State.putPacket (s : State) (pkg seq : Nat) (b : LinkBody) : State :=
  match s.portTo pkg with
  | some p => { s with outbox := s.outbox ++ [⟨pkg, p, (s.chanOf pkg b).val, seq, b⟩] }
  | none => s
/-- A message with the next sequence number for its receiver: it stays until it is acknowledged, and is sent again after 8,000 ns
(R341). -/
def State.post (s : State) (pkg : Nat) (b : LinkBody) : State :=
  match s.peers.find? fun q => q.pkg = pkg with
  | none => s
  | some p =>
    let s := s.modPeer pkg fun q => { q with sendSeq := q.sendSeq + 1, unacked := q.unacked ++ [⟨q.sendSeq, s.ts, b⟩] }
    (s.putPacket pkg p.sendSeq b).after (s.cyclesIn 8000) 0 (.linkRetransmit pkg p.sendSeq)
/-- A peer that this package has not known before is greeted with its handshake (R325). -/
def State.meet (s : State) (pkg : Nat) : State :=
  if s.peers.any fun q => q.pkg = pkg then s
  else ({ s with peers := s.peers ++ [(⟨pkg, 0, [], Vector.replicate 5 0, false, false⟩ : Peer)] } : State).post pkg (.hello true)
/-- A message sent to a peer. -/
def State.sendPeer (s : State) (pkg : Nat) (b : LinkBody) : State := (s.meet pkg).post pkg b

/-! ### Answers and late faults (R207, R215, R255, R301) -/

/-- A status word (R215): code in [7:0], value above. -/
def statusWord (code value : Nat) : Word := BitVec.ofNat 64 (code + value * 256)
def stOK : Nat := 0
def stBUSY : Nat := 1
def stNOMEM : Nat := 2
def stQUOTA : Nat := 3
def stSTALE : Nat := 4
def stDENIED : Nat := 5
def stINVALID : Nat := 6
def stTIMEOUT : Nat := 7

/-- The task member of a party, on its core or saved. -/
def State.taskCore (s : State) (p : Party) : Option Core :=
  match s.coreOf p with
  | some c => some c
  | none => (s.saved.find? fun v => match v.core.task with | some t => t.inst = p.inst && t.member = p.mem | none => false).map
      (·.core)
/-- The request the latch names. -/
def State.req (s : State) : Option Req := s.reqs.find? fun r => r.id = s.subj
def State.modReq (s : State) (id : Nat) (f : Req → Req) : State := { s with reqs := updFirst (fun r => r.id = id) f s.reqs }
/-- A performed request that lands nothing. -/
def State.finish (s : State) (id : Nat) : State := { s with reqs := s.reqs.filter fun r => r.id ≠ id }
/-- A performed request whose word is on its way. -/
def State.answer (s : State) (id : Nat) (l : Landing) : State :=
  (s.modReq id fun r => { r with phase := .answered l }).later id .landingArrival
/-- A status word without a new h-register. -/
def State.status (s : State) (id code value : Nat) : State := s.answer id ⟨statusWord code value, none⟩
/-- It must wait: it is tried again in the next cycle. -/
def State.retry (s : State) (r : Req) (i : Instr) : State := s.again r.id i

/-- The slot of a late fault; an engine wait's comes first. -/
def State.lateSlot (s : State) (e : Nat × Nat) : Nat :=
  match s.reqs.find? fun r => r.id = e.2 with | some r => r.slot.bit | none => 0
/-- The order of late faults: by cycle, then by slot, then by issue (R301). -/
def State.lateBefore (s : State) (e x : Nat × Nat) : Bool :=
  decide (e.1 < x.1) || (e.1 = x.1 && (decide (s.lateSlot e < s.lateSlot x) || (s.lateSlot e = s.lateSlot x && decide (e.2 < x.2))))
/-- A late fault recorded in its place. -/
def insertLate (before : Nat × Nat → Nat × Nat → Bool) (e : Nat × Nat) : List (Nat × Nat) → List (Nat × Nat)
  | [] => [e]
  | x :: r => if before e x then e :: x :: r else x :: insertLate before e r
/-- A request leaves the collective that it has joined; one without participants is over (R207, R226). -/
def State.unjoin (s : State) (id : Nat) : State :=
  let less (k : Coll) : Coll := { k with joined := k.joined.filter fun j => j.req ≠ id }
  if s.colls.any fun k => k.joined.any fun j => j.req = id then
    { s with colls := (s.colls.map less).filter fun k => k.joined ≠ [] } else s
/-- A request takes a late fault: it has no effect, and its task's core stops at its next bundle boundary. A request
whose task has ended is dropped. -/
def State.lateFail (s : State) (r : Req) (k : Cause) : State :=
  match s.taskCore r.party with
  | none => s.finish r.id
  | some _ =>
    let s := (s.modReq r.id fun r => { r with phase := .failed k, failedAt := s.cycle }).unjoin r.id
    let before := s.lateBefore
    s.modParty r.party fun c => { c with late := insertLate before (s.cycle, r.id) c.late }

/-- LANDING_ARRIVAL (R255): the word reaches its landing slot; it is dropped when the task has ended. A word for another
package's party goes there as a message. The landing of a request that was held follows the completion messages on their way to
its core (R355; assumption log 105). -/
def execLandingArrival (s : State) : Out :=
  match s.req with
  | none => .next s
  | some r =>
    let told (e : Event) : Bool := match e.instr with | .thawCompleteMsg k _ => k = r.core | _ => false
    match r.phase, r.q with
    | .answered l, some q =>
      if r.arr ≠ 0 && s.agenda.any told then .next (s.retry r .landingArrival)
      else .next ((s.finish r.id).modParty r.party fun c =>
        match c.rq q with
        | .outstanding due id thaw none => if id = r.id then c.setQ q (.outstanding due id thaw (some l)) else c
        | _ => c)
    | .answered l, none =>
      .next (if r.party.pkg = s.pkg then s.finish r.id else (s.finish r.id).sendPeer r.party.pkg (.reply r.bundle l.word))
    | _, _ => .next s

/-! ### The order of one task's requests (R227, R236, R241, R249, R259, R264, R354) -/

/-- Requests that read or write object bytes. -/
def ReqOp.reads : ReqOp → Bool
  | .fetch _ => true | .gather _ => true | .copyo _ _ _ _ => true | .coll _ => true | .atom _ _ _ _ => true | .ldsync _ => true
  | _ => false
def ReqOp.writes : ReqOp → Bool
  | .store _ => true | .scatter _ => true | .copyo _ _ _ _ => true | .coll k => k ≠ .bc | .atom _ _ _ _ => true | .red _ _ _ => true
  | .stsync _ _ => true | .barinit _ => true
  | _ => false
/-- ACQ, ACQREL and REL, ACQREL of R264. -/
def ordAcq : Ord → Bool
  | .acq => true | .acqrel => true | _ => false
def ordRel : Ord → Bool
  | .rel => true | .acqrel => true | _ => false
/-- The acquires of R247. -/
def ReqOp.acquires : ReqOp → Bool
  | .openH w => !w | .subsc _ => true | .pin => true | .grant => true | .coll _ => true | .atom _ o _ _ => ordAcq o
  | .ldsync a => a | .barw _ => true | .bread => true
  | _ => false
/-- The releases of R247 that cover every earlier write. -/
def ReqOp.releases : ReqOp → Bool
  | .publ => true | .atom _ o _ _ => ordRel o | .red _ r _ => r | .stsync r _ => r | .barr => true | .bpost _ _ => true
  | _ => false
/-- Requests that access no object: no byte of theirs is shared, and no release covers them. -/
def ReqOp.aside : ReqOp → Bool
  | .push _ _ _ _ _ => true
  | _ => false

/-- The rank of a package among the set bits of PEERS (R226). -/
def Obj.peerRank (o : Obj) (pkg : Nat) : Nat := ((List.range (pkg % 128)).filter fun k => o.peers / 2 ^ k % 2 = 1).length
/-- The request with the tuple of a rank's part (R226, .AG). -/
def Req.shifted (r : Req) (o : Obj) (rank : Nat) : Req :=
  { r with origin := (List.range r.origin.length).map fun k =>
      r.origin.getD k 0 + (if k = o.shdim then rank * o.shblk else 0) }
/-- The bytes a request touches, by object: a COLL.AG those of every rank's part, a COPYO those of its source by the source's own
dimensions (R225, R226). -/
def State.touches (s : State) (r : Req) : List (Nat × Nat × List Nat) :=
  match s.objAt r.home r.index with
  | none => []
  | some o =>
    match r.op with
    | .fetch _ => [(r.home, r.index, r.bytes o)]
    | .store _ => [(r.home, r.index, r.bytes o)]
    | .gather _ => [(r.home, r.index, r.bytes o)]
    | .scatter _ => [(r.home, r.index, r.bytes o)]
    | .coll .ag => [(r.home, r.index, ((List.range o.shn).map fun k => (r.shifted o k).bytes o).flatten)]
    | .coll _ => [(r.home, r.index, r.bytes o)]
    | .copyo h i _ _ => (r.home, r.index, r.bytes o) :: match s.objAt h i with | some p => [(h, i, r.bytes p)] | none => []
    | .atom _ _ _ _ => [(r.home, r.index, o.elemBytes (coordsOf o.dims r.n))]
    | .red _ _ _ => [(r.home, r.index, o.elemBytes (coordsOf o.dims r.n))]
    | .ldsync _ => [(r.home, r.index, o.elemBytes (coordsOf o.dims r.n))]
    | .stsync _ _ => [(r.home, r.index, o.elemBytes (coordsOf o.dims r.n))]
    | .barinit _ => [(r.home, r.index, List.range 64)]
    | _ => []
/-- Two requests touch a common byte. -/
def shareBytes (a b : List (Nat × Nat × List Nat)) : Bool :=
  a.any fun x => b.any fun y => x.1 = y.1 && x.2.1 = y.2.1 && x.2.2.any fun n => y.2.2.contains n
/-- Two requests touch a common chunk (R250). -/
def shareChunk (a b : List (Nat × Nat × List Nat)) : Bool :=
  a.any fun x => b.any fun y => x.1 = y.1 && x.2.1 = y.2.1 && x.2.2.any fun n => y.2.2.any fun m => n / 32 = m / 32
/-- A request that acts on an object, or reads it as the source of a copy. -/
def Req.uses (e : Req) (home index : Nat) : Bool :=
  (e.home = home && e.index = index) || match e.op with | .copyo h i _ _ => h = home && i = index | _ => false
/-- The sync line a Y request acts on. -/
def State.lineOf (s : State) (r : Req) : Option (Nat × Nat × Nat) :=
  match r.op, s.objAt r.home r.index with
  | .atom _ _ _ _, some o => some (r.home, r.index, r.n * elemBits o.fmt / 512)
  | .red _ _ _, some o => some (r.home, r.index, r.n * elemBits o.fmt / 512)
  | .ldsync _, some o => some (r.home, r.index, r.n * elemBits o.fmt / 512)
  | .stsync _ _, some o => some (r.home, r.index, r.n * elemBits o.fmt / 512)
  | .barinit _, some _ => some (r.home, r.index, 0)
  | .barr, some _ => some (r.home, r.index, 0)
  | .barw _, some _ => some (r.home, r.index, 0)
  | .bpost _ _, some _ => some (r.home, r.index, 0)
  | .bread, some _ => some (r.home, r.index, 0)
  | _, _ => none
/-- A request that is still to be performed, or an acquire whose late fault leaves it to be performed by its replay (R264). -/
def Req.ahead_ (e : Req) : Bool :=
  match e.phase with | .sent => true | .waiting => true | .failed _ => e.op.acquires | _ => false
/-- CLOSE ends the ownership of a grain granted through its register, which is a release (R244, R247). -/
def State.endsGrain (s : State) (r : Req) : Bool :=
  match r.op, s.objAt r.home r.index with
  | .close, some o => o.grains.any fun g => g.owner.sameTask r.party && g.h = r.h
  | _, _ => false
/-- A release that covers writes of its task, or the wait of FREEZE (R241, R247). -/
def State.isRelease (s : State) (r : Req) : Bool :=
  r.op.releases || match r.op with
    | .freeze => true
    | .coll _ => true
    | .close => s.endsGrain r
    | _ => false
/-- Whether an earlier request `e` is still to be waited for by `r`: until it is performed, or to the end of the cycle of its late fault
(R354); beyond that only an acquire, which its replay performs (R264), and a write that failed no longer by the releases that cover it
nor by FREEZE. -/
def State.aheadOf (s : State) (e r : Req) : Bool :=
  match e.phase with
  | .sent => true
  | .waiting => true
  | .failed _ => s.cycle = e.failedAt || (e.op.acquires && !(e.op.writes && s.isRelease r))
  | _ => false
/-- Whether an earlier request `e` of the same task must be performed before `r`: acquires hold every later one (R264); common
bytes, chunks that both read and lines keep their order (R227, R250, R259); releases wait for what they cover and for every
earlier read (R249); the end of a register or of an object waits for the requests that use it (R216, R219). -/
def State.precedes (s : State) (e r : Req) : Bool :=
  let same := e.home = r.home && e.index = r.index
  e.op.acquires ||
  (!(r.op.aside || e.op.aside) &&
    (shareBytes (s.touches e) (s.touches r) || (e.op.reads && r.op.reads && shareChunk (s.touches e) (s.touches r)) ||
    (match s.lineOf e, s.lineOf r with | some a, some b => a = b | _, _ => false) ||
    (r.op.releases && (e.op.reads || e.op.writes)) ||
    (match r.op with
      | .publ => !e.op.isY
      | .close => (e.uses r.home r.index && !e.op.isY) || (s.endsGrain r && (e.op.reads || (same && e.op.writes)))
      | .free => e.uses r.home r.index && !e.op.isY
      | .freeze => e.op.reads || (same && e.op.writes)
      | .coll _ => e.op.reads || (same && e.op.writes)
      | _ => false)))
/-- A request that must still wait for an earlier one of its task. -/
def State.mustWait (s : State) (r : Req) : Bool :=
  (s.reqsOf r.party).any fun e => decide (e.id < r.id) && s.aheadOf e r && s.precedes e r

/-! ### Pages: freezing, moves, residency, host-shared granules (R204, R238, R318, R329) -/

def Obj.frzAt (o : Obj) (n : Nat) : Option Frz := o.frz.find? fun z => z.page = n
def Obj.frozen (o : Obj) (n : Nat) : Bool := match o.frzAt n with | some z => decide (0 < z.count) | none => false
def Obj.thawing (o : Obj) (n : Nat) : Bool := match o.frzAt n with | some z => z.thawing | none => false
/-- Whether a request is held at a home on one of some pages of an object (R238, R318). -/
def State.holdsPage (s : State) (e : Req) (home index : Nat) (ns : List Nat) : Bool :=
  let span := match e.op, s.objAt e.home e.index with
    | .freeze, some o => [(e.home, e.index, e.bytes o)]
    | .grant, some o => [(e.home, e.index, e.bytes o)]
    | _, _ => s.touches e
  e.phase = .waiting && !e.absent && span.any fun x => x.1 = home && x.2.1 = index && (pagesOf x.2.2).any ns.contains
/-- Whether a place in arrival order `arr` (0: it arrives now) stands behind a request or a host write that is held on one of
some pages. -/
def State.behindHeld (s : State) (id arr home index : Nat) (ns : List Nat) : Bool :=
  (s.reqs.any fun e => e.id ≠ id && e.arr ≠ 0 && (arr = 0 || decide (e.arr < arr)) && s.holdsPage e home index ns) ||
  s.hostHeld.any fun e => (arr = 0 || decide (e.arr < arr)) && e.home = home && e.index = index && e.pages.any ns.contains
/-- Pages that are THAWING hold the requests that change them, and pages that move hold the writes; those held before go first,
page by page (R238, R318). A FREEZE or GRANT (`moves` false) does not wait for a move, nor for what a move holds. -/
def State.heldAt (s : State) (r : Req) (o : Obj) (ns : List Nat) (moves : Bool) (v : Nat) : Bool :=
  (ns.any fun n => o.thawing n || (moves && o.movingAt v n)) ||
  s.behindHeld r.id r.arr r.home r.index (if moves then ns else ns.filter fun n => !o.movingAt v n)
/-- A held request takes its place in arrival order. -/
def State.takePlace (s : State) (r : Req) (absent : Bool) : State :=
  if r.arr = 0
  then { s.modReq r.id (fun r => { r with phase := .waiting, arr := s.nextReq, absent := absent }) with nextReq := s.nextReq + 1 }
  else s.modReq r.id fun r => { r with absent := absent }
def State.hold (s : State) (r : Req) (i : Instr) : State := (s.takePlace r false).retry r i
/-- Whether a place in arrival order `arr` (0: it arrives now) stands behind a request, or a peer's read, that waits for one of some
pages to be resolved (R353). -/
def State.behindAbsent (s : State) (id arr home index : Nat) (ns : List Nat) : Bool :=
  (s.reqs.any fun e => e.id ≠ id && e.arr ≠ 0 && (arr = 0 || decide (e.arr < arr)) && e.phase = .waiting && e.absent &&
    (s.touches e).any fun x => x.1 = home && x.2.1 = index && (pagesOf x.2.2).any ns.contains) ||
  s.heldReads.any fun e => (arr = 0 || decide (e.arr < arr)) && e.home = home && e.index = index && e.pages.any ns.contains
/-- A request that waits for an ABSENT page takes its place in arrival order too (R353). -/
def State.holdAbsent (s : State) (r : Req) (i : Instr) : State := (s.takePlace r true).retry r i
/-- ABSENT pages of a version among some: the object manager is asked once to resolve each (R204). -/
def State.missing (s : State) (o : Obj) (v : Nat) (ns : List Nat) : Option State :=
  let ps := ns.filterMap fun n => match o.pageAt v n with | some p => if p.res = .absent then some p else none | none => none
  if ps = [] then none
  else some (ps.foldl (fun s p =>
    let i : Instr := .objMissingResolve ⟨o.home, o.index, p.ver, p.num⟩
    if s.agenda.any fun e => e.instr = i then s else s.later 0 i) s)
/-- What keeps a request from some pages of a version: an ABSENT page, whose resolution is asked for, or a request that waits there for
the same and came before it (R204, R353). -/
def State.missingFor (s : State) (r : Req) (o : Obj) (v : Nat) (ns : List Nat) : Option State :=
  match s.missing o v ns with
  | some s => some s
  | none => if s.behindAbsent r.id r.arr o.home o.index ns then some s else none

/-- The granules of a host-shared object that byte numbers touch (R329). -/
def Obj.granules (o : Obj) (bs : List Nat) : List GranuleRef :=
  if o.hostsh then ((bs.map (· / 2097152)).eraseDups).map fun g => ⟨o.home, o.index, g⟩ else []
def State.granuleAt (s : State) (g : GranuleRef) : Granule :=
  (s.granules.find? fun x => x.at_ = g).getD ⟨g, false, 0, false, [], []⟩
def State.setGranule (s : State) (x : Granule) : State :=
  { s with granules := (s.granules.filter fun y => y.at_ ≠ x.at_) ++ [x] }
/-- An access by the host. -/
def GranuleAccess.host : GranuleAccess → Bool
  | .device _ => false
  | .command _ => false
  | _ => true
/-- The ACCELERATOR may access a granule now; an access that was held keeps its place behind the host's held before it. -/
def State.granuleOpen (s : State) (a : GranuleAccess) (g : GranuleRef) : Bool :=
  let x := s.granuleAt g
  x.accel && !x.moving && !(x.queue.contains a && (x.queue.takeWhile (· ≠ a)).any GranuleAccess.host)
/-- An access of the device to a granule it may not use now is held there, and asks for the transfer. -/
def State.askGranule (s : State) (a : GranuleAccess) (g : GranuleRef) : State :=
  let x := s.granuleAt g
  if s.granuleOpen a g || x.queue.contains a then s
  else (s.setGranule { x with queue := x.queue ++ [a] }).later 0 (.granuleTenureExpiry g)

/-! ### The engines' storage (R253, R254) -/

def Obj.lineAt (o : Obj) (m : Nat) : Option SyncLine := o.lines.find? fun l => l.line = m
/-- A held line written or taken up. -/
def Obj.setLine (o : Obj) (l : SyncLine) : Obj := { o with lines := (o.lines.filter fun k => k.line ≠ l.line) ++ [l] }
/-- A line as its engine holds it, or as it enters its engine: with no record, no barrier line and no ballot line. -/
def Obj.lineRec (o : Obj) (m : Nat) : SyncLine := (o.lineAt m).getD ⟨m, none, none, none, 0, false⟩
/-- The die whose engine performs the synchronising accesses to a line (R253). -/
def Obj.syncDie (o : Obj) (m : Nat) : Nat := (o.index + m) % 8
/-- An ordinary held line: no barrier line and no ballot line. -/
def SyncLine.plain (l : SyncLine) : Bool := l.bar.isNone && l.ballot.isNone
/-- The entries of a die's engine: of its 16 ways of 4,096 entries those that are not fenced (R343; DESIGN CHOICE, assumption log 123). -/
def State.syncEntries (s : State) (die : Nat) : Nat := Config.syncEntries - 4096 * countOf (8 + die) s.ways
/-- The held lines of a die's engine, with their objects. -/
def State.engineLines (s : State) (die : Nat) : List (Obj × SyncLine) :=
  (s.objs.map fun o => (o.lines.filter fun l => o.syncDie l.line = die).map fun l => (o, l)).flatten
/-- A line that never leaves its engine's SRAM: a barrier line, a ballot line, or one with a waiting request. -/
def State.lineStays (s : State) (o : Obj) (l : SyncLine) : Bool :=
  !l.plain || s.reqs.any fun r => r.phase = .waiting && r.home = o.home && r.index = o.index && r.n * elemBits o.fmt / 512 = l.line
/-- A displaced line goes to the overflow area with its record; when the pool cannot supply the area, it is written back and its
record becomes empty. -/
def State.displace (s : State) (die : Nat) (o : Obj) (l : SyncLine) : State :=
  let out (s : State) : State := s.modObj o.home o.index fun o => o.setLine { l with out := true }
  if ((s.engineLines die).filter fun x => x.2.out).length < Config.overflowLines * countOf die s.overflow then out s
  else if 0 < s.freeHbm die then
    out { s with hbmUsed := bump die 1 s.hbmUsed, overflow := bump die 1 s.overflow }
  else s.modObj o.home o.index fun o => { o with lines := o.lines.filter fun k => k.line ≠ l.line }
/-- An access to a held line brings it to its engine's SRAM as the most recent; the least recently used line that may leave makes
room for it. -/
def State.touchLine (s : State) (home index m : Nat) : State :=
  match s.objAt home index with
  | none => s
  | some o =>
    let die := o.syncDie m
    let now := ((s.engineLines die).map fun x => x.2.used).foldl max 0 + 1
    let s := s.modObj home index fun o => { o with lines := updFirst (fun l => l.line = m) (fun l => { l with used := now, out := false }) o.lines }
    let inside := (s.engineLines die).filter fun x => !x.2.out
    if inside.length ≤ s.syncEntries die then s
    else match (inside.filter fun x => !s.lineStays x.1 x.2 && !(x.1.home = home && x.1.index = index && x.2.line = m)).foldl
        (fun (b : Option (Obj × SyncLine)) x => match b with
          | none => some x
          | some y => if x.2.used < y.2.used then some x else some y) none with
      | some x => s.displace die x.1 x.2
      | none => s
/-- Every access to bytes of held lines is performed at the engine, by whatever instruction it is made (R253): it brings the lines back
and makes them the most recent. -/
def State.touchLines (s : State) (home index : Nat) (bs : List Nat) : State :=
  match s.objAt home index with
  | none => s
  | some o => ((bs.map (· / 64)).eraseDups.filter fun m => o.lines.any (·.line = m)).foldl (fun s m => s.touchLine home index m) s

/-! ### Late checks of a write (R207, R220, R238) -/

/-- What the home answers to a write of some byte numbers. -/
inductive WriteAnswer
  | go (s : State)
  | fault (k : Cause)
  | held

/-- A new page with the poison of the page that it copies; it lies in its own tier (R204, R316). -/
def Page.poisonedAs (p q : Page) : Page :=
  if q.res = .poison then { p with res := .poison, lost := q.lost, low := p.res = .lpddr } else p
/-- The late checks in order, for a write by request `r` to `bs` of object `o`; `needOwn` where R244 asks the party to own
the grains, otherwise the grains must be unowned. Shadow pages are allocated when it may go on. -/
def State.writeCheck (s : State) (r : Req) (o : Obj) (bs : List Nat) (needOwn : Bool) : WriteAnswer :=
  let ns := pagesOf bs
  let v := o.verOf r.reg
  if o.gen ≠ r.gen then .fault .objRights
  else if ns.any o.frozen then .fault .writeFrozen
  else if s.heldAt r o ns true v then .held
  else if o.live && (bs.any fun b => match o.grains.find? fun g => g.g = b / 512 with
      | some g => !g.owner.sameTask r.party || !needOwn
      | none => needOwn) then .fault .grainConflict
  else
    let shadows := o.newShadows v ns
    if shadows ≠ [] && s.overBudget r.party.plot shadows.length then .fault .quota
    else match s.newPages v r.party.plot (dieOf r.core) shadows with
      | none => .fault .quota
      | some (s, ps) =>
        let ps := ps.map fun p => match o.pageAt v p.num with
          | some q => p.poisonedAs q
          | none => p
        .go ((s.charge r.party.plot ps.length).modObj o.home o.index fun o => { o with pages := o.pages ++ ps })

/-- BFETCH and BSTORE of the requesting task (R272). -/
def State.countFetch (s : State) (r : Req) (o : Obj) : State :=
  s.modParty r.party fun c => { c with task := c.task.map fun t => { t with bfetch := t.bfetch + r.payload o } }
def State.countStore (s : State) (r : Req) (o : Obj) : State :=
  s.modParty r.party fun c => { c with task := c.task.map fun t => { t with bstore := t.bstore + r.payload o } }

/-- The write proper, once the checks pass: the elements, the counts and the object cache. -/
def State.writeTile (s : State) (r : Req) (ps : Obj → List Put) : State :=
  match s.objAt r.home r.index with
  | none => s
  | some o =>
    let v := o.verOf r.reg
    let s := s.modObj r.home r.index fun o => o.putElems v (ps o)
    let s := (pagesOf (r.bytes o)).foldl (fun s n => s.touchPage r.home r.index v false n) s
    let s := s.mlcTouch (r.op ≠ .store true) (some (dieOf r.core)) o.home o.index v (r.bytes o)
    (s.touchLines o.home o.index (r.bytes o)).countStore r o

/-! ### The slot of a furrow as a request sees it (R213) -/

/-- The bytes and marks of the slot a request took. -/
def State.slotData (s : State) (r : Req) : List Byte × List Bool :=
  match r.cap, s.taskCore r.party, r.furrow with
  | some d, _, _ => d
  | none, some c, some f =>
    let g := c.rf f
    let a := g.slotAt r.fslot
    (c.scrBytes a g.slotsz, (List.range g.slotsz).map fun k => c.marked ((a + k) / 128))
  | _, _, _ => ([], [])
/-- The slot a request took is popped, and a remote producer hears of every slot that becomes free. -/
def State.popSlot (s : State) (r : Req) : State :=
  match s.taskCore r.party, r.furrow with
  | some c, some f =>
    (s.modParty r.party fun c => c.modF f fun g => g.popTaken r.id).returnSlots c f (((c.rf f).popTaken r.id).free - (c.rf f).free)
  | _, _ => s
/-- The slot a request claimed is to be filled with bytes and marks; its step comes after a free delay. -/
def State.startFill (s : State) (r : Req) (d : List Byte × List Bool) : State :=
  (s.modReq r.id fun r => { r with phase := .filling d.1 d.2 }).later r.id .slotFilled
/-- The slot of a request is written, all of it in this step: an early read of its bytes returns the old ones until then (R213; DESIGN
CHOICE, assumption log 121). It is counted in claim order at the end of the cycle. -/
def State.fillSlot (s : State) (r : Req) (data : List Byte) (marks : List Bool) : State :=
  match r.furrow with
  | none => s
  | some f => s.modParty r.party fun c =>
      let a := (c.rf f).slotAt r.fslot
      let c := (c.fillBytes a data marks).modF f fun g => g.fillClaim r.id
      if c.run = .saving then c.modF f Furrow.settle else c.fx (.settle f)

/-- SLOT_FILLED (R205, R213): every byte of the slot has arrived. -/
def execSlotFilled (s : State) : Out :=
  match s.req with
  | none => .next s
  | some r =>
    match r.phase with
    | .filling data marks =>
      let s := s.fillSlot r data marks
      match r.q with
      | none => .next (s.finish r.id)
      | some _ => .next (s.status r.id r.fin 0)
    | _ => .next s

/-! ### Transfers (R220 to R222, R224, R225) -/

/-- The memory-side cache and the object cache after a read of a tile, by its modifier (R209, R220, R319). -/
def State.cacheRead (s : State) (r : Req) (o : Obj) (v : Nat) (mod : FetchMod) : State :=
  let s := (pagesOf (r.bytes o)).foldl (fun s n => s.touchPage o.home o.index v true n) s
  let s := s.touchLines o.home o.index (r.bytes o)
  let s := if mod = .noalloc then s else s.formCasts o v (pagesOf (r.bytes o)) .here
  let s := s.mlcTouch (mod ≠ .noalloc) (some (dieOf r.core)) o.home o.index v (r.bytes o)
  match s.objAt o.home o.index with
  | some o => if mod = .plain then s.cacheTile r o v false else s.useTile r o v
  | none => s

/-- The device's side of a host-shared object: the access waits while any granule is not the ACCELERATOR's. -/
def State.granuleWait (s : State) (a : GranuleAccess) (o : Obj) (bs : List Nat) : Option State :=
  let gs := o.granules bs
  if gs.all (s.granuleOpen a) then none else some (gs.foldl (fun s g => s.askGranule a g) s)

/-- A read of a tile at its home: the tile is read whole in this step, whatever else is under way (DESIGN CHOICE, assumption log 90). -/
def State.readAt (s : State) (r : Req) (o : Obj) (v : Nat) (i : Instr) (mod : FetchMod) : State :=
  let bs := r.bytes o
  let ns := pagesOf bs
  if o.gen ≠ r.gen then s.lateFail r .objRights
  else match s.granuleWait (.device r.id) o bs with
    | some s => s.retry r i
    | none =>
      match s.missingFor r o v ns with
      | some s => s.holdAbsent r i
      | none =>
        let s := (s.cacheRead r o v mod).countFetch r o
        (s.modReq r.id fun r => { r with casts := mod ≠ .noalloc && o.castable v ns ≠ [] }).startFill r (r.readTile o v)

/-- A write of a tile at its home from bytes and marks; `also` is what a COPYO's source makes it wait for, once the late checks of the
destination are passed (R207). -/
def State.writeAt (s : State) (r : Req) (o : Obj) (i : Instr) (also : State → Option State) (d : State → List Byte × List Bool)
    (done : State → State) : State :=
  let bs := r.bytes o
  match s.granuleWait (.device r.id) o bs with
  | some s => s.retry r i
  | none =>
    match s.writeCheck r o bs true with
    | .fault k => s.lateFail r k
    | .held => s.hold r i
    | .go s' =>
      match (s.missingFor r o (o.verOf r.reg) (pagesOf bs)).orElse fun _ => also s with
      | some s => s.holdAbsent r i
      | none =>
        let data := d s'
        done (s'.writeTile r fun o => r.puts o data.1 data.2)

/-! ### Grains and freezing (R237 to R245) -/

/-- The grains of in-bounds elements of the tile. -/
def Req.grains (r : Req) (o : Obj) : List Nat := ((r.bytes o).map (· / 512)).eraseDups
/-- Grains owned by a party end (R244). -/
def Obj.endGrains (o : Obj) (which : Grain → Bool) : Obj := { o with grains := o.grains.filter fun g => !which g }

/-- FREEZE at the home (R241). The ownership of the span's grains ends, with their cached lines, before the pages are frozen (R351). A
barrier or ballot line stays at its engine, with its scope record (DESIGN CHOICE, assumption log 122). -/
def State.freezeAt (s : State) (r : Req) (o : Obj) (i : Instr) : State :=
  let ns := pagesOf (r.bytes o)
  let mine (g : Grain) : Bool := g.owner.sameTask r.party
  let inSpan (g : Grain) : Bool := ns.contains (g.g / 128)
  if o.gen ≠ r.gen then s.lateFail r .objRights
  else if o.hostsh then s.status r.id stINVALID 0
  else if o.pwrt ≠ 0 && o.pages.any fun p => decide (o.curv < p.ver) && ns.contains p.num then s.status r.id stBUSY 1
  else if o.live && o.grains.any fun g => inSpan g && !mine g then s.status r.id stBUSY 2
  else if ns.any fun n => match o.frzAt n with | some z => 255 ≤ z.count | none => false then s.status r.id stINVALID 0
  else if s.heldAt r o ns false (if o.live then 0 else o.curv) then s.hold r i
  else
    let s := s.cleanParty r.party
    let s := (s.modObj o.home o.index fun o => o.endGrains fun g => inSpan g && mine g).sweepTask r.party
    let s := s.modObj o.home o.index fun o =>
      let old := ns.filter fun n => (o.frzAt n).isSome
      let new := ns.filter fun n => (o.frzAt n).isNone
      { o with
        frz := (o.frz.map fun z => if old.contains z.page then { z with count := z.count + 1 } else z) ++
          new.map fun n => ⟨n, 1, false, [], [], [], []⟩
        lines := o.lines.filter fun l => !(l.plain && ns.contains (l.line / 1024)) }
    s.status r.id stOK ns.length

/-- The thaw tokens that are complete: no page still holds them; the core of each hears of it after a transit (R243, R355). -/
def State.tokensDone (s : State) (ts : List (Nat × Nat)) : State :=
  (ts.filter fun t => !s.objs.any fun o => o.frz.any fun z => z.tokens.contains t).foldl
    (fun s t => s.later 0 (.thawCompleteMsg t.2 t.1)) s
/-- A page whose last acknowledgement has come becomes OPEN and its presence vector is cleared (R239). -/
def State.openPage (s : State) (home index n : Nat) : State :=
  match s.objAt home index with
  | none => s
  | some o =>
    match o.frzAt n with
    | none => s
    | some z =>
      (s.modObj home index fun o => { o with frz := o.frz.filter fun y => y.page ≠ n }).tokensDone z.tokens
/-- One page's count falls (R238): it becomes THAWING, or OPEN at once when the presence vector is empty. -/
def Frz.lower (z : Frz) (token core : Nat) : Frz :=
  if 1 < z.count then { z with count := z.count - 1 }
  else { z with count := 0, thawing := true, awaited := z.presence, tokens := z.tokens ++ [(token, core)] }
/-- THAW at the home (R242). -/
def State.thawAt (s : State) (r : Req) (o : Obj) : State :=
  let ns := pagesOf (r.bytes o)
  if o.gen ≠ r.gen then s.lateFail r .objRights
  else if ns.any fun n => !o.frozen n then s.answer r.id ⟨BitVec.ofNat 64 (stINVALID + 256), none⟩
  else
    let zero := ns.filter fun n => match o.frzAt n with | some z => z.count = 1 | none => false
    let slow := zero.filter fun n => match o.frzAt n with | some z => z.presence ≠ [] | none => false
    let s := s.modObj o.home o.index fun o => { o with frz :=
      (o.frz.map fun z => if ns.contains z.page then z.lower s.token r.core else z).filter fun z =>
        !(z.thawing && z.awaited = []) }
    let places := slow.map fun n => match o.frzAt n with
      | some z => z.presence.map fun p => ((⟨o.home, o.index, o.curv, n⟩ : PageRef), p)
      | none => []
    let s := places.flatten.foldl (fun s p => s.later 0 (.castInvalidate p.1 p.2)) s
    let fin := if slow = [] then 256 else 0
    let word := BitVec.ofNat 64 (s.token * 2 ^ 32 + (if zero = [] then 0 else 512) + fin + stOK)
    { s with token := (s.token + 1) % 2 ^ 32 + (if (s.token + 1) % 2 ^ 32 = 0 then 1 else 0) }.answer r.id ⟨word, none⟩

/-- GRANT at the home (R245). -/
def State.grantAt (s : State) (r : Req) (o : Obj) (i : Instr) : State :=
  let gs := r.grains o
  let ns := pagesOf (r.bytes o)
  if o.gen ≠ r.gen then s.lateFail r .objRights
  else if o.grains.any fun g => gs.contains g.g && !g.owner.sameTask r.party then s.status r.id stBUSY 1
  else if ns.any o.frozen then s.status r.id stBUSY 2
  else if s.heldAt r o ns false 0 then s.hold r i
  else
    let new := gs.filter fun n => !o.grains.any fun g => g.g = n
    (s.modObj o.home o.index fun o => { o with grains := o.grains ++ new.map fun n => ⟨n, r.party, r.h⟩ }).status r.id stOK
      new.length

/-- This package drops its casts of a page: in its cast directory and in every object cache. -/
def State.dropCasts (s : State) (p : PageRef) : State :=
  let s := { s with
    localCasts := s.localCasts.filter fun q => !(q.home = p.home && q.index = p.index && q.page = p.page)
    mlc := s.mlc.filter fun m => !(m.cast && m.home = p.home && m.index = p.index && m.line / 512 = p.page) }
  s.mapCores fun c => match c.task with
    | some t => { c with frames := c.frames.filter fun f => !(f.home = p.home && f.index = p.index && f.line / 512 = p.page &&
        match s.objAt p.home p.index with
        | some o => !o.mayCache c ⟨s.pkg, dieOf c.id, t.inst, t.member, t.plot⟩ f.ver f.line
        | none => true) }
    | none => { c with frames := c.frames.filter fun f => !(f.home = p.home && f.index = p.index && f.line / 512 = p.page) }
/-- A fill of this package that was resolved while a page was FROZEN is in flight (R239). -/
def State.castFill (s : State) (p : PageRef) : Bool :=
  s.reqs.any fun r => match r.phase, s.objAt p.home p.index with
    | .filling _ _, some o => r.casts && r.uses p.home p.index && (pagesOf (r.bytes o)).contains p.page
    | _, _ => false
/-- The place that this package is for a peer, and the place that a peer is for this package (R237). -/
def State.placeFor (s : State) (pkg : Nat) : CastPlace := if s.sameRack pkg then .position (s.pkg % 128) else .rack (s.pkg / 128)
def State.placeOf (s : State) (pkg : Nat) : CastPlace := if s.sameRack pkg then .position (pkg % 128) else .rack (pkg / 128)
/-- CAST_INVALIDATE (R239): a place drops its casts of a page and then acknowledges, to this package's home or by a message to another
package's, once the fills in flight that may form one are complete. Other packages drop theirs by a message; a rack answers as one place, after all of its packages. -/
def execCastInvalidate (p : PageRef) (place : CastPlace) (s : State) : Out :=
  match place with
  | .here =>
    if s.castFill p then .next (s.again 0 (.castInvalidate p .here))
    else if p.home = s.pkg then .next ((s.dropCasts p).later 0 (.thawAck p .here))
    else .next ((s.dropCasts p).sendPeer p.home (.castAck p (s.placeFor p.home)))
  | .position n => .next (s.sendPeer (s.pkg / 128 * 128 + n) (.invalidate p))
  | .rack n =>
    let there := (s.peers.filter fun q => q.pkg / 128 = n).map (·.pkg)
    let s := s.modObj p.home p.index fun o =>
      { o with frz := o.frz.map fun z => if z.page = p.page then { z with racks := z.racks ++ there } else z }
    if there = [] then .next (s.later 0 (.thawAck p place))
    else .next (there.foldl (fun s k => s.sendPeer k (.invalidate p)) s)
/-- One package has acknowledged: a listed rack acknowledges once all of its packages have (R239). -/
def State.packageAck (s : State) (pkg : Nat) (p : PageRef) (place : CastPlace) : State :=
  match place with
  | .rack n =>
    let s := s.modObj p.home p.index fun o =>
      { o with frz := o.frz.map fun z => if z.page = p.page then { z with racks := z.racks.filter (· ≠ pkg) } else z }
    let more : Bool := match s.objAt p.home p.index with
      | some o => (match o.frzAt p.page with | some z => z.racks.any fun k => k / 128 = n | none => false)
      | none => false
    if more then s else s.after 0 0 (.thawAck p place)
  | _ => s.after 0 0 (.thawAck p place)
/-- THAW_ACK (R239): the page becomes OPEN when the last acknowledgement has come. -/
def execThawAck (p : PageRef) (place : CastPlace) (s : State) : Out :=
  let s := s.modObj p.home p.index fun o => { o with frz := o.frz.map fun z =>
    if z.page = p.page then { z with awaited := z.awaited.filter (· ≠ place) } else z }
  match s.objAt p.home p.index with
  | none => .next s
  | some o =>
    match o.frzAt p.page with
    | some z => if z.thawing && z.awaited = [] then .next (s.openPage p.home p.index p.page) else .next s
    | none => .next s
/-- THAW_COMPLETE_MSG (R243, R355): the record of completion messages is the task's; a token is the home's own number, so
the message reaches the task wherever it runs. -/
def execThawCompleteMsg (core token : Nat) (s : State) : Out :=
  let got (c : Core) : Core := if c.thawDone.contains token then c else { c with thawDone := c.thawDone ++ [token] }
  let keep (v : Saved) : Saved := { v with core := got v.core }
  let s := { s with saved := s.saved.map keep }
  let holds (c : Core) : Bool := c.id = core || allQ.any fun q => match c.rq q with
    | .landed w true => w.toNat / 2 ^ 32 = token
    | .outstanding _ _ true (some l) => l.word.toNat / 2 ^ 32 = token
    | _ => false
  .next (s.mapCores fun c => if holds c then got c else c)

/-! ### ALLOC, INFO, FREE (R217 to R219) -/

/-- The refusals of a request block (R218); `hostsh` where OBJ_CREATE allows it (R333). -/
def badForm (form d01 d23 d45 : Nat) (hostsh : Bool) : Bool :=
  let f := form % 32
  let scale := form / 32 % 256
  let rank := form / 2 ^ 13 % 8
  let dim (k : Nat) : Nat := (if k < 2 then d01 else if k < 4 then d23 else d45) / 2 ^ (32 * (k % 2)) % 2 ^ 32
  form / 2 ^ 20 ≠ 0 || (form / 2 ^ 19 % 2 = 1 && !hostsh) || rank = 0 || rank = 7 ||
  fmtKind (BitVec.ofNat 5 f) = .reserved || f = 31 || (form / 2 ^ 16 % 2 = 1 && rank = 1) ||
  (scale ≠ 0 && !(fmtKind (BitVec.ofNat 5 f)).scaled) ||
  (List.range 6).any fun k => if k < rank then dim k = 0 else dim k ≠ 0
/-- The entry of a new object (R200, R218). -/
def newEntryBits (form d01 d23 d45 gen ownp ownr tenr : Nat) : BitVec 1024 :=
  BitVec.ofNat 1024 (gen + 2 ^ 14 + form / 2 ^ 13 % 8 * 2 ^ 15 + form % 32 * 2 ^ 18 + form / 32 % 256 * 2 ^ 23 +
    form / 2 ^ 16 % 2 * 2 ^ 31 + form / 2 ^ 17 % 2 * 2 ^ 32 + form / 2 ^ 18 % 2 * 2 ^ 33 + form / 2 ^ 19 % 2 * 2 ^ 34 +
    d01 * 2 ^ 64 + d23 * 2 ^ 128 + d45 * 2 ^ 192 + ownr * 2 ^ 640 + tenr * 2 ^ 647 + ownp * 2 ^ 654)
/-- A table entry whose object was freed and whose storage is released: VALID 0, and the GEN that the next object there takes. -/
def Obj.vacant (o : Obj) : Bool := !o.valid && o.vers.isEmpty
/-- A table index of this package that no object uses: the object manager's choice (assumption log 5). -/
def State.freshIndex (s : State) : Nat :=
  let start := 1 + Config.freshGap s.freeCtr % 2 ^ 32
  match ((List.range (s.objs.length + 1)).map (start + ·)).find? fun k =>
    match s.objAt s.pkg k with | some o => o.vacant | none => true with
  | some k => k
  | none => start
/-- An object takes its table entry. -/
def State.putObj (s : State) (o : Obj) : State :=
  { s with objs := (s.objs.filter fun (x : Obj) => !(x.home = o.home && x.index = o.index)) ++ [o] }
/-- A map object of the object manager, of n bytes: no plot's subtree holds a right to it (R201). The rest of its shape is this model's
(DESIGN CHOICE, assumption log 109). -/
def mapEntry (n gen : Nat) : BitVec 1024 := newEntryBits (2 + 2 ^ 13 + 2 ^ 17) n 0 0 gen 0 0 0
/-- A new map object of n bytes and its handle. -/
def State.newMap (s : State) (n : Nat) : State × Word :=
  let index := s.freshIndex
  let gen := match s.objAt s.pkg index with | some o => o.gen | none => Config.freshGap (s.freeCtr + 1) % 2 ^ 14
  let o : Obj := { home := s.pkg, index := index, entry := mapEntry n gen, vers := [⟨0, .current, 0, [], none⟩], pages := [],
                   frz := [], grains := [], lines := [], maker := none }
  ({ s with freeCtr := s.freeCtr + 2 }.putObj o, mkHandle s.pkg index gen)
/-- The maps of a new object of n pages: freeze counts, one byte a page; residency; for a LIVE object grain owners (R200, R201). -/
def State.addMaps (s : State) (home index n : Nat) (live : Bool) : State :=
  let f := s.newMap n
  let r := f.1.newMap n
  let g := if live then r.1.newMap n else (r.1, 0)
  g.1.modObj home index fun o => ((o.setE 896 64 f.2.toNat).setE 576 64 r.2.toNat).setE 960 64 g.2.toNat
/-- The maps of an object whose storage is released go with it. -/
def State.dropMaps (s : State) (o : Obj) : State :=
  ([o.fmap, o.rmap, o.gmap].filter fun h => handleIndex h ≠ 0).foldl (fun s h =>
    s.modObj (handleHome h) (handleIndex h) fun m => { (m.setE 14 1 0).setE 0 14 (m.gen + 1) with vers := [] }) s
/-- A new object on this package; the status code on failure. -/
def State.create (s : State) (form d01 d23 d45 : Nat) (charged die ownp ownr tenr : Nat) (maker : Option Nat) (hostsh : Bool) :
    Except Nat (State × Word) :=
  if badForm form d01 d23 d45 hostsh then .error stINVALID
  else
    let index := s.freshIndex
    let gen := match s.objAt s.pkg index with | some o => o.gen | none => Config.freshGap (s.freeCtr + 1) % 2 ^ 14
    let s := { s with freeCtr := s.freeCtr + 2 }
    let o : Obj := { home := s.pkg, index := index, entry := newEntryBits form d01 d23 d45 gen ownp ownr tenr,
                     vers := [⟨0, .current, 0, [], none⟩], pages := [], frz := [], grains := [], lines := [], maker := maker }
    let n := o.pageCount
    if s.overBudget charged n then .error stQUOTA
    else if Config.lpddrPages - s.lpddrUsed + ((List.range 8).map s.freeHbm).sum < n then .error stNOMEM
    else match s.newPages 0 charged die (List.range n) with
      | none => .error stNOMEM
      | some (s, ps) =>
        let s := (s.charge charged n).putObj { o with pages := ps }
        .ok (s.addMaps s.pkg index n o.live, mkHandle s.pkg index gen)
/-- ALLOC and ALLOCX at the object manager (R218, R315). -/
def State.allocAt (s : State) (r : Req) (form d01 d23 d45 : Word) (root : Bool) : State :=
  let top := s.rootOf r.party.plot
  match s.create form.toNat d01.toNat d23.toNat d45.toNat (if root then top else r.party.plot) (dieOf r.core) top 127 0
      (some r.party.inst) false with
  | .error k => s.status r.id k 0
  | .ok (s, h) => s.answer r.id ⟨h, none⟩

/-- The word of an INFO query (R217). -/
def infoWord (o : Obj) (q : InfoQ) (ver : BitVec 32) : Word :=
  match q with
  | .form => BitVec.ofNat 64 (o.fmt.toNat + o.scale * 2 ^ 5 + o.rank * 2 ^ 13 + boolBit o.tiled * 2 ^ 16 +
      boolBit o.live * 2 ^ 17 + boolBit o.comp * 2 ^ 18 + boolBit o.hostsh * 2 ^ 19)
  | .dim01 => BitVec.ofNat 64 (o.dim 0 + o.dim 1 * 2 ^ 32)
  | .dim23 => BitVec.ofNat 64 (o.dim 2 + o.dim 3 * 2 ^ 32)
  | .dim45 => BitVec.ofNat 64 (o.dim 4 + o.dim 5 * 2 ^ 32)
  | .ver => BitVec.ofNat 64 (o.curv + ver.toNat * 2 ^ 32)
  | .pages => BitVec.ofNat 64 (o.pageCount % 2 ^ 48)

/-- Whether any register of any task holds an object open. -/
def State.openAnywhere (s : State) (home index : Nat) : Bool :=
  let holds (c : Core) : Bool := (List.finRange 16).any fun h =>
    let r := c.rh h
    r.opened && handleHome r.handle = home && handleIndex r.handle = index
  s.cores.any holds || s.saved.any fun v => holds v.core
/-- The storage of a freed object is released once no register holds it, no request is to be performed and no page is
frozen (R219). Its table entry stays, so that its old handles stay stale (R199). -/
def State.release (s : State) (home index : Nat) : State :=
  match s.objAt home index with
  | none => s
  | some o =>
    if o.valid || o.vacant || s.openAnywhere home index || (o.frz.any fun z => decide (0 < z.count) || z.thawing) ||
       s.reqs.any fun r => r.uses home index && r.ahead_ then s
    else
      let s := (o.pages.foldl State.dropPage s).dropMaps o
      { s with granules := s.granules.filter fun g => !(g.at_.home = home && g.at_.index = index)
               mlc := s.mlc.filter fun m => !(m.home = home && m.index = index) }.modObj home index fun o =>
        { o with vers := [], pages := [], frz := [], grains := [], lines := [] }
/-- The storage of every freed object that nothing holds any longer is released (R219). -/
def State.sweepFreed (s : State) : State :=
  (s.objs.filter fun o => !o.valid && !o.vacant).foldl (fun s o => s.release o.home o.index) s
/-- VALID becomes 0 and GEN advances (R219). -/
def State.freeObj (s : State) (home index : Nat) : State :=
  (s.modObj home index fun o => (o.setE 14 1 0).setE 0 14 (o.gen + 1)).release home index

/-! ### Closing a register at the home (R216, R229, R231, R234, R244) -/

/-- A request that is still to read a version of an object: it is performed against the version it resolved, so the version's
bytes stay until then (R208, R216, R234). -/
def Req.readsVer (r : Req) (home index v : Nat) : Bool :=
  (match r.phase with | .sent => true | .waiting => true | .failed _ => true | _ => false) &&
  match r.op with
  | .fetch _ => r.home = home && r.index = index && r.reg.ver.toNat = v
  | .gather _ => r.home = home && r.index = index && r.reg.ver.toNat = v
  | .coll .bc => r.home = home && r.index = index && r.reg.ver.toNat = v
  | .copyo h i _ w => h = home && i = index && w.toNat = v
  | _ => false
/-- A retained version of an object without pins that no request is still to read. -/
def State.staleVer (s : State) (o : Obj) : Bool :=
  o.vers.any fun x => x.st = .retained && x.pins = 0 && !s.reqs.any fun r => r.readsVer o.home o.index x.num
/-- The retained versions of an object without pins are freed, with their pages, once no request is still to read them (R229,
R230). -/
def State.sweepVers (s : State) (home index : Nat) : State :=
  (s.modObj home index fun o => { o with vers := o.vers.filter fun x =>
      !(x.st = .retained && x.pins = 0 && !s.reqs.any fun r => r.readsVer home index x.num) }).sweepPages home index
/-- The same for every object that a step has left with such a version (R229). -/
def State.sweepStale (s : State) : State := (s.objs.filter s.staleVer).foldl (fun s o => s.sweepVers o.home o.index) s
/-- One pin of a version is released; a retained version without pins is freed (R229). -/
def State.unpinVer (s : State) (home index v : Nat) : State :=
  (s.modObj home index fun o =>
    let o := o.modVer v fun x => { x with pins := x.pins - 1 }
    if v = o.curv then o.setE 832 32 (o.pinc - 1) else o.setE 864 32 (field o.entry 864 32 - 1)).sweepVers home index
/-- The pending version is abandoned and its shadow pages are freed (R231). -/
def State.abandon (s : State) (home index : Nat) : State :=
  (s.modObj home index fun o => { o.setPwrt 0 with vers := o.vers.filter fun x => x.st ≠ .pending }).sweepPages home index
/-- What closing a register does at its object: the pin, the pending version, the grains granted through it. -/
def State.closeReg (s : State) (p : Party) (h : Fin 16) (r : HReg) : State :=
  if !r.opened then s
  else
    let home := handleHome r.handle
    let index := handleIndex r.handle
    match s.objAt home index with
    | none => s
    | some o =>
      let s := if o.live then s
        else if r.write then
          (if o.vers.any fun x => x.st = .pending && x.writer = some p then s.abandon home index else s)
        else if r.ver = unpinned then s else s.unpinVer home index r.ver.toNat
      let s := s.cleanParty p
      let s := s.modObj home index fun o => o.endGrains fun g => g.owner.sameTask p && g.owner.mem = p.mem && g.h = h
      (s.sweepFrames p).release home index
/-- FREE at the home (R219): it closes the register too. -/
def State.freeAt (s : State) (r : Req) : State :=
  ((s.finish r.id).freeObj r.home r.index).closeReg r.party r.h r.reg

/-! ### Collectives (R226) -/

/-- The sum of one element over all contributions (R119, R226): integers wrap, floats round once; RAW, of which the spec says only
that it is for bitwise operations and moves (R107), is added as a 32-bit unsigned integer (DESIGN CHOICE, assumption log 81). -/
def collSum (f : Fmt) (codes : List Nat) : Nat :=
  match fmtKind f with
  | .int _ n => codes.sum % 2 ^ (8 * n)
  | .flt t => roundTo t .rne 0 (sumVals .rne (codes.map fun c => valOf (fmtKind f) 0 c))
  | _ => codes.sum % 2 ^ (8 * (fmtKind f).bytes)
/-- The elements a completed collective writes. -/
def Coll.puts (k : Coll) (o : Obj) (r : Req) : List Put :=
  match k.kind with
  | .bc => []
  | .ag => (k.joined.map fun j => (r.shifted o j.rank).puts o j.data j.marks).flatten
  | .red =>
    let all := k.joined.map fun j => r.puts o j.data j.marks
    match all with
    | [] => []
    | first :: _ => (List.range first.length).map fun n =>
        let ps := all.filterMap fun l => l[n]?
        let p := first.getD n ⟨[], 0, false⟩
        ⟨p.at_, collSum o.fmt (ps.map (·.code)), ps.any (·.bad)⟩
def State.modColl (s : State) (id : Nat) (f : Coll → Coll) : State := { s with colls := updFirst (fun k => k.id = id) f s.colls }

/-- Neither refusal moves any data: a claimed slot is filled with zeros, a taken one is popped. -/
def State.refuseColl (s : State) (r : Req) (kind : CollKind) (code : Nat) : State :=
  match kind with
  | .bc => (s.modReq r.id fun r => { r with fin := code }).startFill r (List.replicate (r.rows * r.rowB) 0, [])
  | _ => (s.popSlot r).status r.id code 0
/-- One more participant; the last one completes the collective. -/
def State.joined (s : State) (r : Req) (id : Nat) (j : Joined) (last : Bool) : State :=
  let s := (s.modColl id fun (k : Coll) => { k with joined := k.joined ++ [j] }).modReq r.id fun r =>
    { r with phase := .waiting, issued := s.cycle }
  if last then s.later id .collComplete else s.after (s.timeout r.party) r.id .collTimeout

/-- COLL at the home: it joins the open collective of its object, tuple and kind, or opens one. -/
def State.collAt (s : State) (r : Req) (o : Obj) (kind : CollKind) : State :=
  if o.gen ≠ r.gen then s.lateFail r .objRights
  else if o.shn = 0 || o.peers / 2 ^ (s.pkg % 128) % 2 = 0 then s.refuseColl r kind stINVALID
  else
    let rank := o.peerRank s.pkg
    let mine (k : Coll) : Bool := k.home = r.home && k.index = r.index && k.origin = r.origin && k.kind = kind
    match s.colls.find? mine with
    | some k =>
      if k.joined.any fun j => j.rank = rank then s.refuseColl r kind stBUSY
      else
        let d := s.slotData r
        s.joined r k.id (Joined.mk rank r.id d.1 d.2) (k.joined.length + 1 = o.shn)
    | none =>
      let d := s.slotData r
      let id := s.nextReq
      let s := { s with nextReq := s.nextReq + 1, colls := s.colls ++ [Coll.mk id r.home r.index r.origin kind []] }
      s.joined r id (Joined.mk rank r.id d.1 d.2) (o.shn = 1)

end Sys2Proof.Machine
end

