-- ==== Sys2Proof/Machine/Requests.lean ====
section
/-! DEFINITION. OBJECT_REQUEST_PERFORM (R207, R217 to R226, R238 to R245), remote pushes (R223) and the end of collectives
(R226). -/
namespace Sys2Proof.Machine

/-! ### Remote pushes (R223) -/

/-- The party a task-member code names: instance × 8 + member. -/
def State.coded (s : State) (code : Nat) : Option Core :=
  let is (c : Core) : Bool := match c.task with | some t => t.inst * 8 + t.member = code | none => false
  match s.cores.find? is with
  | some c => some c
  | none => (s.saved.find? fun v => is v.core).map (·.core)
/-- Whether the coded task member runs on a core now. -/
def State.codedRuns (s : State) (code : Nat) : Bool :=
  s.cores.any fun c => match c.task with | some t => t.inst * 8 + t.member = code | none => false
def State.modCoded (s : State) (code : Nat) (f : Core → Core) : State :=
  s.modParty ⟨s.pkg, 0, code / 8, code % 8, 0⟩ f
/-- Two cores' tasks have one ROOT. -/
def State.oneRoot (s : State) (a b : Core) : Bool :=
  match a.task, b.task with
  | some t, some u => s.rootOf t.plot = s.rootOf u.plot
  | _, _ => false

/-- The read-out of a PUSHR: the binding is checked first; then the slot's bytes are captured, those of a marked line as 0x00 (R205), and
the slot is popped. A binding
that fails leaves no entry, so that the next PUSHR to the destination creates it anew (DESIGN CHOICE, assumption log 82). -/
def State.pushOut (s : State) (r : Req) (dest f inst : Nat) : State :=
  match s.taskCore r.party, r.furrow with
  | some c, some lf =>
    match s.coded inst with
    | none => s.lateFail r (if inst = 0 then .furrowConfig else .orphanWait)
    | some d =>
      let i : Fin 32 := Fin.ofNat 32 f
      let g := d.rf i
      if !g.init || !g.remote || (g.pbnd && g.pcore ≠ c.id) || g.slotsz ≠ (c.rf lf).slotsz || !s.oneRoot c d then
        (s.lateFail r .furrowConfig).modParty r.party fun c =>
          { c with pushMap := c.pushMap.filter fun m => !(m.core = dest && m.furrow = f) }
      else
        let d := s.slotData r
        let data : List Byte × List Bool := (d.1.zipWith (fun b bad => if bad then 0 else b) d.2, d.2)
        let s := s.modCoded inst fun d => d.modF i fun g => { g with pbnd := true, pcore := c.id }
        ((s.popSlot r).modReq r.id fun r =>
          { r with op := .push dest f inst data.1 data.2, phase := .filling data.1 data.2 }).later r.id .pushArrival
  | _, _ => s.finish r.id

/-- PUSH_ARRIVAL: every byte has landed; the destination's slot is filled in push order. A push to a pre-empted task
waits, and one to a task that has ended takes ORPHAN_WAIT. -/
def execPushArrival (s : State) : Out :=
  match s.req with
  | none => .next s
  | some r =>
    match r.op, r.phase with
    | .push _ f inst _ _, .filling data marks =>
      let earlier := s.reqs.any fun e => decide (e.id < r.id) && e.party = r.party && match e.op, e.phase with
        | .push _ g i _ _, .filling _ _ => g = f && i = inst
        | .push _ g i _ _, .sent => g = f && i = inst
        | _, _ => false
      if (s.coded inst).isNone then .next (s.lateFail r .orphanWait)
      else if earlier || !s.codedRuns inst then .next (s.retry r .pushArrival)
      else
        let i : Fin 32 := Fin.ofNat 32 f
        let s := s.modCoded inst fun c =>
          let g := c.rf i
          ((c.fillBytes (g.slotAt g.tail) data marks).modF i fun g =>
            { g with tail := g.after g.tail 1, free := g.free - 1 }).fx (.fill i 1)
        .next (s.finish r.id)
    | _, _ => .next s

/-- PUSH_SLOT_RETURN: a pop at the destination returns one slot to the producer's mirror. -/
def execPushSlotReturn (producer dest f : Nat) (s : State) : Out :=
  let more (e : PushEntry) : PushEntry := { e with free := min e.slots (e.free + 1) }
  let map (c : Core) : List PushEntry := updFirst (fun e => e.inst = dest && e.furrow = f) more c.pushMap
  let give (c : Core) : Core := if c.id = producer then { c with pushMap := map c } else c
  let keep (v : Saved) : Saved := { v with core := give v.core }
  .next ({ s with saved := s.saved.map keep }.mapCores give)

/-- PUSH_DEST_ENDED: every entry for a task instance that has ended is marked. -/
def execPushDestEnded (tinst : Nat) (s : State) : Out :=
  let mark (e : PushEntry) : PushEntry := if e.inst / 8 = tinst then { e with ended := true } else e
  let note (c : Core) : Core := { c with pushMap := c.pushMap.map mark }
  let keep (v : Saved) : Saved := { v with core := note v.core }
  .next ({ s with saved := s.saved.map keep }.mapCores note)

/-! ### OBJECT_REQUEST_PERFORM -/

/-- The lines of a tile that was written enter the object cache (R209, R221). -/
def State.cacheWritten (s : State) (r : Req) : State :=
  match s.objAt r.home r.index with | some o => s.cacheTile r o (o.verOf r.reg) true | none => s
/-- A request whose object is found. -/
def State.performObj (s : State) (r : Req) (o : Obj) : State :=
  let i : Instr := .objectRequestPerform
  match r.op with
  | .info q ver => if o.gen ≠ r.gen then s.lateFail r .objRights else s.answer r.id ⟨infoWord o q ver, none⟩
  | .free => s.freeAt r
  | .fetch mod => s.readAt r o (o.verOf r.reg) i mod
  | .gather _ => s.readAt r o (o.verOf r.reg) i .plain
  | .store noalloc => s.writeAt r o i (fun _ => none) (fun s => s.slotData r) fun s =>
      let s := s.popSlot r
      (if noalloc then s.uncacheTile r o else s.cacheWritten r).finish r.id
  | .scatter _ => s.writeAt r o i (fun _ => none) (fun s => s.slotData r) fun s => ((s.popSlot r).cacheWritten r).finish r.id
  | .copyo h ix gen ver =>
    match s.objAt h ix with
    | none => s.lateFail r .objRights
    | some p =>
      let v := if p.live then 0 else ver.toNat
      let bs := r.bytes p
      if p.gen ≠ gen then s.lateFail r .objRights
      else match s.granuleWait (.device r.id) p bs with
        | some s => s.retry r i
        | none => s.writeAt r o i (fun s => s.missingFor r p v (pagesOf bs)) (fun _ => r.readTile p v) fun s =>
            (((s.cacheRead r p v .plain).countFetch r p).cacheWritten r).status r.id stOK 0
  | .coll kind => s.collAt r o kind
  | .freeze => s.freezeAt r o i
  | .thaw => s.thawAt r o
  | .grant => s.grantAt r o i
  | _ => s

/-- OBJECT_REQUEST_PERFORM (R207): at the home a request waits for the earlier ones of its task that it must follow,
then passes or fails its late checks, and reads or writes. -/
def execObjectRequestPerform (s : State) : Out :=
  match s.req with
  | none => .next s
  | some r =>
    if !(r.phase = .sent || (r.phase = .waiting && r.arr ≠ 0)) then .next s
    else if s.mustWait r then .next (s.retry r .objectRequestPerform)
    else match r.op with
      | .alloc a b c d root => .next (s.allocAt r a b c d root)
      | .push dest f inst _ _ => .next (s.pushOut r dest f inst)
      | _ => match s.objAt r.home r.index with
        | none => .next (s.lateFail r .objRights)
        | some o => .next (s.performObj r o)

/-! ### The end of a collective (R226) -/

/-- The requests of this package that joined. -/
def State.joiners (s : State) (k : Coll) : List Req :=
  k.joined.filterMap fun j => s.reqs.find? fun r => r.id = j.req
/-- A collective without effect: its participants' slots are zeroed or popped, and a status lands. -/
def State.endColl (s : State) (k : Coll) : State :=
  let s := { s with colls := s.colls.filter fun c => c.id ≠ k.id }
  (s.joiners k).foldl (fun s r => match k.kind with
    | .bc => (s.modReq r.id fun r => { r with fin := stTIMEOUT }).startFill r (List.replicate (r.rows * r.rowB) 0, [])
    | _ => (s.popSlot r).status r.id stTIMEOUT 0) s

/-- The write proper of a completed collective: the elements, and every access to their pages and lines. -/
def State.collWrite (s : State) (r : Req) (o : Obj) (ps : List Put) (bs : List Nat) : State :=
  let s := s.modObj o.home o.index fun o => o.putElems 0 ps
  let s := (pagesOf bs).foldl (fun s n => s.touchPage o.home o.index 0 false n) s
  (s.mlcTouch true (some (dieOf r.core)) o.home o.index 0 bs).touchLines o.home o.index bs
/-- COLL_COMPLETE: the latch names the collective; every package of PEERS has joined. What is written passes the late checks as one write,
and the reads and writes wait as those of its first participant do. -/
def execCollComplete (s : State) : Out :=
  match s.colls.find? fun k => k.id = s.subj with
  | none => .next s
  | some k =>
    match s.joiners k, s.objAt k.home k.index with
    | r :: rs, some o =>
      let gone (s : State) : State := { s with colls := s.colls.filter fun c => c.id ≠ k.id }
      let ps := k.puts o r
      let bs := if k.kind = .bc then r.bytes o else (ps.map fun p => o.elemBytes p.at_).flatten
      let v := o.verOf r.reg
      let wait (s : State) (absent : Bool) : State := (s.takePlace r absent).again k.id .collComplete
      if o.gen ≠ r.gen then .next ((r :: rs).foldl (fun s q => s.lateFail q .objRights) (gone s))
      else match s.granuleWait (.device r.id) o bs with
        | some s => .next (s.again k.id .collComplete)
        | none =>
          match k.kind with
          | .bc =>
            match s.missingFor r o v (pagesOf bs) with
            | some s => .next (wait s true)
            | none =>
              let d := r.readTile o v
              let cast := o.castable v (pagesOf bs) ≠ []
              .next ((r :: rs).foldl (fun s q =>
                (((s.cacheRead q o v .plain).countFetch q o).modReq q.id fun q => { q with casts := cast }).startFill q d) (gone s))
          | _ =>
            match s.writeCheck r o bs false with
            | .fault c => .next ((r :: rs).foldl (fun s q => s.lateFail q c) (gone s))
            | .held => .next (wait s false)
            | .go s' =>
              match s.missingFor r o 0 (pagesOf bs) with
              | some s => .next (wait s true)
              | none => .next ((r :: rs).foldl (fun s q => ((s.countStore q o).popSlot q).status q.id stOK 0)
                  ((gone s').collWrite r o ps bs))
    | _, _ => .next s

/-- COLL_TIMEOUT: the latch names a participant's request; a collective that is not complete ends for all. -/
def execCollTimeout (s : State) : Out :=
  match s.req with
  | none => .next s
  | some r =>
    match s.colls.find? fun k => k.joined.any fun j => j.req = r.id with
    | none => .next s
    | some k =>
      let full : Bool := match s.objAt k.home k.index with | some o => k.joined.length = o.shn | none => false
      if full || s.cycle < r.issued + s.timeout r.party then .next s else .next (s.endColl k)

end Sys2Proof.Machine
end

