-- ==== Sys2Proof/Machine/Sync.lean ====
section
/-! DEFINITION. The Y slot's synchronising instructions and the synchronisation engines (R253 to R264): QCLR, TSTAMP, ATOM,
RED, LDSYNC, STSYNC and SYNC_ACCESS_PERFORM; barriers (R265 to R269). -/
namespace Sys2Proof.Machine

/-! ### Scopes (R257, R258) -/

/-- Whether party q lies in Dom(s, p). -/
def inDom (s : Scope) (p q : Party) : Bool :=
  match s with
  | .core => q.inst = p.inst && q.mem = p.mem
  | .gang => q.inst = p.inst
  | .die => q.pkg = p.pkg && q.die = p.die
  | .package => q.pkg = p.pkg
  | .rack => q.pkg / 128 = p.pkg / 128
  | .system => true
/-- The scope check of an access by p at scope s against a record. -/
def scopeOk (s : Scope) (p : Party) : Option ScopeRec → Bool
  | none => true
  | some k => inDom s p k.party && inDom k.scope k.party p

/-! ### Shapes (R261, R265, R290) -/

/-- The formats of a sync element. -/
def syncFmt (o : Obj) : Bool :=
  match o.kind with
  | .int _ n => n = 4 || n = 8
  | _ => false
/-- The shape of a barrier or a ballot: LIVE, N64, rank 1, DIM0 = 8, LINEAR. -/
def Obj.lineShape (o : Obj) : Bool := o.live && o.fmt = fmtN64 && o.rank = 1 && o.dim 0 = 8 && !o.tiled
def Obj.bar (o : Obj) : Option BarState := (o.lineAt 0).bind (·.bar)
def Obj.ballot (o : Obj) : Option BallotState := (o.lineAt 0).bind (·.ballot)
/-- A 64-bit element of a line-shaped object. -/
def Obj.word (o : Obj) (k : Nat) : Nat := o.readElem 0 [k]
def Obj.setWord (o : Obj) (k v : Nat) : Obj := o.writeElem 0 [k] v

/-! ### QCLR and TSTAMP (R256) -/

/-- QCLR. -/
def execQclr (d : Fin 64) (q : Fin 16) (s : State) : Out :=
  syl [] (fun c =>
    match c.readQ q with
    | .orphan => c.trap .orphanWait
    | .short => c.trap .stallShort
    | .wait => c.stop
    | .word w t hs => ((c.land q w t hs).setQ q .empty).wx 1 d w) s
/-- TSTAMP: Now() at the start of the issue cycle; its word is never late. -/
def execTstamp (due : Due) (s : State) : Out :=
  let now := BitVec.ofNat 64 s.ts
  syl [] (fun c =>
    if c.qBusy due.q then c.hold
    else c.nameQ due 0 false (some ⟨now, none⟩)) s

/-! ### The issue of a synchronising access (R261 to R263) -/

/-- The issue checks of R261 in order, with the rights an instruction needs. -/
def syncCauses (r : HReg) (o : Obj) (n : Nat) : List (Bool × Cause) :=
  let _ := r
  [ (!o.live, .version), (!syncFmt o || o.tiled, .formatMismatch), (o.count ≤ n, .objBounds) ]
/-- A Y request is held while its slot is outstanding or its task has 256 Y requests outstanding (R255, R259). -/
def State.yHold (s : State) (due : Option Due) : Bool :=
  (match due with | some u => s.core.qBusy u.q | none => false) || s.yFull
/-- The shape of ATOM, RED, LDSYNC and STSYNC: `extra` operand registers after x[A]. -/
def syncSyl (scope : Scope) (h : Fin 16) (a : Fin 64) (extra : Nat) (right : Nat) (due : Option Due) (op : Core → ReqOp)
    (s : State) : Out :=
  sylH h (·.yHold due) (fun _ _ => (List.range (extra + 1)).map fun k => .x (xPlus a k).val) (fun r s =>
    s.withObj r [right] fun o =>
      let n := (s.core.rx a).toNat
      s.checked (syncCauses r o n) fun s =>
        let req := { s.mkReq (op s.core) h r with scope := scope, n := n }
        match due with
        | some u => s.sendQ req u false .syncAccessPerform
        | none => s.send req .syncAccessPerform) s

def execAtom (op : AtomOp) (ord : Ord) (scope : Scope) (h : Fin 16) (a : Fin 64) (due : Due) (s : State) : Out :=
  let n := if op = .cas then 2 else 1
  syncSyl scope h a n rAtomic (some due)
    (fun c => .atom op ord (c.rx (xPlus a 1)) (if op = .cas then c.rx (xPlus a 2) else 0)) s
def execRed (op : AtomOp) (rel : Bool) (scope : Scope) (h : Fin 16) (a : Fin 64) (s : State) : Out :=
  syncSyl scope h a 1 rAtomic none (fun c => .red op rel (c.rx (xPlus a 1))) s
def execLdsync (acq : Bool) (scope : Scope) (h : Fin 16) (a : Fin 64) (due : Due) (s : State) : Out :=
  syncSyl scope h a 0 rRead (some due) (fun _ => .ldsync acq) s
def execStsync (rel : Bool) (scope : Scope) (h : Fin 16) (a : Fin 64) (s : State) : Out :=
  syncSyl scope h a 1 rAtomic none (fun c => .stsync rel (c.rx (xPlus a 1))) s

/-- The shape of BARINIT, BARR and BARW: the object must be of the line shape (R265). -/
def barSyl (scope : Scope) (h : Fin 16) (srcs : List Reg) (right : Nat) (due : Option Due) (op : Core → ReqOp) (s : State) : Out :=
  sylH h (·.yHold due) (fun _ _ => srcs) (fun r s =>
    s.withObj r [right] fun o =>
      s.checked [(!o.live, .version), (!o.lineShape, .formatMismatch)] fun s =>
        let req := { s.mkReq (op s.core) h r with scope := scope }
        match due with
        | some u => s.sendQ req u false req.op.event
        | none => s.send req req.op.event) s

def execBarinit (scope : Scope) (h : Fin 16) (a : Fin 64) (s : State) : Out :=
  barSyl scope h [.x a.val] rAtomic none (fun c => .barinit (c.rx a)) s
def execBarr (scope : Scope) (h : Fin 16) (s : State) : Out := barSyl scope h [] rAtomic none (fun _ => .barr) s
def execBarw (scope : Scope) (h : Fin 16) (due : Due) (s : State) : Out :=
  barSyl scope h [] rRead (some due) (fun _ => .barw none) s

/-! ### Atomics at the engine (R261 to R263) -/

/-- The new value of an element: w bytes, signed for I32 and I64 (R262). -/
def atomNew (op : AtomOp) (signed : Bool) (w : Nat) (old x cmp : Nat) : Nat :=
  let le := decide (intVal signed w old ≤ intVal signed w x)
  match op with
  | .add => (old + x) % 2 ^ (8 * w)
  | .min => if le then old else x
  | .max => if le then x else old
  | .and => Nat.land old x
  | .or => Nat.lor old x
  | .xor => Nat.xor old x
  | .swp => x
  | .cas => if old = cmp then x else old
/-- A landed element, extended by its format (R262). -/
def landWord (signed : Bool) (w v : Nat) : Word := if signed then signExt (8 * w) v else zeroExt (8 * w) v
/-- The element's bytes and signedness. -/
def Obj.syncKind (o : Obj) : Bool × Nat := match o.kind with | .int sg n => (sg, n) | _ => (false, 8)
/-- The coordinates of the element a Y request names. -/
def Req.elem (r : Req) (o : Obj) : List Nat := coordsOf o.dims r.n
/-- The line the element lies in. -/
def Req.line (r : Req) (o : Obj) : Nat := r.n * elemBits o.fmt / 512

/-- The line is held with a new record (R253, R258). -/
def Obj.record (o : Obj) (m : Nat) (k : ScopeRec) : Obj :=
  o.setLine { o.lineRec m with record := some k }
/-- The owning task drops its cached lines of the grain, on whichever of its cores they are (R261). -/
def State.dropGrainLines (s : State) (p : Party) (o : Obj) (g : Nat) : State :=
  if o.grains.any fun x => x.g = g && x.owner.sameTask p then
    s.modTask p fun c => { c with frames := c.frames.filter fun f => !(f.home = o.home && f.index = o.index && f.line / 4 = g) }
  else s

/-- The engine's answer to a synchronising access: the checks of R261 in order. -/
def State.syncCheck (s : State) (r : Req) (o : Obj) (rmw : Bool) : WriteAnswer :=
  let m := r.line o
  let page := r.n * elemBits o.fmt / 8 / 65536
  let own := rmw && (((o.lineRec m).bar.isSome && r.n = 0) || (o.lineRec m).ballot.isSome)
  if o.gen ≠ r.gen then .fault .objRights
  else if own then .fault .objRights
  else if rmw && o.frozen page then .fault .writeFrozen
  else if rmw && s.heldAt r o [page] true 0 then .held
  else if rmw && o.grains.any (fun g => g.g = m / 8 && !g.owner.sameTask r.party) then .fault .grainConflict
  else if !scopeOk r.scope r.party (o.lineRec m).record then .fault .scope
  else .go s

/-- The package of the sync home of the element a request names (R253); its home package when it names no listed object. -/
def State.syncPkg (s : State) (r : Req) : Nat :=
  match r.op with
  | .plotrd _ => r.home
  | _ => match s.objAt r.home r.index with
    | some o => o.holder (r.elem o)
    | none => r.home
/-- The sync home of a request cannot be reached (R342). -/
def State.unreachable (s : State) (r : Req) : Bool := s.peers.any fun p => p.pkg = s.syncPkg r && p.lost
/-- The request waits until its task's barrier timeout elapses (R269, R342). -/
def State.waitPeer (s : State) (r : Req) (i : Instr) : State :=
  if r.issued + s.timeout r.party ≤ s.cycle then s.lateFail r .barrierTimeout else s.retry r i

/-- A synchronising access at its engine: `f` gives the new element, if it is written, and the word that lands. -/
def State.syncAt (s : State) (r : Req) (o : Obj) (rmw : Bool) (f : Nat → Option Nat × Option Word) : State :=
  let bs := o.elemBytes (r.elem o)
  match s.granuleWait (.device r.id) o bs with
  | some s => s.retry r .syncAccessPerform
  | none =>
    match s.syncCheck r o rmw with
    | .fault k => s.lateFail r k
    | .held => s.hold r .syncAccessPerform
    | .go s' =>
      match s.missingFor r o 0 (pagesOf bs) with
      | some s => s.holdAbsent r .syncAccessPerform
      | none =>
        let s := (if r.op.releases then s'.cleanParty r.party else s').dropGrainLines r.party o (r.line o / 8)
        let a := f (o.readElem 0 (r.elem o))
        let s := s.modObj o.home o.index fun o =>
          let o := o.record (r.line o) ⟨r.scope, r.party⟩
          match a.1 with
          | some v => o.writeElem 0 (r.elem o) v
          | none => o
        let s := (pagesOf bs).foldl (fun s n => s.touchPage o.home o.index 0 (!rmw) n) s
        let s := s.touchLine o.home o.index (r.line o)
        match a.2 with
        | some w => s.answer r.id ⟨w, none⟩
        | none => s.finish r.id

/-! ### Barriers (R265 to R269) -/

def barInit (w : Nat) : Bool := w / 2 ^ 63 % 2 = 1
def barScope (w : Nat) : Nat := w / 2 ^ 60 % 8
def barLevel (w : Nat) : Nat := w / 2 ^ 57 % 8
def barExpect (w : Nat) : Nat := w / 2 ^ 37 % 2 ^ 20
def barArrived (w : Nat) : Nat := w / 2 ^ 17 % 2 ^ 20
def barPhase (w : Nat) : Nat := w % 2 ^ 17
def mkBar (init : Bool) (scope level expect arrived phase : Nat) : Nat :=
  boolBit init * 2 ^ 63 + scope % 8 * 2 ^ 60 + level % 8 * 2 ^ 57 + expect % 2 ^ 20 * 2 ^ 37 + arrived % 2 ^ 20 * 2 ^ 17 + phase % 2 ^ 17
/-- A scope's code (R46). -/
def scopeOf (n : Nat) : Scope :=
  match n with
  | 0 => .core | 1 => .gang | 2 => .die | 3 => .package | 4 => .rack | _ => .system
/-- The barrier word with ARRIVED and PHASE replaced. -/
def reBar (w arrived phase : Nat) : Nat := mkBar (barInit w) (barScope w) (barLevel w) (barExpect w) arrived phase
/-- A line's barrier state changed. -/
def Obj.modBar (o : Obj) (f : BarState → BarState) : Obj :=
  match o.lineAt 0 with
  | some l => (match l.bar with | some b => o.setLine { l with bar := some (f b) } | none => o)
  | none => o

/-- BARINIT at the engine (R266). -/
def State.barinitAt (s : State) (r : Req) (o : Obj) (expect : Word) : State :=
  let e := expect.toNat
  let w := o.word 0
  let par := BitVec.ofNat 64 (o.word 1)
  let keep : BarState := match o.bar with | some b => b | none => ⟨r.party, 0, 0, [], [], [], 0⟩
  let level : Option Nat :=
    if e = 0 ∨ 2 ^ 20 ≤ e then none
    else if handleIndex par = 0 then some 0
    else match s.objOf par with
      | none => none
      | some p =>
        match p.bar with
        | none => none
        | some b =>
          let pw := p.word 0
          if !barInit pw || barLevel pw = 5 || barScope pw < r.scope.code || !inDom (scopeOf (barScope pw)) b.init r.party then none
          else some (barLevel pw + 1)
  let s := s.modObj o.home o.index fun o =>
    match level with
    | none => (o.setLine { o.lineRec 0 with bar := some keep }).setWord 0 (w % 2 ^ 63)
    | some l =>
      let b : BarState := { keep with init := r.party, parent := par, held := 0, uses := [(r.party, r.scope)], last := 0 }
      (o.setLine { o.lineRec 0 with bar := some b }).setWord 0 (mkBar true r.scope.code l e 0 (barPhase w))
  (s.touchLine o.home o.index 0).finish r.id

/-- The late faults of a BARR or BARW in order (R268). -/
def barFault (r : Req) (o : Obj) : Option Cause :=
  if o.gen ≠ r.gen then some .objRights
  else match o.bar with
    | none => some .orphanWait
    | some b =>
      let w := o.word 0
      if !barInit w then some .orphanWait
      else if !inDom (scopeOf (barScope w)) b.init r.party || r.scope.code ≠ barScope w ||
          b.uses.any (fun u => u.1 ≠ r.party && !(inDom r.scope r.party u.1 && inDom u.2 u.1 r.party)) then some .scope
      else none

/-- The phase that a BARW waits for has ended: PHASE is 1 to 2^16 ahead, modulo 2^17 (R268). -/
def phasePast (phase target : Nat) : Bool :=
  let d := (phase + 2 ^ 17 - target) % 2 ^ 17
  decide (1 ≤ d) && decide (d ≤ 2 ^ 16)
/-- A BARW lands (R356): its party has waited for its latest arrival through this register. -/
def State.landBarw (s : State) (r : Req) (target : Nat) : State :=
  (s.modObj r.home r.index fun o => o.modBar fun b =>
    { b with phases := b.phases.filter fun x => !(x.1 = r.party && x.2.1 = r.h), waits := b.waits.filter fun x => x.1 ≠ r.id }).answer
      r.id ⟨BitVec.ofNat 64 ((target + 1) % 2 ^ 17), none⟩
/-- The barriers whose parent is a given object. -/
def State.barChildren (s : State) (o : Obj) : List Obj :=
  s.objs.filter fun k => match k.bar with
    | some b => b.parent = mkHandle o.home o.index o.gen && handleIndex b.parent ≠ 0 && barInit (k.word 0)
    | none => false
/-- BARRIER_FLIP (R267): PHASE advances, the held arrivals are counted, the BARWs of the phase land, the children hear of
it; a phase that the held arrivals complete is completed too. -/
def State.flipBar (s : State) (home index : Nat) : Nat → State
  | 0 => s
  | n + 1 =>
    match s.objAt home index with
    | none => s
    | some o =>
      match o.bar with
      | none => s
      | some b =>
        let w := o.word 0
        let phase := (barPhase w + 1) % 2 ^ 17
        let s := s.modObj home index fun o => (o.modBar fun b => { b with held := 0 }).setWord 0 (reBar w b.held phase)
        let s := (b.waits.filter fun x => phasePast phase x.2).foldl (fun s x =>
          match s.reqs.find? fun r => r.id = x.1 with | some r => s.landBarw r x.2 | none => s) s
        let s := (s.barChildren o).foldl (fun s k => s.later 0 (.barrierChildFlip ⟨k.home, k.index, 0, 0⟩)) s
        if b.held = barExpect w then
          if handleIndex b.parent = 0 then s.flipBar home index n else s.later 0 (.barrierParentArrival ⟨home, index, 0, 0⟩)
        else s
/-- One arrival, of a party or of a child (R267): counted, held, or none when it must wait. -/
def State.arrive (s : State) (o : Obj) (who : Option (Party × Fin 16 × Scope)) : Option State :=
  match o.bar with
  | none => some s
  | some b =>
    let s := s.touchLine o.home o.index 0
    let w := o.word 0
    let n := barArrived w
    let note (phase : Nat) (b : BarState) : BarState := match who with
      | some (p, h, k) => { b with
          last := s.cycle, uses := b.uses.filter (fun u => u.1 ≠ p) ++ [(p, k)]
          phases := b.phases.filter (fun x => !(x.1 = p && x.2.1 = h)) ++ [(p, h, phase)] }
      | none => { b with last := s.cycle }
    if n < barExpect w then
      let s := s.modObj o.home o.index fun o => (o.modBar (note (barPhase w))).setWord 0 (reBar w (n + 1) (barPhase w))
      if n + 1 = barExpect w then
        if handleIndex b.parent = 0 then some (s.flipBar o.home o.index 2)
        else some (s.later 0 (.barrierParentArrival ⟨o.home, o.index, 0, 0⟩))
      else some s
    else if b.held < barExpect w then
      some (s.modObj o.home o.index fun o =>
        o.modBar fun b => { note ((barPhase w + 1) % 2 ^ 17) b with held := b.held + 1 })
    else none

/-- BARRIER_ARRIVAL (R267): a BARR at its barrier. -/
def execBarrierArrival (s : State) : Out :=
  match s.req with
  | none => .next s
  | some r =>
    if r.phase ≠ .sent then .next s
    else if s.mustWait r then .next (s.retry r .barrierArrival)
    else if s.unreachable r then .next (s.waitPeer r .barrierArrival)
    else match s.objAt r.home r.index with
      | none => .next (s.lateFail r .objRights)
      | some o =>
        match barFault r o with
        | some k => .next (s.lateFail r k)
        | none =>
          match s.arrive o (some (r.party, r.h, r.scope)) with
          | some s => .next ((s.cleanParty r.party).finish r.id)
          | none => .next (s.retry r .barrierArrival)
/-- BARRIER_PARENT_ARRIVAL (R267): a barrier that completed sends one arrival to its parent. -/
def execBarrierParentArrival (child : PageRef) (s : State) : Out :=
  match s.objAt child.home child.index with
  | none => .next s
  | some k =>
    match k.bar with
    | none => .next s
    | some b =>
      match s.objOf b.parent with
      | none => .next s
      | some o =>
        match s.arrive o none with
        | some s => .next s
        | none => .next (s.again 0 (.barrierParentArrival child))
/-- BARRIER_CHILD_FLIP (R267): a parent's flip reaches a child. -/
def execBarrierChildFlip (child : PageRef) (s : State) : Out := .next (s.flipBar child.home child.index 1)

/-- BARW at the barrier (R268). -/
def State.barwAt (s : State) (r : Req) (o : Obj) : State :=
  match barFault r o with
  | some k => s.lateFail r k
  | none =>
    match o.bar with
    | none => s.lateFail r .orphanWait
    | some b =>
      let w := o.word 0
      let target := match b.phases.find? fun x => x.1 = r.party && x.2.1 = r.h with
        | some x => x.2.2
        | none => barPhase w
      if phasePast (barPhase w) target then s.landBarw r target
      else
        let s := s.modObj o.home o.index fun o => o.modBar fun b => { b with waits := b.waits ++ [(r.id, target)] }
        (s.modReq r.id fun r => { r with phase := .waiting }).after (r.issued + s.timeout r.party - s.cycle) r.id .barrierTimeout

/-- The last arrival at a barrier or any ancestor of it; a tree has at most six levels. -/
def State.lastArrival (s : State) : Nat → Obj → Nat
  | 0, _ => 0
  | n + 1, o =>
    match o.bar with
    | none => 0
    | some b => max b.last (match s.objOf b.parent with | some p => s.lastArrival n p | none => 0)
/-- A request no longer waits at a line. -/
def SyncLine.unwait (id : Nat) (l : SyncLine) : SyncLine :=
  { l with bar := l.bar.map fun b => { b with waits := b.waits.filter fun x => x.1 ≠ id }
           ballot := l.ballot.map fun b => { b with waits := b.waits.filter fun x => x ≠ id } }
/-- BARRIER_TIMEOUT (R269, R292): the wait of a BARW or BREAD ends in the late fault once its count reaches the plot's
timeout. -/
def execBarrierTimeout (s : State) : Out :=
  match s.req with
  | none => .next s
  | some r =>
    if r.phase ≠ .waiting then .next s
    else
      let from_ := match r.op, s.objAt r.home r.index with
        | .barw _, some o => max r.issued (s.lastArrival 6 o)
        | _, _ => r.issued
      let due := from_ + s.timeout r.party
      if s.cycle < due then .next (s.after (due - s.cycle) r.id .barrierTimeout)
      else
        let s := s.modObj r.home r.index fun o =>
          { o with lines := o.lines.map (SyncLine.unwait r.id) }
        .next (s.lateFail r .barrierTimeout)

/-! ### SYNC_ACCESS_PERFORM -/

/-- BREAD at the engine (R292): a settled ballot's word, or a wait for the settlement. -/
def State.breadAt (s : State) (r : Req) (o : Obj) : State :=
  if o.gen ≠ r.gen then s.lateFail r .objRights
  else match o.ballot with
    | none => s.lateFail r .orphanWait
    | some _ =>
      let w := o.word 0
      if w / 2 ^ 63 = 0 then s.lateFail r .orphanWait
      else if w / 2 ^ 62 % 2 = 1 then s.answer r.id ⟨BitVec.ofNat 64 w, none⟩
      else
        let wait (l : SyncLine) : SyncLine := { l with ballot := l.ballot.map fun b => { b with waits := b.waits ++ [r.id] } }
        let s := s.modObj o.home o.index fun o => { o with lines := o.lines.map wait }
        (s.modReq r.id fun r => { r with phase := .waiting }).after (r.issued + s.timeout r.party - s.cycle) r.id .barrierTimeout

/-- The word a PLOTRD reads (R298). -/
def State.plotWord (s : State) (p : Party) (sel : Nat) : Word :=
  let own := s.plotAt p.plot
  let plot := match sel / 32 % 4 with
    | 0 => own
    | 1 => own.bind fun q => s.plotAt q.parent
    | _ => s.plotAt (s.rootOf p.plot)
  match plot with
  | some q => BitVec.ofNat 64 (field q.desc (64 * (sel % 32)) 64)
  | none => 0

/-- SYNC_ACCESS_PERFORM (R258 to R266, R268, R292, R298): the engine performs a Y request, once the requests of its task that
it must follow are performed. -/
def execSyncAccessPerform (s : State) : Out :=
  match s.req with
  | none => .next s
  | some r =>
    if !(r.phase = .sent || (r.phase = .waiting && r.arr ≠ 0)) then .next s
    else if s.mustWait r then .next (s.retry r .syncAccessPerform)
    else if s.unreachable r then .next (s.waitPeer r .syncAccessPerform)
    else match r.op with
      | .plotrd sel => .next (s.answer r.id ⟨s.plotWord r.party sel.toNat, none⟩)
      | _ => match s.objAt r.home r.index with
        | none => .next (s.lateFail r .objRights)
        | some o =>
          let sg := o.syncKind.1
          let w := o.syncKind.2
          let low (x : Word) : Nat := x.toNat % 2 ^ (8 * w)
          match r.op with
          | .atom op _ x cmp => .next (s.syncAt r o true fun old =>
              let new := atomNew op sg w old (low x) (low cmp)
              (if op = .cas ∧ old ≠ low cmp then none else some new, some (landWord sg w old)))
          | .red op _ x => .next (s.syncAt r o true fun old => (some (atomNew op sg w old (low x) 0), none))
          | .ldsync _ => .next (s.syncAt r o false fun old => (none, some (landWord sg w old)))
          | .stsync _ x => .next (s.syncAt r o true fun _ => (some (low x), none))
          | .barinit e => if o.gen ≠ r.gen then .next (s.lateFail r .objRights) else .next (s.barinitAt r o e)
          | .barw _ => .next (s.barwAt r o)
          | .bread => .next (s.breadAt r o)
          | _ => .next s

end Sys2Proof.Machine
end

