-- ==== Sys2Proof/Machine/Plots.lean ====
section
/-! DEFINITION. Plots (R12, R271 to R277, R285 to R290, R298): the journal's entries (R338), creating plots, launch-pool
entries, candidates, SPAWN, SPAWNW, SOW and PLOTRD. -/
namespace Sys2Proof.Machine

/-! ### The journal (R338) -/

/-- An entry of the journal. -/
def journalEntry (seq ts plot cstat kind status cause queue body : Nat) : BitVec 512 :=
  BitVec.ofNat 512 (seq % 2 ^ 64 + ts % 2 ^ 32 * 2 ^ 64 + plot % 2 ^ 32 * 2 ^ 96 + cstat % 256 * 2 ^ 128 + kind % 256 * 2 ^ 152 +
    status % 256 * 2 ^ 160 + cause % 256 * 2 ^ 168 + queue % 2 ^ 16 * 2 ^ 176 + body % 2 ^ 320 * 2 ^ 192)
/-- QUEUE when no queue applies. -/
def noQueue : Nat := 0xFFFF
/-- Whether an entry is that of a command in progress: KIND 0x01, STATUS 0x00. -/
def inProgress (e : BitVec 512) : Bool := field e 152 8 = 1 && field e 160 8 = 0
/-- Whether the ring's next place still holds the entry of a command in progress, which nothing overwrites (R339). -/
def State.placeTaken (s : State) : Bool := s.journal.any fun x => x.1 + Config.journalEntries = s.nextSeq && inProgress x.2
/-- One entry written at the ring's next place, which holds the newest 65,536, with the next sequence number. -/
def State.journalPut (s : State) (ts : Nat) (e : BitVec 512) : State :=
  let n := s.nextSeq
  { s with journal := (s.journal.filter fun x => decide (n < x.1 + Config.journalEntries)) ++ [(n, setField e 0 64 n)],
           nextSeq := n + 1, journTs := ts }
/-- The entries that wait are written, oldest first, as far as no entry in progress is in the way (R339). -/
def State.journalFlush (s : State) : List (Nat × BitVec 512) → State
  | [] => { s with journWait := [] }
  | e :: es => if s.placeTaken then { s with journWait := e :: es } else (s.journalPut e.1 e.2).journalFlush es
/-- An entry with a timestamp, written now or once nothing is in its way (assumption log 86). -/
def State.journalAt (s : State) (ts plot kind status cause queue body : Nat) : State :=
  s.journalFlush (s.journWait ++ [(ts, journalEntry 0 ts plot 0 kind status cause queue body)])
/-- One entry written now. -/
def State.journalAdd (s : State) (plot kind status cause queue body : Nat) : State :=
  s.journalAt s.ts plot kind status cause queue body

/-! ### Creating a plot (R272 to R274) -/

/-- Reserved bits of every descriptor. -/
def reservedBits : List (Nat × Nat) :=
  [(7, 1), (54, 10), (176, 16), (240, 16), (281, 7), (301, 19), (368, 16), (432, 16), (496, 16), (541, 35), (973, 3), (1008, 16),
   (1102, 18), (1248, 32), (1288, 56), (1856, 192)]
/-- The fields that the dispatcher keeps for one kind: reserved in plots of the other kinds (R272). -/
def tasksetKept : List (Nat × Nat) := [(967, 6), (1024, 32), (1056, 32), (1152, 64), (1216, 32)]
def sibgroupKept : List (Nat × Nat) := [(1120, 32)]
/-- Fields that only a TASKSET has, as the host or a template gives them. -/
def tasksetBits : List (Nat × Nat) :=
  [(576, 64), (640, 64), (704, 64), (896, 32), (928, 32), (960, 2), (962, 5), (976, 32)]
/-- Fields that only a SIBGROUP has. -/
def sibgroupBits : List (Nat × Nat) := [(1088, 7), (1095, 7)]
/-- The ballot and the release list: a SIBGROUP's and its siblings'. -/
def ballotBits : List (Nat × Nat) := [(768, 64), (832, 64)]
def anySet (d : BitVec 2048) (fs : List (Nat × Nat)) : Bool := fs.any fun f => field d f.1 f.2 ≠ 0
/-- The inheritable fields by INHERIT bit (R273). -/
def inheritBits : List (Nat × Nat × Nat) :=
  [(0, 8, 4), (1, 12, 4), (2, 16, 16), (3, 49, 1), (4, 128, 48), (5, 192, 48), (6, 256, 16), (7, 272, 9), (8, 288, 13),
   (9, 320, 48), (10, 976, 32)]

/-- Whether R12 lets a plot of a kind stand under a parent; `sow` for what SOW creates. -/
def standsAt (kind : Nat) (parent : Option Plot) (sow : Bool) : Bool :=
  match parent with
  | none => kind = kindRoot
  | some p =>
    if kind = kindTaskset then p.level ≤ 6 && (p.kind = kindRoot || p.kind = kindGroup || (sow && p.kind = kindSib))
    else if kind = kindGroup ∨ (kind = kindSib ∧ sow = true) then p.level ≤ 5 && (p.kind = kindRoot || p.kind = kindGroup)
    else false
/-- The refusals of R274. -/
def badDesc (d : BitVec 2048) (parent : Option Plot) (sow : Bool) : Bool :=
  let kind := field d 0 4
  anySet d reservedBits || 4 ≤ kind || 2048 ≤ field d 32 16 || !standsAt kind parent sow || field d 16 16 = 0 ||
  (kind = kindRoot && field d 32 16 ≠ 0) || (kind ≠ kindRoot && field d 448 48 ≠ 0) ||
  (kind ≠ kindTaskset && anySet d (tasksetBits ++ tasksetKept)) || (kind ≠ kindSib && anySet d (sibgroupBits ++ sibgroupKept)) ||
  (kind ≠ kindSib && !(kind = kindTaskset && sow) && anySet d ballotBits) ||
  (kind = kindTaskset && (field d 928 32 = 0 || 28 < field d 962 5 || field d 896 32 % 8 ≠ 0))

/-- The RW fields of a descriptor: what creation takes from an image. -/
def rwBits : List (Nat × Nat) :=
  [(0, 4), (8, 4), (12, 4), (16, 16), (32, 16), (48, 1), (49, 1), (128, 48), (192, 48), (256, 16), (272, 9), (288, 13), (320, 48),
   (448, 48)] ++ tasksetBits ++ sibgroupBits ++ ballotBits
/-- The descriptor of a new plot (R274). -/
def newDesc (d : BitVec 2048) (parent : Option Plot) (id : Nat) : BitVec 2048 :=
  let base := rwBits.foldl (fun (n : BitVec 2048) f => setField n f.1 f.2 (field d f.1 f.2)) 0
  let base := match parent with
    | none => setField base 48 1 1
    | some p => inheritBits.foldl (fun n b =>
        if field d 32 16 / 2 ^ b.1 % 2 = 1 then setField n b.2.1 b.2.2 (field p.desc b.2.1 b.2.2) else n) base
  let cap (f : Plot → Nat) (x : Nat) : Nat := match parent with | some p => min x (f p) | none => x
  let prio := cap Plot.prio (field base 8 4)
  let plim := max (cap Plot.plim (field base 12 4)) prio
  let level := match parent with | some p => p.level + 1 | none => 0
  let n := setField (setField (setField base 8 4 prio) 12 4 plim) 4 3 level
  setField (setField n 64 32 id) 96 32 (match parent with | some p => p.id | none => 0)
/-- The next plot identity (assumption log 5): 32 bits, never 0, unlike that of any plot that exists (R271). -/
def State.freshPlot (s : State) : Nat :=
  let start := s.nextPlot + Config.freshGap s.freeCtr % 2 ^ 12
  let ok (id : Nat) : Bool := id ≠ 0 && !s.plots.any fun p => p.id = id
  (((List.range (s.plots.length + 2)).map fun k => (start + k) % 2 ^ 32).find? ok).getD 1
/-- A plot created; its identity. -/
def State.createPlot (s : State) (d : BitVec 2048) (parent : Option Plot) (pool : Option Nat) : State × Nat :=
  let id := s.freshPlot
  ({ s with plots := s.plots ++ [⟨id, newDesc d parent id, 0, false, [], pool, false, none⟩], nextPlot := id + 1,
            freeCtr := s.freeCtr + 1 }, id)

/-! ### The launch pool and the candidates (R278, R285) -/

/-- Entries of a die's pool in use. -/
def State.poolUsed (s : State) (die : Nat) : Nat := (s.plots.filter fun p => p.pool = some die).length
/-- Whether n more entries would pass LPOOL of a plot or of any of its ancestors. -/
def State.poolOver (s : State) (plot n : Nat) : Bool := (s.ancestors plot).any fun p => p.lpool ≠ 0 && p.lpool < p.lpuse + n
/-- An entry released: every task has started, or the TASKSET has ended. -/
def State.poolFree (s : State) (plot : Nat) : State :=
  match s.plotAt plot with
  | none => s
  | some p =>
    if p.pool.isNone then s
    else (s.modPlot plot fun p => { p with pool := none }).modChain p.parent fun q => q.sub 528 13 1
/-- The dispatcher of a die is asked to select: in this cycle, or in the next one when it has selected in this one (R279); one
request serves every event of a cycle. -/
def State.poke (s : State) (die : Nat) : State :=
  let done := s.disps.any fun d => d.die = die && d.chose = s.cycle + 1
  let at_ := if done then s.cycle + 1 else s.cycle
  if s.agenda.any fun e => e.instr = .dispatchSelect die && decide (e.at_ ≤ at_) then s
  else s.after (at_ - s.cycle) 0 (.dispatchSelect die)
def State.modDisp (s : State) (die : Nat) (f : Disp → Disp) : State :=
  { s with disps := s.disps.map fun d => if d.die = die then f d else d }

/-- Nanoseconds as core cycles at 2.1 GHz, for the aging of R278 (whatever the clock in force: DESIGN CHOICE, assumption log 60). -/
def cyclesOf (ns : Nat) : Nat := ns * Config.cyclesPer10ns / 10
/-- Members of an instance are on their way to their cores. -/
def State.coming (s : State) (inst : Nat) : Bool :=
  s.agenda.any fun e => match e.instr with | .taskStart _ _ _ i _ => i = inst | .taskResumption i _ => i = inst | _ => false
/-- The instances of a TASKSET that are saved on a die and may be resumed, oldest stop first: every member that has not retired is saved,
none is on a core or on its way there (R105, R278). -/
def State.preempted (s : State) (plot die : Nat) : List Nat :=
  let mine := s.saved.filter fun v => v.core.runs plot && v.die = die && !v.held
  let on (i : Nat) : Bool := s.cores.any fun c => match c.task with | some t => t.inst = i | none => false
  let insts := (mine.filterMap fun v => v.core.task.map fun t => (v.stopTs.toNat, t.inst)).filter fun x => !on x.2 && !s.coming x.2
  (insts.mergeSort (fun a b => decide (a.1 ≤ b.1))).map (·.2) |>.eraseDups
/-- The first condition of R277: what makes a TASKSET a candidate (R278). -/
def State.mayStart (s : State) (p : Plot) (die : Nat) : Bool :=
  p.state = stActive && (decide (p.nextix < p.tasks) || s.preempted p.id die ≠ [])
/-- The effective priority (R278). -/
def State.ep (s : State) (p : Plot) : Nat := min p.plim (p.prio + (cyclesOf s.ts - cyclesOf p.readyts) / 2 ^ 20)
/-- The order of a ring: READYTS, then the submitting unit. -/
def State.ringKey (s : State) (c : Cand) : Nat × Nat := (match s.plotAt c.plot with | some p => p.readyts | none => 0, c.src)
def keyLe (a b : Nat × Nat) : Bool := decide (a.1 < b.1) || (a.1 = b.1 && decide (a.2 ≤ b.2))
/-- The ring of a level (R278). -/
def State.ring (s : State) (d : Disp) (level : Nat) : List Cand :=
  (d.cands.filter fun c => match s.plotAt c.plot with | some p => s.mayStart p d.die && s.ep p = level | none => false).mergeSort
    fun a b => keyLe (s.ringKey a) (s.ringKey b)
/-- The pointer of a level, as it stands for the ring of this moment (R278). -/
def State.pointer (s : State) (d : Disp) (level : Nat) : Option RingPtr :=
  let r := s.ring d level
  let at_ (c : Cand) : RingPtr := let k := s.ringKey c; ⟨level, c.plot, k.1, k.2⟩
  match r with
  | [] => none
  | first :: _ =>
    match d.ptrs.find? fun p => p.level = level with
    | none => some (at_ first)
    | some q =>
      match r.find? fun c => c.plot = q.plot with
      | some c => some (at_ c)
      | none => match r.find? fun c => keyLe (q.ready, q.src) (s.ringKey c) with
        | some c => some (at_ c)
        | none => some (at_ first)
/-- The pointers follow their rings: as candidates come, leave or start a task, and as they age from cycle to cycle. -/
def State.follow (s : State) : State :=
  { s with disps := s.disps.map fun d =>
      { d with ptrs := if d.cands = [] then [] else (List.range 16).filterMap (s.pointer d) } }
/-- A TASKSET becomes a candidate of a die. -/
def State.addCand (s : State) (die plot src : Nat) : State :=
  let s := s.modPlot plot fun p => p.set 1152 64 s.ts
  (s.modDisp die fun d => { d with cands := d.cands ++ [⟨plot, src, none, 0⟩] }).follow.poke die
/-- A TASKSET stops being a candidate: its DEFICIT becomes 0 (R279). -/
def State.dropCand (s : State) (plot : Nat) : State :=
  let less (d : Disp) : Disp := { d with cands := d.cands.filter fun c => c.plot ≠ plot }
  { s.modPlot plot (fun p => p.set 1216 32 0) with disps := s.disps.map less }.follow
/-- Candidates that no longer are one leave their die. -/
def State.refresh (s : State) (die : Nat) : State :=
  match s.disps.find? fun d => d.die = die with
  | none => s
  | some d =>
    let gone := d.cands.filter fun c => match s.plotAt c.plot with | some p => !s.mayStart p die | none => true
    (gone.foldl (fun s c => s.dropCand c.plot) s).follow

/-! ### SPAWN, SPAWNW and SOW (R287 to R290) -/

/-- The shape of a template: N8, rank 1, DIM0 = 256, LINEAR (R271). -/
def Obj.templateShape (o : Obj) : Bool := o.fmt = 2 && o.rank = 1 && o.dim 0 = 256 && !o.tiled
/-- The 256 template bytes as h[D] sees them. -/
def Obj.template (o : Obj) (v : Nat) : BitVec 2048 := BitVec.ofNat 2048 (ofBytes ((List.range 256).map (o.byteOf v)))
/-- The page of a template, where it is ABSENT (R204). -/
def Obj.templateGone (o : Obj) (v : Nat) : Option PageRef :=
  (o.pageAt v 0).bind fun p => if p.res = .absent then some ⟨o.home, o.index, p.ver, 0⟩ else none
/-- A launch on the template as its object holds it. The read of an ABSENT page waits, held at issue, while the object manager resolves
the page; where it cannot, the bundle takes OBJ_MISSING, unperformed (R204; DESIGN CHOICE, assumption log 126). -/
def State.withTemplate (s : State) (o : Obj) (v : Nat) (f : State → State) : State :=
  match o.templateGone v with
  | none => f s
  | some p => if s.core.tmplW = some (p, true) then s.fail .objMissing
    else s.modCore fun c => { c.hold with tmplW := some (p, false) }
/-- A launch status word (R286): its request is performed at its issue, so only the word is on its way. -/
def State.landLaunch (s : State) (u : Due) (code value : Nat) : State :=
  s.sendQ { s.mkReq (.plotrd 0) 0 HReg.closed with phase := .answered ⟨statusWord code value, none⟩ } u false .landingArrival

/-- The status code and, on OK, the state and identity that creating one TASKSET gives; none when the pool is full. -/
def State.spawnOne (s : State) (t : BitVec 2048) (n : Nat) : Option (Nat × Option (State × Nat)) :=
  let die := dieOf s.core.id
  match s.plotOf s.core with
  | none => some (stINVALID, none)
  | some me =>
    match s.plotAt me.parent with
    | none => some (stINVALID, none)
    | some p =>
      if p.kind = kindSib then some (stDENIED, none)
      else if n = 0 ∨ 2 ^ 32 ≤ n then some (stINVALID, none)
      else if field t 0 4 ≠ kindTaskset || badDesc t (some p) false then some (stINVALID, none)
      else if s.poolOver p.id 1 then some (stQUOTA, none)
      else if Config.poolEntries ≤ s.poolUsed die then none
      else
        let r := s.createPlot (setField t 928 32 n) (some p) (some die)
        let s := r.1.modChain p.id fun q => q.add 528 13 1
        some (stOK, some (s.addCand die r.2 (s.source s.core.id), r.2))

/-- The shape of SPAWN and SPAWNW: `full` decides what a full pool does. -/
def spawnSyl (h : Fin 16) (a : Fin 64) (due : Due) (full : State → State) (s : State) : Out :=
  sylH h (·.yHold (some due)) (fun _ _ => [.x a.val]) (fun r s =>
    s.withObj r [rRead] fun o =>
      s.checked [(!o.templateShape, .formatMismatch)] fun s =>
        s.withTemplate o (o.verOf r) fun s =>
          match s.spawnOne (o.template (o.verOf r)) (s.core.rx a).toNat with
          | none => full s
          | some (_, some (s', id)) => s'.landLaunch due stOK id
          | some (k, none) => s.landLaunch due k 0) s

/-- SPAWN (R287): a full pool lands FULL. -/
def execSpawn (h : Fin 16) (a : Fin 64) (due : Due) (s : State) : Out :=
  spawnSyl h a due (fun s => s.landLaunch due stNOMEM 0) s
/-- SPAWNW (R287, R288): held while the pool is full, until the dispatcher converts the wait. -/
def execSpawnw (h : Fin 16) (a : Fin 64) (due : Due) (s : State) : Out :=
  spawnSyl h a due (fun s =>
    if s.core.spawnFull then (s.modCore fun c => { c with spawnFull := false }).landLaunch due stNOMEM 0
    else s.modCore fun c => { c.hold with spawnW := some (c.spawnW.getD s.ts) }) s

/-- The SIBGROUP fields of a template (R289). -/
def sibFields : List (Nat × Nat) :=
  [(8, 4), (12, 4), (16, 16), (49, 1), (48, 1), (32, 16), (128, 48), (192, 48), (256, 16), (272, 9), (288, 13), (320, 48), (832, 64),
   (768, 64)]
/-- The descriptor of the group SOW creates. -/
def sowGroup (t : BitVec 2048) (n q : Nat) : BitVec 2048 :=
  let g := sibFields.foldl (fun (d : BitVec 2048) f => setField d f.1 f.2 (field t f.1 f.2)) 0
  setField (setField (setField g 0 4 kindSib) 1088 7 n) 1095 7 q
/-- The descriptor of sibling i. -/
def sowSibling (t : BitVec 2048) : BitVec 2048 := setField t 928 32 1
/-- The siblings created under a group, each with a pool entry; each is a candidate of the die. -/
def State.sowSiblings (s : State) (t : BitVec 2048) (g : Plot) (die : Nat) : List Nat → State
  | [] => s
  | i :: is =>
    let r := s.createPlot (sowSibling t) (some g) (some die)
    let s := r.1.modPlot r.2 fun p => (p.set 967 6 i).set 976 32 (field t 976 32 + i)
    let s := s.modChain g.id fun q => q.add 528 13 1
    (s.addCand die r.2 (s.source s.core.id)).sowSiblings t g die is
/-- A ballot line initialised for a group (R290). -/
def Obj.sowBallot (o : Obj) (group n q : Nat) : Obj :=
  let o := o.setLine { o.lineRec 0 with ballot := some ⟨group, [], [], []⟩ }
  let o := [1, 2, 3, 4, 5, 6, 7].foldl (fun o k => o.setWord k 0) o
  o.setWord 0 (2 ^ 63 + n * 2 ^ 24 + q * 2 ^ 17)

/-- SOW (R289). -/
def execSow (h : Fin 16) (a : Fin 64) (due : Due) (s : State) : Out :=
  sylH h (·.yHold (some due)) (fun _ _ => [.x a.val, .x (xPlus a 1).val]) (fun r s =>
    s.withObj r [rRead] fun o =>
      s.checked [(!o.templateShape, .formatMismatch)] fun s =>
        s.withTemplate o (o.verOf r) fun s =>
          let t := o.template (o.verOf r)
          let n := (s.core.rx a).toNat
          let q0 := (s.core.rx (xPlus a 1)).toNat
          let q := if q0 = 0 then n / 2 + 1 else q0
          let die := dieOf s.core.id
          match s.plotOf s.core with
          | none => s.landLaunch due stINVALID 0
          | some me =>
            match s.plotAt me.parent with
            | none => s.landLaunch due stINVALID 0
            | some p =>
              let gd := sowGroup t n q
              let group : Plot := ⟨0, newDesc gd (some p) 0, 0, false, [], none, false, none⟩
              if p.kind = kindSib then s.landLaunch due stDENIED 0
              else if n < 2 || 64 < n || n < q0 || 6 < me.level || field t 0 4 ≠ kindTaskset || badDesc gd (some p) true ||
                  badDesc t (some group) true then s.landLaunch due stINVALID 0
              else match s.objOf (BitVec.ofNat 64 (field t 832 64)) with
                | none => s.landLaunch due stDENIED 0
                | some b =>
                  if !b.lineShape || !(s.rightsOf b me.id).getLsbD rAtomic then s.landLaunch due stDENIED 0
                  else if b.ballot.isSome && b.word 0 / 2 ^ 62 = 2 then s.landLaunch due stBUSY 0
                  else if s.poolOver p.id n || (group.lpool ≠ 0 && group.lpool < n) then s.landLaunch due stQUOTA 0
                  else if Config.poolEntries < s.poolUsed die + n then s.landLaunch due stNOMEM 0
                  else
                    let g := s.createPlot gd (some p) none
                    let s := g.1
                    match s.plotAt g.2 with
                    | none => s
                    | some gp =>
                      let s := s.sowSiblings t gp die (List.range n)
                      ((s.modObj b.home b.index fun o => o.sowBallot g.2 n q).touchLine b.home b.index 0).landLaunch due stOK g.2) s

/-! ### PLOTRD (R298) -/

def execPlotrd (a : Fin 64) (due : Due) (s : State) : Out :=
  sylS [.x a.val] (fun s =>
    let sel := s.core.rx a
    if s.core.qBusy due.q || s.yFull then s.held
    else s.checked [(sel.toNat / 32 % 4 = 3 || 128 ≤ sel.toNat, .objBounds)] fun s =>
      s.sendQ (s.mkReq (.plotrd sel) 0 HReg.closed) due false .syncAccessPerform) s

end Sys2Proof.Machine
end

