-- ==== Sys2Proof/Machine/Versions.lean ====
section
/-! DEFINITION. VERSION_EVENT and SUBSC_TIMEOUT (R216, R228 to R236): the home events of one object, one at a time. -/
namespace Sys2Proof.Machine

/-- The last version number (R228). -/
def lastVersion : Nat := 2 ^ 32 - 2
/-- A status that leaves h[H] as `reg` holds it. -/
def State.landV (s : State) (r : Req) (code value : Nat) (reg : HReg) : State :=
  s.answer r.id ⟨statusWord code value, some (r.h, { reg with due := none })⟩
/-- CURV pinned once more (R229). -/
def Obj.pinCur (o : Obj) : Obj := (o.modVer o.curv fun x => { x with pins := x.pins + 1 }).setE 832 32 (o.pinc + 1)
/-- One more pin of CURV would pass the count (R233). -/
def Obj.pinFull (o : Obj) : Bool := o.pinc = 2 ^ 32 - 1

/-- The object manager is told of an entry that the handle unit rejects (R8, R200). -/
def State.tellRejected (s : State) (h : Word) : State :=
  match s.objAt (handleHome h) (handleIndex h) with
  | some o => if o.valid && o.rejected then { s with told := s.told ++ [(o.home, o.index)] } else s
  | none => s
/-- OPEN at the home (R216). PWRT 0 stands for no pending writer, whatever the event source number of the writer's core is (DESIGN CHOICE,
assumption log 124). -/
def State.openAt (s : State) (r : Req) (w : Bool) : State :=
  match s.objOf r.reg.handle with
  | none => (s.tellRejected r.reg.handle).landV r stSTALE 0 HReg.closed
  | some o =>
    let rights := s.rightsOf o r.party.plot
    let reg (v : Nat) : HReg := ⟨r.reg.handle, true, w, rights, BitVec.ofNat 32 v, none⟩
    if !rights.getLsbD (if w then rWrite else rRead) then s.landV r stDENIED 0 HReg.closed
    else if o.live then s.landV r stOK 0 (reg 0)
    else if !w then
      if o.pinFull then s.landV r stBUSY 0 HReg.closed
      else (s.modObj o.home o.index Obj.pinCur).landV r stOK o.curv (reg o.curv)
    else if o.curv = lastVersion then s.landV r stINVALID 0 HReg.closed
    else if o.pwrt ≠ 0 then s.landV r stBUSY 0 HReg.closed
    else
      let data := match o.verAt o.curv with | some x => x.data | none => []
      let s := s.modObj o.home o.index fun o =>
        { o.setPwrt (s.source r.core) with vers := o.vers ++ [⟨o.curv + 1, .pending, 0, data, some r.party⟩] }
      s.landV r stOK (o.curv + 1) (reg (o.curv + 1))

/-- The pin of PIN and of a satisfied SUBSC (R229, R233). -/
def State.pinAt (s : State) (r : Req) (o : Obj) : State :=
  if r.reg.ver.toNat = o.curv then s.landV r stOK o.curv r.reg
  else if o.pinFull then s.landV r stBUSY 0 r.reg
  else
    let s := s.modObj o.home o.index Obj.pinCur
    let s := if r.reg.ver = unpinned then s else s.unpinVer o.home o.index r.reg.ver.toNat
    (s.sweepFrames r.party).landV r stOK o.curv { r.reg with ver := BitVec.ofNat 32 o.curv }

/-- SUBSC at the home (R235): served when CURV exceeds x, else it waits. -/
def State.subscAt (s : State) (r : Req) (o : Obj) (beyond : Word) : State :=
  if beyond.toNat / 2 ^ 32 ≠ 0 then s.landV r stINVALID 0 r.reg
  else if beyond.toNat < o.curv then s.pinAt r o
  else if r.phase = .waiting then s
  else
    let due := r.issued + s.timeout r.party
    (s.modReq r.id fun r => { r with phase := .waiting }).after (due - s.cycle) r.id .subscTimeout

/-- The waiting subscribers of an object look again (R235). -/
def State.wakeSubs (s : State) (home index : Nat) : State :=
  (s.reqs.filter fun r => r.home = home && r.index = index && r.phase = .waiting).foldl (fun s r =>
    match r.op, s.objAt home index with
    | .subsc x, some o => s.subscAt r o x
    | _, _ => s) s

/-- The current version of an object is superseded by its pending version (R229, R236). -/
def Obj.publish (o : Obj) (v : Nat) : Obj :=
  let old := o.curv
  let vers := o.vers.map fun x =>
    if x.num = old then { x with st := .retained } else if x.num = v then { x with st := .current, writer := none } else x
  { (((o.setCurv v).setE 864 32 (field o.entry 864 32 + o.pinc)).setE 832 32 0) with vers := vers }

/-- PUBL at the home (R236). -/
def State.publAt (s : State) (r : Req) (o : Obj) : State :=
  let v := r.reg.ver.toNat
  let data := match o.verAt v with | some x => x.data | none => []
  let more := v + 1 ≤ lastVersion
  let s := (s.cleanParty r.party).modObj o.home o.index fun o =>
    let o := o.publish v
    if more then { o with vers := o.vers ++ [⟨v + 1, .pending, 0, data, some r.party⟩] } else (o.setPwrt 0).pinCur
  let s := s.sweepVers o.home o.index
  let move (f : OFrame) : OFrame := if f.home = o.home && f.index = o.index && f.ver = v && more then { f with ver := v + 1 } else f
  let s := s.modParty r.party fun c => { c with frames := c.frames.map move }
  let reg : HReg := if more then { r.reg with ver := BitVec.ofNat 32 (v + 1) } else { r.reg with write := false }
  (s.landV r stOK v reg).wakeSubs o.home o.index

/-- VERSION_EVENT (R228): an open, close, pin, subscription or publication at the home entry, once the requests of its task that
it must follow are performed; an unpin at once (R234). -/
def execVersionEvent (s : State) : Out :=
  match s.req with
  | none => .next s
  | some r =>
    if r.phase ≠ .sent then .next s
    else if r.op ≠ .unpin && s.mustWait r then .next (s.retry r .versionEvent)
    else match r.op with
      | .openH w => .next (s.openAt r w)
      | .close => .next ((s.finish r.id).closeReg r.party r.h r.reg)
      | .unpin => .next (((s.finish r.id).unpinVer r.home r.index r.reg.ver.toNat).sweepFrames r.party)
      | _ => match s.objAt r.home r.index with
        | none => .next (s.lateFail r .objRights)
        | some o =>
          if o.gen ≠ r.gen then .next (s.lateFail r .objRights)
          else match r.op with
            | .pin => .next (s.pinAt r o)
            | .subsc x => .next (s.subscAt r o x)
            | .publ => .next (s.publAt r o)
            | _ => .next s

/-- SUBSC_TIMEOUT (R235, R269): the barrier timeout has elapsed since the issue. -/
def execSubscTimeout (s : State) : Out :=
  match s.req with
  | none => .next s
  | some r => if r.phase = .waiting then .next (s.landV r stTIMEOUT 0 r.reg) else .next s

end Sys2Proof.Machine
end

