-- ==== Sys2Proof/Machine/Tasks.lean ====
section
/-! DEFINITION. How tasks and plots end (R105, R223, R231, R244, R260, R275, R276, R284, R294): counts, registers, requests,
cores, TASKSETs, fault domains. -/
namespace Sys2Proof.Machine

/-- How a task member ends. -/
inductive EndHow | retired | cancelled | terminated
deriving DecidableEq, Repr

/-- Whether a core is between two bundles, with no STALL cycles and no port stop left. -/
def Core.atBoundary (c : Core) : Bool :=
  c.run = .retiring || (c.portStop = 0 && (!c.counting || decide (c.nextIss ≤ c.cyc)))
/-- A recorded late fault is delivered at this boundary, before anything else there (R301, R303). -/
def Core.lateNow (c : Core) : Bool :=
  match c.replay with
  | none => c.late ≠ []
  | some r => r.slotr.isNone && decide (c.lateKeep < c.late.length) && r.whole c
/-- The end of its task reaches a core here: a core that does not run is stopped; a running one is at a bundle boundary, at which a late
fault goes first (R284, R294, R301). -/
def Core.endsHere (c : Core) : Bool := (c.run ≠ .running && c.run ≠ .retiring) || (c.atBoundary && !c.lateNow)
/-- The party of a core's task member. -/
def State.partyOf (s : State) (c : Core) : Party := s.party c

/-! ### Counts (R276) -/

/-- The task's own counts are raised in its TASKSET and its ancestors: what has not been raised before. -/
def State.raiseCounts (s : State) (c : Core) : State :=
  match c.task with
  | none => s
  | some t =>
    let r := t.raised
    let s := s.modChain t.plot fun p =>
      (((p.add 1344 64 (c.cyc - r.1)).add 1408 64 (c.bundles - r.2.1)).add 1472 64 (t.bfetch - r.2.2.1)).add 1536 64
        (t.bstore - r.2.2.2)
    s.modParty (s.party c) fun c =>
      { c with task := c.task.map fun t => { t with raised := (c.cyc, c.bundles, t.bfetch, t.bstore) } }

/-! ### Registers and requests at an end -/

/-- The h-registers with every new state that a landed or landing word brings. -/
def State.flushH (s : State) (c : Core) : Core :=
  let c := allQ.foldl (fun c q => match c.rq q with | .outstanding _ _ _ (some l) => c.applyH l.hset | _ => c) c
  (s.reqsOf (s.party c)).foldl (fun c r => match r.phase with | .answered l => c.applyH l.hset | _ => c) c
/-- Every h-register closes (R105). -/
def State.closeAll (s : State) (c : Core) (p : Party) : State :=
  (List.finRange 16).foldl (fun s h => s.closeReg p h (c.rh h)) s
/-- Every open h-register closes as CLOSE closes it, after the requests that stay (R294). -/
def State.closeLater (s : State) (c : Core) (p : Party) : State :=
  (List.finRange 16).foldl (fun s h =>
    let r := c.rh h
    if r.opened then s.send { s.mkReq .close h r with party := p, core := c.id } .versionEvent else s) s

/-- Whether an object is private to a sibling: created by its ALLOC (R294). -/
def State.privateTo (s : State) (r : Req) (inst : Nat) : Bool :=
  match s.objAt r.home r.index with | some o => o.maker = some inst | none => false
/-- What becomes of a request whose task is cancelled or terminated (R231, R260, R294): writes, atomics and the other
requests that act for others stay, with their slot's bytes captured; what only brings something to the task is dropped. -/
def State.keepReq (s : State) (how : EndHow) (r : Req) : Option Req :=
  let cap := { r with cap := some (s.slotData r) }
  let priv := how = .cancelled && s.privateTo r r.party.inst
  match r.phase with
  | .answered _ => none
  | .failed _ => none
  | _ =>
    match r.op with
    | .store _ => if priv then none else some cap
    | .scatter _ => if priv then none else some cap
    | .copyo _ _ _ _ => if priv then none else some r
    | .coll k => if r.phase = .waiting then some r else if k = .bc || priv then none else some cap
    | .push _ _ _ _ _ => match r.phase with | .filling _ _ => some r | _ => none
    | .publ => if how = .cancelled then some r else none
    | .freeze => some r | .thaw => some r | .free => some r | .close => some r | .unpin => some r
    | .atom _ _ _ _ => some r | .red _ _ _ => some r | .ldsync _ => some r | .stsync _ _ => some r | .barinit _ => some r
    | .barr => some r | .barw _ => some r | .bpost _ _ => some r | .bread => some r | .svc _ _ _ => some r
    | _ => none
/-- The requests of a party that ends. -/
def State.pruneReqs (s : State) (p : Party) (how : EndHow) : State :=
  { s with reqs := s.reqs.filterMap fun r =>
      if r.party.inst = p.inst && r.party.mem = p.mem then s.keepReq how r else some r }

/-! ### Cores -/

/-- The lines that a core's object cache keeps when its task leaves: the casts, all of them clean (R209, R351, R352). -/
def State.leftFrames (s : State) (c : Core) : List OFrame :=
  c.cleanFrames.frames.filter fun f => match s.objAt f.home f.index with
    | some o => o.frozenAt f.ver (f.line / 512)
    | none => false
/-- The core of an ended member is free again; a saved member is forgotten. -/
def State.clearMember (s : State) (p : Party) : State :=
  let hit (c : Core) : Bool := match c.task with | some t => t.inst = p.inst && t.member = p.mem | none => false
  let dies := (s.cores.filter hit).map fun c => dieOf c.id
  let wipe (c : Core) : Core := if hit c then { Core.reset c.id with stage := c.stage, frames := s.leftFrames c } else c
  let s := { s with saved := s.saved.filter fun v => !hit v.core }
  dies.foldl State.poke (s.mapCores wipe)
/-- Whether a member of a task instance is left: on a core, saved, or about to start. -/
def State.memberLeft (s : State) (inst : Nat) : Bool :=
  let hit (c : Core) : Bool := match c.task with | some t => t.inst = inst | none => false
  s.cores.any hit || (s.saved.any fun v => hit v.core) || s.coming inst

/-! ### Plots (R275, R338) -/

/-- The KIND 0x03 entry of a plot's end. -/
def State.journalEnd (s : State) (plot status : Nat) : State :=
  match s.plotAt plot with
  | none => s
  | some p =>
    s.journalAdd plot 3 status (field p.desc 1280 8) noQueue
      (field p.desc 1344 64 + field p.desc 1408 64 * 2 ^ 64 + field p.desc 1472 64 * 2 ^ 128 + field p.desc 1536 64 * 2 ^ 192)
/-- The apertures of a ROOT are unmapped when it ends (R336). -/
def State.unmapRoot (s : State) (root : Nat) : State :=
  (s.apertures.filter fun a => a.root = root).foldl (fun s a =>
    let s := { s with apertures := s.apertures.filter fun b => b.n ≠ a.n }
    match s.objOf a.handle with
    | some o => if o.live then s else s.unpinVer o.home o.index a.ver.toNat
    | none => s) s
/-- A plot whose children have all ended is done: a SIBGROUP once it has settled, a GROUP or ROOT once the host has closed
it; then its parent is looked at, at most 8 levels up. -/
def State.parentCheck (s : State) : Nat → Nat → State
  | 0, _ => s
  | n + 1, id =>
    match s.plotAt id with
    | none => s
    | some p =>
      let ended := (s.children id).all fun k => 2 ≤ k.state
      let ready := (p.kind = kindSib && p.state = stSettled) || ((p.kind = kindGroup || p.kind = kindRoot) && p.closed && p.state = stActive)
      if ended && ready then
        let s := (s.modPlot id fun p => p.set 50 4 stDone).journalEnd id 1
        let s := if p.kind = kindRoot then s.unmapRoot id else s
        s.parentCheck n p.parent
      else s
/-- A TASKSET has ended: it is no candidate, its pool entry is released, its entry is written, the ballot of its group
hears of a sibling that ended without being cancelled (R293). -/
def State.tasksetOver (s : State) (plot status : Nat) : State :=
  match s.plotAt plot with
  | none => s
  | some p =>
    let s := ((s.dropCand plot).poolFree plot).journalEnd plot status
    let sib := match s.plotAt p.parent with | some g => g.kind = kindSib | none => false
    let s := if sib && p.state ≠ stCancelled then s.later 0 (.siblingEndMsg plot) else s
    s.parentCheck 8 p.parent

/-! ### The end of a task member and of a task -/

/-- Whether an instance of a TASKSET holds the cores of its gang: a member is on a core, or is starting or resuming there. -/
def State.holding (s : State) (plot : Nat) : List Nat :=
  let on := s.cores.filterMap fun c => match c.task with | some t => if t.plot = plot then some t.inst else none | none => none
  let coming := s.agenda.filterMap fun e => match e.instr with
    | .taskStart _ p _ i _ => if p = plot then some i else none
    | .taskResumption i _ =>
      if s.saved.any fun v => v.core.runs plot && (match v.core.task with | some t => t.inst = i | none => false) then some i else none
    | _ => none
  (on ++ coming).eraseDups
/-- Whether a member of an instance is on a core. -/
def State.onCore (s : State) (inst : Nat) : Bool := s.cores.any fun c => match c.task with | some t => t.inst = inst | none => false
/-- RCORES of a TASKSET and its ancestors falls by what its tasks hold that have come to no core yet, and will not (R277). -/
def State.releaseCores (s : State) (plot : Nat) : State :=
  match s.plotAt plot with
  | some p => s.modChain plot fun q => q.sub 512 16 (gangSize p.gang * ((s.holding plot).filter fun i => !s.onCore i).length)
  | none => s
/-- The task has ended with its last member. -/
def State.endTask (s : State) (t : Task) (how : EndHow) : State :=
  match how with
  | .terminated => s.modPlot t.plot fun p => p.add 1056 32 1
  | .retired =>
    let s := s.modChain t.plot fun p => p.sub 512 16 (gangSize t.shape)
    let s := s.modPlot t.plot fun p => p.add 1056 32 1
    match s.plotAt t.plot with
    | some p => if p.donen = p.tasks && p.state = stActive then
        (s.modPlot t.plot fun p => p.set 50 4 stDone).tasksetOver t.plot 1 else s
    | none => s
  | _ => s

/-- A member ends: its counts are raised; its registers close, at once after RETIRE's wait, else after the requests that
stay; producers bound to its remote furrows hear of it; its core is free. -/
def State.endMember (s : State) (c : Core) (how : EndHow) : State :=
  match c.task with
  | none => s
  | some t =>
    let p := s.party c
    let here := s.onCore t.inst
    let c := s.flushH c
    let s := s.raiseCounts c
    let s := match how with
      | .retired => { s with reqs := s.reqs.filter fun r => !(r.party.inst = p.inst && r.party.mem = p.mem) }.closeAll c p
      | _ => (s.pruneReqs p how).closeLater c p
    let s := if how = .cancelled then
        (s.objs.filter fun o => o.maker = some t.inst && o.valid).foldl (fun s o => s.freeObj o.home o.index) s else s
    let s := (s.clearMember p).later 0 (.pushDestEnded t.inst)
    -- the cores of a task that ends otherwise than by RETIRE are held until its last member has left them (R277)
    let s := if how ≠ .retired && here && !s.onCore t.inst then s.modChain t.plot fun q => q.sub 512 16 (gangSize t.shape) else s
    if s.memberLeft t.inst then s else s.endTask t how

/-! ### Ballots that settle without a winner; BREADs that wait (R292, R293) -/

/-- The settled ballot's word lands at every waiting BREAD. -/
def State.landBreads (s : State) (home index : Nat) : State :=
  match s.objAt home index with
  | none => s
  | some o =>
    match o.ballot with
    | none => s
    | some b =>
      let w := BitVec.ofNat 64 (o.word 0)
      let clear (l : SyncLine) : SyncLine := { l with ballot := l.ballot.map fun b => { b with waits := [] } }
      let s := s.modObj home index fun o => { o with lines := o.lines.map clear }
      b.waits.foldl (fun s id => s.answer id ⟨w, none⟩) s
/-- The ballot of a group settles with NOWIN = 1 by the termination of the group. -/
def State.settleNoWin (s : State) (g : Plot) : State :=
  match s.objAt (handleHome g.ballot) (handleIndex g.ballot) with
  | none => s
  | some o =>
    match o.ballot with
    | none => s
    | some b =>
      if b.group ≠ g.id || o.word 0 / 2 ^ 62 % 2 = 1 then s
      else (s.modObj o.home o.index fun o => o.setWord 0 (o.word 0 + 2 ^ 62 + 2 ^ 60)).landBreads o.home o.index

/-! ### Fault domains (R284) -/

/-- The nearest plot, from the TASKSET upwards, whose DOMAIN is 1. -/
def State.domainOf (s : State) (plot : Nat) : Nat :=
  match (s.ancestors plot).find? fun p => p.domain || p.kind = kindRoot with
  | some p => p.id
  | none => plot
/-- The counts of a cancelled sibling go to its X fields, and the group's rise by as much (R296). -/
def State.cancelCounts (s : State) (plot : Nat) : State :=
  match s.plotAt plot with
  | none => s
  | some p =>
    let n (k : Nat) : Nat := field p.desc (1344 + 64 * k) 64
    let put (f : Plot → Nat → Nat → Nat → Plot) (q : Plot) : Plot := [0, 1, 2, 3].foldl (fun q k => f q (1600 + 64 * k) 64 (n k)) q
    (s.modPlot plot (put Plot.set)).modPlot p.parent (put Plot.add)
/-- What is queued of some plots or on its way is discarded: starts, resumptions, admissions, saved members; no core is held for them. -/
def State.dropQueued (s : State) (ids : List Nat) (how : EndHow) : State :=
  let within (c : Core) : Bool := match c.task with | some t => ids.contains t.plot | none => false
  let drop (e : Event) : Bool := match e.instr with
    | .taskStart _ p _ _ _ => ids.contains p
    | .taskResumption i _ => s.saved.any fun v => within v.core && (match v.core.task with | some t => t.inst = i | none => false)
    | _ => false
  let less (d : Disp) : Disp := { d with adms := d.adms.filter fun a => !ids.contains a.plot }
  let s := ids.foldl State.releaseCores s
  let s := { s with agenda := s.agenda.filter (fun e => !drop e), disps := s.disps.map less }
  (s.saved.filter fun v => within v.core).foldl (fun s v => s.endMember v.core how) s
/-- What follows once every task of an end has stopped: a cancelled sibling's TASKSET takes STATE CANCELLED and DONEN 1, its counts go to
the X fields, and its release list follows (R294 to R296); the plots of a terminated subtree are over (R275, R284, R338). -/
def State.completeEnding (s : State) (e : Ending) : State :=
  if e.cancel then
    let s := s.modPlot e.plot fun p => (p.set 50 4 stCancelled).set 1056 32 1
    ((s.cancelCounts e.plot).tasksetOver e.plot 1).later 0 (.releaseListApply e.plot)
  else
    let s := e.live.foldl (fun s i => match s.plotAt i with
      | some p => if p.kind = kindTaskset then s.tasksetOver i 3 else s.journalEnd i 3
      | none => s) s
    match s.plotAt e.plot with
    | some p => (if p.kind = kindRoot then s.unmapRoot e.plot else s).parentCheck 8 p.parent
    | none => s
/-- A core that a task of an end still occupies. -/
def Ending.on (e : Ending) (c : Core) : Bool := match c.task with | some t => e.ids.contains t.plot | none => false
/-- The ends that no task keeps waiting any longer are completed. -/
def State.settleEndings (s : State) : State :=
  let done := s.endings.filter fun e => !s.cores.any e.on
  done.foldl State.completeEnding { s with endings := s.endings.filter fun e => s.cores.any e.on }
/-- The end that reaches a core now, at its bundle boundary. -/
def State.endDue (s : State) (c : Core) : Option Ending := if c.endsHere then s.endings.find? fun e => e.on c else none
/-- The tasks of some ends stop on the cores that stand at a bundle boundary; the others stop when they come to theirs. -/
def State.endOn (s : State) (c : Core) : State :=
  match s.endDue c with
  | some e => (s.endMember c (if e.cancel then .cancelled else .terminated)).settleEndings
  | none => s
/-- An end begins: what is queued is discarded, and the tasks on cores stop, each at its next bundle boundary (R284, R294). -/
def State.beginEnding (s : State) (e : Ending) : State :=
  let s := s.dropQueued e.ids (if e.cancel then .cancelled else .terminated)
  let s := { s with endings := s.endings ++ [e] }
  ((s.cores.filter e.on).foldl State.endOn s).settleEndings
/-- The subtree of a plot is terminated with a cause: its plots take their STATE at once, its tasks stop at their next bundle boundary, and
its ends are recorded once they have (R284). -/
def State.terminate (s : State) (plot cause : Nat) : State :=
  let sub := s.subtree plot
  let ids := sub.map (·.id)
  let s := { s with endings := s.endings.filter fun e => !(e.cancel && ids.contains e.plot) }
  let s := ids.foldl (fun s i => (s.dropCand i).poolFree i) s
  let s := { s with plots := s.plots.map fun (p : Plot) => if ids.contains p.id then p.set 50 4 stTerminated else p }
  let s := s.modPlot plot fun p => p.set 1280 8 cause
  let s := (sub.filter fun g => g.kind = kindSib && g.state = stActive).foldl State.settleNoWin s
  s.beginEnding ⟨plot, false, cause, ids, (sub.filter fun p => p.state ≤ 1).map (·.id)⟩
/-! ### Descriptors freed (R275, R316) -/

/-- Whether anything of a plot is still to be done: a task, a request, a step on its way or an entry that waits. -/
def State.plotBusy (s : State) (id : Nat) : Bool :=
  (s.cores.any fun c => c.runs id) || (s.saved.any fun v => v.core.runs id) || (s.reqs.any fun r => r.party.plot = id) ||
  (s.journWait.any fun e => field e.2 96 32 = id) || (s.endings.any fun e => e.ids.contains id) || s.agenda.any fun e => match e.instr with
    | .siblingCancel p => p = id
    | .siblingEndMsg p => p = id
    | .releaseListApply p => p = id
    | _ => false
/-- An ended plot whose descriptor the object manager may free: its KIND 0x03 entry is written, no child of it is listed, nothing of
it is still to be done, and no object is its own; a ROOT also has no page left (assumption log 31). -/
def State.freeable (s : State) (p : Plot) : Bool :=
  2 ≤ p.state && s.children p.id = [] && !s.plotBusy p.id && !(s.objs.any fun o => o.valid && o.ownp = p.id) &&
  (p.kind ≠ kindRoot || !s.objs.any fun o => o.pages.any fun g => g.charge = p.id)
/-- A descriptor is freed: the charges that its plot still holds pass to its parent, whose HBMUSE counts them already. -/
def State.freePlot (s : State) (p : Plot) : State :=
  let pass (g : Page) : Page := if g.charge = p.id then { g with charge := p.parent } else g
  { s with plots := s.plots.filter (fun q => q.id ≠ p.id), lastCharge := if s.lastCharge = p.id then p.parent else s.lastCharge,
           objs := s.objs.map fun o => { o with pages := o.pages.map pass } }

/-- A cause delivered to a task's fault domain. -/
def State.deliver (s : State) (c : Core) (cause : Nat) : State :=
  match c.task with
  | some t => s.terminate (s.domainOf t.plot) cause
  | none => s

end Sys2Proof.Machine
end

