-- ==== Sys2Proof/Machine/Ballot.lean ====
section
/-! DEFINITION. Ballots and the harvest (R290 to R297): BPOST, BREAD, the engine's posts and ends, settlement, cancellation,
release lists. -/
namespace Sys2Proof.Machine

/-! ### BPOST and BREAD at issue (R291, R292) -/

/-- BPOST: it carries its hash and Now() at issue. -/
def execBpost (h : Fin 16) (a : Fin 64) (s : State) : Out :=
  let now := BitVec.ofNat 64 s.ts
  sylH h State.yFull (fun _ _ => [.x a.val]) (fun r s =>
      let mine := match s.plotOf s.core with | some p => p.ballot = r.handle | none => false
      if !mine then s.fail .objRights
      else s.withObj r [rAtomic] fun o =>
        s.checked [(!o.lineShape, .formatMismatch)] fun s =>
          s.send (s.mkReq (.bpost (s.core.rx a) now) h r) .ballotPost) s
/-- BREAD. -/
def execBread (h : Fin 16) (due : Due) (s : State) : Out :=
  sylH h (·.yHold (some due)) (fun _ _ => []) (fun r s =>
    s.withObj r [rRead] fun o =>
      s.checked [(!o.lineShape, .formatMismatch)] fun s =>
        s.sendQ (s.mkReq .bread h r) due false .syncAccessPerform) s

/-! ### The engine's side (R291, R293) -/

def balN (w : Nat) : Nat := w / 2 ^ 24 % 2 ^ 7
def balQuorum (w : Nat) : Nat := w / 2 ^ 17 % 2 ^ 7
def balLate (w : Nat) : Nat := w / 2 ^ 31 % 2 ^ 16
def balSettled (w : Nat) : Bool := w / 2 ^ 62 % 2 = 1
def mkBallot (settled tie nowin : Bool) (winner posts late n q : Nat) : Nat :=
  2 ^ 63 + boolBit settled * 2 ^ 62 + boolBit tie * 2 ^ 61 + boolBit nowin * 2 ^ 60 + winner % 64 * 2 ^ 54 + posts % 128 * 2 ^ 47 +
    late % 2 ^ 16 * 2 ^ 31 + n % 128 * 2 ^ 24 + q % 128 * 2 ^ 17
def Obj.modBallot (o : Obj) (f : BallotState → BallotState) : Obj :=
  match o.lineAt 0 with
  | some l => (match l.ballot with | some b => o.setLine { l with ballot := some (f b) } | none => o)
  | none => o
/-- The counted posts of a hash. -/
def hashCount (ps : List Post) (h : Word) : Nat := (ps.filter fun p => p.hash = h).length
/-- A hash's earliest counted post: least issue timestamp, then lowest sibling. -/
def earliest (ps : List Post) (h : Word) : Nat × Nat :=
  (ps.filter fun p => p.hash = h).foldl (fun b p =>
    if p.ts.toNat < b.1 ∨ (p.ts.toNat = b.1 ∧ p.sib < b.2) then (p.ts.toNat, p.sib) else b) (2 ^ 64, 64)
/-- The winning hash of an exhaustion (R293). -/
def exhaustWinner (ps : List Post) : Option Word :=
  (ps.map (·.hash)).eraseDups.foldl (fun b h => match b with
    | none => some h
    | some g =>
      let x := earliest ps h
      let y := earliest ps g
      if hashCount ps g < hashCount ps h ∨ (hashCount ps g = hashCount ps h ∧ (x.1 < y.1 ∨ (x.1 = y.1 ∧ x.2 < y.2))) then some h
      else some g) none

/-- The cancellation of a sibling (R294): each of its cores stops at its next bundle boundary. -/
def State.cancelSibling (s : State) (plot : Nat) : State := s.beginEnding ⟨plot, true, 0, [plot], []⟩
/-- The cancellation of a loser: at once when no task of it runs, else when it reaches the running task (R294). A task that has issued
its RETIRE has ended normally. -/
def State.cancelLoser (s : State) (plot : Nat) : State :=
  let on (c : Core) : Bool := c.runs plot
  if s.cores.any on then s.later 0 (.siblingCancel plot)
  else if s.saved.any fun v => on v.core && v.core.retireIss then s
  else s.cancelSibling plot
/-- BALLOT_SETTLE (R293, R294): the words, the group's state, the landing BREADs, and the cancellation of the losers on its
way to them. -/
def State.settleBallot (s : State) (o : Obj) (b : BallotState) (win : Option Word) (tie : Bool) : State :=
  let w := o.word 0
  let first := match win with
    | some h => (match b.posts.find? fun p => p.hash = h with | some p => p.sib | none => 0)
    | none => 0
  let s := s.modObj o.home o.index fun o =>
    (o.setWord 1 (match win with | some h => h.toNat | none => 0)).setWord 0
      (mkBallot true tie win.isNone first b.posts.length (balLate w) (balN w) (balQuorum w))
  let s := (s.landBreads o.home o.index).modPlot b.group fun g => if g.state = stActive then g.set 50 4 stSettled else g
  let losers := (s.children b.group).filter fun k => k.state = stActive && k.kind = kindTaskset &&
    !b.ended.contains k.sibix && !b.posts.any fun p => p.sib = k.sibix && some p.hash = win
  let s := losers.foldl (fun s k => s.cancelLoser k.id) s
  s.parentCheck 8 b.group
/-- The settlement by exhaustion, once every sibling has posted or ended. -/
def State.exhaust (s : State) (o : Obj) (b : BallotState) : State :=
  if (List.range (balN (o.word 0))).all fun i => (b.posts.any fun p => p.sib = i) || b.ended.contains i then
    s.settleBallot o b (exhaustWinner b.posts) true
  else s

/-- BALLOT_POST (R291): a post is counted, or recorded as late. -/
def execBallotPost (s : State) : Out :=
  match s.req with
  | none => .next s
  | some r =>
    if r.phase ≠ .sent then .next s
    else if s.mustWait r then .next (s.retry r .ballotPost)
    else match r.op, s.objAt r.home r.index, s.plotAt r.party.plot with
      | .bpost hash ts, some o, some p =>
        let s := s.finish r.id
        match o.ballot with
        | none => .next s
        | some b =>
          let w := o.word 0
          if b.group ≠ p.parent || balSettled w || b.posts.any (fun x => x.sib = p.sibix) then
            .next (s.modObj o.home o.index fun o =>
              o.setWord 0 (w - balLate w * 2 ^ 31 + min 65535 (balLate w + 1) * 2 ^ 31))
          else
            let b := { b with posts := b.posts ++ [⟨p.sibix, hash, ts⟩] }
            let s := s.modObj o.home o.index fun o => (o.modBallot fun _ => b).setWord 0
              (mkBallot false false false 0 b.posts.length (balLate w) (balN w) (balQuorum w))
            match s.objAt o.home o.index with
            | none => .next s
            | some o =>
              if hashCount b.posts hash = balQuorum w then .next (s.settleBallot o b (some hash) false)
              else .next (s.exhaust o b)
      | _, _, _ => .next (s.finish r.id)

/-- SIBLING_END_MSG (R293): a sibling that ended without being cancelled, after every BPOST of it. -/
def execSiblingEndMsg (plot : Nat) (s : State) : Out :=
  if s.reqs.any fun r => r.party.plot = plot && (match r.op with | .bpost _ _ => true | _ => false) then
    .next (s.again 0 (.siblingEndMsg plot))
  else match s.plotAt plot with
    | none => .next s
    | some p =>
      match s.plotAt p.parent with
      | none => .next s
      | some g =>
        match s.objAt (handleHome g.ballot) (handleIndex g.ballot) with
        | none => .next s
        | some o =>
          match o.ballot with
          | none => .next s
          | some b =>
            if b.group ≠ g.id then .next s
            else
              let b := { b with ended := b.ended ++ [p.sibix] }
              let s := s.modObj o.home o.index fun o => o.modBallot fun _ => b
              if balSettled (o.word 0) then .next s else .next (s.exhaust o b)

/-! ### Cancellation (R294, R296) -/

/-- SIBLING_CANCEL (R294): the cancellation reaches a sibling, and each of its cores stops at its next bundle boundary. One that has
issued its RETIRE has ended normally. -/
def execSiblingCancel (plot : Nat) (s : State) : Out :=
  match s.plotAt plot with
  | none => .next s
  | some p =>
    let ended (c : Core) : Bool := c.runs plot && c.retireIss
    if p.state ≠ stActive || (s.endings.any fun e => e.plot = plot) || s.cores.any ended || s.saved.any (fun v => ended v.core) then .next s
    else .next (s.cancelSibling plot)

/-! ### Release lists (R295) -/

/-- The party that a sibling is, or would have been, for its release list. -/
def State.siblingParty (s : State) (p : Plot) : Party := (p.party).getD ⟨s.pkg, 0, 0, 0, p.id⟩
/-- A request that stands for one entry of a release list: RED.ADD.REL.SYSTEM of -1 on element n of an object. -/
def State.entryReq (s : State) (p : Party) (o : Obj) (n : Nat) : Req :=
  { s.mkReq (.red .add true (-1)) 0 HReg.closed with party := p, home := o.home, index := o.index, gen := o.gen, n := n,
                                                     scope := .system }
/-- The state after one entry, or none when it fails its checks. -/
def State.applyEntry (s : State) (p : Party) (h : Word) (n : Nat) : Option State :=
  match s.objOf h with
  | none => none
  | some o =>
    if !(s.rightsOf o p.plot).getLsbD rAtomic || !o.live || !syncFmt o || o.tiled || o.count ≤ n then none
    else
      let r := s.entryReq p o n
      match s.syncCheck r o true with
      | .fault _ => none
      | .held => some s
      | .go s =>
        let w := o.syncKind.2
        some ((s.modObj o.home o.index fun o =>
          (o.record (r.line o) ⟨.system, p⟩).writeElem 0 (r.elem o)
            ((o.readElem 0 (r.elem o) + 2 ^ (8 * w) - 1) % 2 ^ (8 * w))).touchLine o.home o.index (r.line o))
/-- Whether an entry would be held by a page that is THAWING. -/
def State.entryHeld (s : State) (p : Party) (h : Word) (n : Nat) : Bool :=
  match s.objOf h with
  | none => false
  | some o => match s.syncCheck (s.entryReq p o n) o true with | .held => true | _ => false
/-- RELEASE_LIST_APPLY: once every write of the cancelled sibling is performed or dropped, its row is read and each entry is
performed once; the failures raise RLFAIL of the group. -/
def execReleaseListApply (plot : Nat) (s : State) : Out :=
  match s.plotAt plot with
  | none => .next s
  | some p =>
    let busy := s.reqs.any fun r => r.party.plot = plot && (r.op.writes || r.op = .publ) && r.ahead_
    if busy then .next (s.again 0 (.releaseListApply plot))
    else match s.objOf p.rlist with
      | none => .next s
      | some o =>
        if !o.live || o.rank ≠ 2 || o.syncKind.2 ≠ 8 || !syncFmt o || o.dim 1 < o.dim 0 || o.dim 0 ≤ p.sibix then .next s
        else
          let at_ (j : Nat) : Nat := o.readElem 0 [p.sibix, j]
          let k := at_ 0
          let within := min k ((o.dim 1 - 1) / 2)
          let who := s.siblingParty p
          let es := (List.range within).map fun j => (BitVec.ofNat 64 (at_ (1 + 2 * j)), at_ (2 + 2 * j))
          if es.any fun e => s.entryHeld who e.1 e.2 then .next (s.again 0 (.releaseListApply plot))
          else
            let r := es.foldl (fun (a : State × Nat) e => match a.1.applyEntry who e.1 e.2 with
              | some s => (s, a.2)
              | none => (a.1, a.2 + 1)) (s, k - within)
            .next (r.1.modPlot p.parent fun g => g.add 1120 32 r.2)

end Sys2Proof.Machine
end

