-- ==== Sys2Proof/Machine/Hash.lean ====
section
/-! DEFINITION. The SHA-256 hash of FIPS 180-4: image hashes and the measurement of an attestation report (R2, R347). -/
namespace Sys2Proof.Machine

/-- The round constants. -/
def shaK : List (BitVec 32) :=
  [0x428a2f98, 0x71374491, 0xb5c0fbcf, 0xe9b5dba5, 0x3956c25b, 0x59f111f1, 0x923f82a4, 0xab1c5ed5] ++
  [0xd807aa98, 0x12835b01, 0x243185be, 0x550c7dc3, 0x72be5d74, 0x80deb1fe, 0x9bdc06a7, 0xc19bf174] ++
  [0xe49b69c1, 0xefbe4786, 0x0fc19dc6, 0x240ca1cc, 0x2de92c6f, 0x4a7484aa, 0x5cb0a9dc, 0x76f988da] ++
  [0x983e5152, 0xa831c66d, 0xb00327c8, 0xbf597fc7, 0xc6e00bf3, 0xd5a79147, 0x06ca6351, 0x14292967] ++
  [0x27b70a85, 0x2e1b2138, 0x4d2c6dfc, 0x53380d13, 0x650a7354, 0x766a0abb, 0x81c2c92e, 0x92722c85] ++
  [0xa2bfe8a1, 0xa81a664b, 0xc24b8b70, 0xc76c51a3, 0xd192e819, 0xd6990624, 0xf40e3585, 0x106aa070] ++
  [0x19a4c116, 0x1e376c08, 0x2748774c, 0x34b0bcb5, 0x391c0cb3, 0x4ed8aa4a, 0x5b9cca4f, 0x682e6ff3] ++
  [0x748f82ee, 0x78a5636f, 0x84c87814, 0x8cc70208, 0x90befffa, 0xa4506ceb, 0xbef9a3f7, 0xc67178f2]
/-- The initial hash value. -/
def shaStart : List (BitVec 32) := [0x6a09e667, 0xbb67ae85, 0x3c6ef372, 0xa54ff53a, 0x510e527f, 0x9b05688c, 0x1f83d9ab, 0x5be0cd19]
/-- The next word of the message schedule, from the last 16, the earliest first. -/
def shaNext (w : List (BitVec 32)) : BitVec 32 :=
  let at_ (k : Nat) : BitVec 32 := w.getD k 0
  let s0 := (at_ 1).rotateRight 7 ^^^ (at_ 1).rotateRight 18 ^^^ at_ 1 >>> 3
  let s1 := (at_ 14).rotateRight 17 ^^^ (at_ 14).rotateRight 19 ^^^ at_ 14 >>> 10
  at_ 0 + s0 + at_ 9 + s1
/-- One round: the eight working variables with a constant and a schedule word. -/
def shaRound (v : List (BitVec 32)) (k w : BitVec 32) : List (BitVec 32) :=
  match v with
  | [a, b, c, d, e, f, g, h] =>
    let t1 := h + (e.rotateRight 6 ^^^ e.rotateRight 11 ^^^ e.rotateRight 25) + (e &&& f ^^^ ~~~ e &&& g) + k + w
    let t2 := (a.rotateRight 2 ^^^ a.rotateRight 13 ^^^ a.rotateRight 22) + (a &&& b ^^^ a &&& c ^^^ b &&& c)
    [t1 + t2, a, b, c, d + t1, e, f, g]
  | other => other
/-- The rounds for the constants left; `w` holds the schedule's next 16 words. -/
def shaRounds : List (BitVec 32) → List (BitVec 32) → List (BitVec 32) → List (BitVec 32)
  | [], _, v => v
  | k :: ks, w, v => shaRounds ks (w.drop 1 ++ [shaNext w]) (shaRound v k (w.headD 0))
/-- One block of 16 words into the hash value. -/
def shaBlock (h w : List (BitVec 32)) : List (BitVec 32) := List.zipWith (· + ·) h (shaRounds shaK w h)
/-- The hash value after so many blocks of a list of words. -/
def shaBlocks : Nat → List (BitVec 32) → List (BitVec 32) → List (BitVec 32)
  | 0, _, h => h
  | n + 1, ws, h => shaBlocks n (ws.drop 16) (shaBlock h (ws.take 16))
/-- A number as so many bytes, the greatest first. -/
def beBytes (n v : Nat) : List Byte := ((List.range n).map fun k => BitVec.ofNat 8 (v / 256 ^ k)).reverse
/-- The 32-bit words of bytes, four to a word, the greatest first. -/
def beWords : List Byte → List (BitVec 32)
  | a :: b :: c :: d :: rest => (a ++ b ++ c ++ d) :: beWords rest
  | _ => []
/-- SHA-256 of a message: 32 bytes. -/
def sha256 (m : List Byte) : List Byte :=
  let zeros := (119 - m.length % 64) % 64
  let ws := beWords (m ++ [0x80] ++ List.replicate zeros 0 ++ beBytes 8 (8 * m.length))
  (shaBlocks (ws.length / 16) ws shaStart).flatMap fun w => beBytes 4 w.toNat

end Sys2Proof.Machine
end

