-- ==== Sys2Proof/Machine/HostQ.lean ====
section
/-! DEFINITION. The host's queue pairs (R330 to R335): rings in host memory, doorbells, enabling and disabling, acceptance,
completions, message rings; what BAR0 reports (R335, R339, R346). -/
namespace Sys2Proof.Machine

/-! ### Queue-pair registers (R335) -/

def QPair.sqBase (q : QPair) : Nat := field q.regs 0 64
def QPair.cqBase (q : QPair) : Nat := field q.regs 64 64
def QPair.mqBase (q : QPair) : Nat := field q.regs 128 64
def QPair.root (q : QPair) : Nat := field q.regs 192 32
def QPair.sqLog (q : QPair) : Nat := field q.regs 224 8
def QPair.cqLog (q : QPair) : Nat := field q.regs 232 8
def QPair.mqLog (q : QPair) : Nat := field q.regs 240 8
def QPair.msix (q : QPair) : Nat := field q.regs 256 10
def QPair.enable (q : QPair) : Bool := field q.regs 288 1 = 1
def QPair.ien (q : QPair) : Bool := field q.regs 289 1 = 1
def QPair.stat (q : QPair) : Nat := field q.regs 296 8
def QPair.set (q : QPair) (lo len x : Nat) : QPair := { q with regs := setField q.regs lo len x }
/-- A pair whose registers nothing has written: every field 0. -/
def QPair.fresh (n : Nat) : QPair := ⟨n, 0, 0, 0, 0, 0, 0, 0, true, true, [], [], false⟩
def State.pair (s : State) (n : Nat) : QPair := (s.pairs.find? fun q => q.n = n).getD (QPair.fresh n)
def State.setPair (s : State) (q : QPair) : State :=
  if s.pairs.any fun p => p.n = q.n then { s with pairs := s.pairs.map fun p => if p.n = q.n then q else p }
  else { s with pairs := s.pairs ++ [q] }
/-- Entries of each ring. -/
def QPair.sqSize (q : QPair) : Nat := 2 ^ q.sqLog
def QPair.cqSize (q : QPair) : Nat := 2 ^ q.cqLog
def QPair.mqSize (q : QPair) : Nat := 2 ^ q.mqLog

/-! ### Enabling and disabling (R334, R335) -/

/-- A field out of range. -/
def QPair.badFields (q : QPair) : Bool :=
  q.sqLog < 4 || 16 < q.sqLog || q.cqLog < 4 || 16 < q.cqLog || q.sqBase % 4096 ≠ 0 || q.cqBase % 4096 ≠ 0 ||
  (if q.mqBase = 0 then q.mqLog ≠ 0 else q.mqLog < 4 || 16 < q.mqLog || q.mqBase % 4096 ≠ 0)
/-- ROOTID names a ROOT, or is 0 while administration is permitted. -/
def State.badRoot (s : State) (q : QPair) : Bool :=
  if q.root = 0 then !s.adminOk else match s.plotAt q.root with | some p => p.kind ≠ kindRoot | none => true
/-- An enabled pair at its start. -/
def QPair.start (q : QPair) : QPair :=
  { q.set 296 8 1 with sqHead := 0, sqTail := 0, cqHead := 0, cqTail := 0, mqHead := 0, mqTail := 0, cqPhase := true,
                       mqPhase := true, pend := [], active := [], wrote := false }
/-- QP_ENABLE: the management controller's check of a pair whose ENABLE has been written 1, and still is. -/
def execQpEnable (n : Nat) (s : State) : Out :=
  if Config.queuePairs ≤ n then .next s
  else
    let q := s.pair n
    if q.stat = 1 || !q.enable then .next s
    else if q.badFields then .next (s.setPair ((q.set 288 1 0).set 296 8 2))
    else if s.badRoot q then .next (s.setPair ((q.set 288 1 0).set 296 8 3))
    else .next (s.setPair q.start)
/-- STAT reads 0 once the last completion of a disabled pair is written. -/
def QPair.quiet (q : QPair) : QPair := if !q.enable && q.pend = [] && q.active = [] then q.set 296 8 0 else q
/-- QP_DISABLE: acceptance stops. -/
def execQpDisable (n : Nat) (s : State) : Out :=
  let q := s.pair n
  if Config.queuePairs ≤ n ∨ q.stat ≠ 1 then .next s else .next (s.setPair (q.set 288 1 0).quiet)

/-! ### Completions and message rings (R332, R335) -/

/-- Bytes written to host memory. -/
def State.hostPut (s : State) (a : Nat) (bs : List Byte) : State := { s with hostMem := memPut s.hostMem a bs }
/-- A completion (R332); its phase bit is set when it is written. -/
def completion (seq status tag : Nat) : BitVec 128 :=
  BitVec.ofNat 128 (tag % 2 ^ 32 + status % 256 * 2 ^ 32 + seq % 2 ^ 64 * 2 ^ 64)
/-- The end of a pass of a queue core's round robin (R335): one vector for each of its pairs for which the pass wrote completions or
messages, where IEN is 1. -/
def State.endPass (s : State) (core : Nat) : State :=
  let mine (q : QPair) : Bool := q.n % 64 = core && q.wrote
  { s with irqs := s.irqs ++ (s.pairs.filter fun q => mine q && q.ien).map (·.msix),
           pairs := s.pairs.map fun q => if mine q then { q with wrote := false } else q }
/-- The journal entry of a command that completes: STATUS and CSTAT (R338). -/
def State.journalClose (s : State) (seq status : Nat) : State :=
  let st := if status = 5 ∨ status = 6 then 2 else 1
  let upd (e : Nat × BitVec 512) : Nat × BitVec 512 := (e.1, setField (setField e.2 160 8 st) 128 8 status)
  { s with journal := updFirst (fun e => e.1 = seq) upd s.journal }.journalFlush s.journWait
/-- COMPLETION_WRITE: the oldest completion of a pair is written, unless its ring is full. -/
def execCompletionWrite (n : Nat) (s : State) : Out :=
  let q := s.pair n
  match q.pend with
  | [] => .next s
  | c :: rest =>
    if (q.cqTail + 1) % q.cqSize = q.cqHead then .next s
    else
      let seq := field c 64 64
      let v := c.toNat + boolBit q.cqPhase * 2 ^ 40
      let s := s.hostPut (q.cqBase + 16 * q.cqTail) (toBytes 16 v)
      let t := (q.cqTail + 1) % q.cqSize
      let q := { q with pend := rest, active := q.active.filter (· ≠ seq), cqTail := t,
                        cqPhase := if t = 0 then !q.cqPhase else q.cqPhase, wrote := true }
      .next ((s.journalClose seq (field c 32 8)).setPair q.quiet)

/-- An entry of a message ring (R335). -/
def messageEntry (msg : List Word) (plot tinst ts : Nat) (phase : Bool) : List Byte :=
  (msg.map fun w => toBytes 8 w.toNat).flatten ++ toBytes 4 plot ++ toBytes 4 tinst ++ toBytes 8 ts ++
    [BitVec.ofNat 8 (boolBit phase)] ++ List.replicate 47 0
/-- A message appended to a pair's ring; none when the pair has no ring or it is full. -/
def State.mqWrite (s : State) (n : Nat) (msg : List Word) (plot tinst ts : Nat) : Option State :=
  let q := s.pair n
  if q.stat ≠ 1 || q.mqBase = 0 || (q.mqTail + 1) % q.mqSize = q.mqHead then none
  else
    let s := s.hostPut (q.mqBase + 128 * q.mqTail) (messageEntry msg plot tinst ts q.mqPhase)
    let t := (q.mqTail + 1) % q.mqSize
    let q := { q with mqTail := t, mqPhase := if t = 0 then !q.mqPhase else q.mqPhase, wrote := true }
    some (s.setPair q)
/-- The pair whose ring is a ROOT's host completion queue: the lowest-numbered enabled tenant pair that has a ring. -/
def State.portOne (s : State) (root : Nat) : Option Nat :=
  (s.pairs.filter fun q => q.stat = 1 && q.root = root && root ≠ 0 && q.mqBase ≠ 0).foldl (fun b q => match b with
    | none => some q.n
    | some n => some (min n q.n)) none

/-! ### Doorbells (R335) -/

/-- The submission tail. -/
def execSqTailDoorbell (n : Nat) (v : BitVec 32) (s : State) : Out :=
  let q := s.pair n
  if q.stat ≠ 1 then .next s else .next (s.setPair { q with sqTail := v.toNat % q.sqSize })
/-- The completion head: completions that were held may be written. -/
def execCqHeadDoorbell (n : Nat) (v : BitVec 32) (s : State) : Out :=
  let q := s.pair n
  if q.stat ≠ 1 then .next s
  else .next (q.pend.foldl (fun s _ => s.later 0 (.completionWrite n)) (s.setPair { q with cqHead := v.toNat % q.cqSize }))
/-- The message-ring head. -/
def execMqHeadDoorbell (n : Nat) (v : BitVec 32) (s : State) : Out :=
  let q := s.pair n
  if q.stat ≠ 1 then .next s else .next (s.setPair { q with mqHead := v.toNat % q.mqSize })

/-- The writable bits of word k of a pair's registers. -/
def pairMask (k : Nat) : Nat :=
  if k < 7 then 2 ^ 32 - 1 else if k = 7 then 2 ^ 24 - 1 else if k = 8 then 2 ^ 10 - 1 else 0
/-- REGISTER_WRITE: a 32-bit write to BAR0. Doorbells go to their own steps; of the queue-pair registers, ENABLE starts the
check or stops acceptance, IEN is always taken, and every other field only while the pair is disabled. -/
def execRegisterWrite (off : Nat) (v : BitVec 32) (s : State) : Out :=
  if off % 4 ≠ 0 then .next s
  else if 0x1000 ≤ off ∧ off < 0x5000 then
    let n := (off - 0x1000) / 16
    match off / 4 % 4 with
    | 0 => execSqTailDoorbell n v s
    | 1 => execCqHeadDoorbell n v s
    | 2 => execMqHeadDoorbell n v s
    | _ => .next s
  else if 0x8000 ≤ off ∧ off < 0x18000 then
    let n := (off - 0x8000) / 64
    let k := (off - 0x8000) / 4 % 16
    let q := s.pair n
    if k = 9 then
      let on := v.getLsbD 0
      let q := q.set 289 1 (boolBit (v.getLsbD 1))
      if on && !q.enable && q.stat ≠ 1 then .next ((s.setPair (q.set 288 1 1)).later 0 (.qpEnable n))
      else if !on && q.enable then
        (if q.stat = 1 then execQpDisable n (s.setPair q) else .next (s.setPair (q.set 288 1 0)))
      else .next (s.setPair q)
    else if q.enable then .next s
    else .next (s.setPair (q.set (32 * k) 32 (v.toNat &&& pairMask k ||| (field q.regs (32 * k) 32 &&& (2 ^ 32 - 1 - pairMask k)))))
  else .next s

/-! ### Acceptance (R332, R338, R339) -/

/-- The next command of a pair, as 512 bits. -/
def State.nextCommand (s : State) (q : QPair) : Nat := memRead s.hostMem (q.sqBase + 64 * q.sqHead) 64
/-- The entry that the next one would overwrite is in progress, or entries wait for one that is (R339). -/
def State.journalFull (s : State) : Bool := s.placeTaken || s.journWait ≠ []
/-- A pair has a command that may be accepted: with ORD only once every earlier one has completed. -/
def State.acceptable (s : State) (q : QPair) : Bool :=
  q.enable && q.stat = 1 && q.sqHead ≠ q.sqTail && !s.journalFull &&
  !(s.nextCommand q / 2 ^ 16 % 2 = 1 && (q.active ≠ [] || q.pend ≠ []))
/-- A command is accepted: its journal entry is written and the latch holds it; the pair goes to the end of the round
robin. -/
def State.accept (s : State) (q : QPair) : State :=
  let b := s.nextCommand q
  let seq := s.nextSeq
  let c := commandOf q.n seq b
  let s := s.journalAdd c.plot.toNat 1 0 0 q.n (b % 2 ^ 320)
  let q := { q with sqHead := (q.sqHead + 1) % q.sqSize, active := q.active ++ [seq] }
  { s with cmd := c, pairs := (s.pairs.filter fun p => p.n ≠ q.n) ++ [q] }
/-- A command ends with a status: its completion is on its way. -/
def State.complete (s : State) (c : Command) (status : Nat) : State :=
  let q := s.pair c.pair
  (s.setPair { q with pend := q.pend ++ [completion c.seq status c.tag.toNat] }).later 0 (.completionWrite c.pair)
/-! ### What BAR0 reports (R335, R339, R346) -/

/-- The status mailbox. -/
def State.mailbox (s : State) : Word :=
  let st := match s.power with | .starting => 0 | .running => 1 | .fallow => 2
  BitVec.ofNat 64 (st + s.reason % 16 * 2 ^ 4 + s.unit % 2 ^ 32 * 2 ^ 16 + s.test % 2 ^ 16 * 2 ^ 48)
/-- The journal summary: newest SEQ, oldest SEQ held, entries in progress, timestamp of the newest entry. -/
def State.summary (s : State) : List Word :=
  [BitVec.ofNat 64 (s.nextSeq - 1), BitVec.ofNat 64 (match s.journal with | e :: _ => e.1 | [] => 0),
   BitVec.ofNat 64 (s.journal.filter fun e => inProgress e.2).length, BitVec.ofNat 64 s.journTs]

/-- The 32 bytes of an aperture's status: handle, start, control word, discarded writes (R336). -/
def State.apertureStatus (s : State) (n : Nat) : Nat :=
  let count := countOf n s.discards * 2 ^ 192
  match s.apertures.find? fun a => a.n = n with
  | some a => a.handle.toNat + a.start % 2 ^ 64 * 2 ^ 64 + (1 + boolBit a.write * 2 + a.ver.toNat * 2 ^ 32) * 2 ^ 128 + count
  | none => count
/-- The doorbells of a pair as a read returns them: the values that the device holds. -/
def QPair.doorbells (q : QPair) : Nat := q.sqTail % 2 ^ 32 + q.cqHead % 2 ^ 32 * 2 ^ 32 + q.mqHead % 2 ^ 32 * 2 ^ 64
/-- Where BAR0 serves the last attestation report (R347): beyond the areas of R335, which lists none for it (DESIGN CHOICE, assumption log
127). -/
def reportBase : Nat := 0x20000
/-- A byte of BAR0 (R335): the mailbox, the summary, the doorbells, the queue-pair registers, the aperture status and the last attestation
report; every other area reads 0. -/
def State.bar0Byte (s : State) (off : Nat) : Byte :=
  let at_ (v k : Nat) : Byte := BitVec.ofNat 8 (v / 2 ^ (8 * k))
  if off < 8 then at_ s.mailbox.toNat off
  else if 0x40 ≤ off ∧ off < 0x60 then at_ (s.summary.getD ((off - 0x40) / 8) 0).toNat (off % 8)
  else if 0x1000 ≤ off ∧ off < 0x5000 then at_ (s.pair ((off - 0x1000) / 16)).doorbells (off % 16)
  else if 0x8000 ≤ off ∧ off < 0x18000 then at_ (s.pair ((off - 0x8000) / 64)).regs.toNat (off % 64)
  else if 0x18000 ≤ off ∧ off < reportBase then at_ (s.apertureStatus ((off - 0x18000) / 32)) (off % 32)
  else if reportBase ≤ off then (s.reports.getLastD []).getD (off - reportBase) 0
  else 0

end Sys2Proof.Machine
end

