-- ==== Sys2Proof/Machine/VectorArith.lean ====
section
/-! DEFINITION. The vector arithmetic instructions: the element-wise frame of R135 and the entries of R136 to R151 but for
VRCP and VRSQ. -/
namespace Sys2Proof.Machine

/-! ### The frame (R127 to R132, R135) -/

/-- The causes of a V syllable, in R132's order. -/
def vCause (poison isReserved mismatch emulate : Bool) : Option Cause :=
  if poison then some .poison else fmtCause isReserved mismatch emulate
/-- A V syllable: STALL_SHORT, its other causes, then its effect (R132). -/
def vsyl (srcs : List Reg) (cause : Core → Option Cause) (body : Core → Core) (s : State) : Out :=
  syl srcs (fun c => match cause c with | some k => c.trap k | none => body c) s
/-- The latency of a result; one that the system cores computed is written at the end of the replay cycle (R303). -/
def Core.lat (c : Core) (n : Nat) : Nat := if c.iss.emul then 1 else n

def isReserved (f : Fmt) : Bool := fmtKind f = .reserved
def VReg.reserved (v : VReg) : Bool := Sys2Proof.Machine.isReserved v.tag.fmt
/-- A nonzero scale on a format that takes none (R109). -/
def Tag.badScale (t : Tag) : Bool := !(fmtKind t.fmt).scaled && t.scale ≠ 0
def VReg.t16 (v : VReg) : Bool := v.kind = .flt .t16
/-- The tag an interpreting instruction gives its result: A's format and, if scaled, its scale (R128). -/
def resultTag (a : VReg) : Tag := ⟨a.tag.fmt, if a.kind.scaled then a.tag.scale else 0, false⟩
/-- Under merge the old destination must carry the result's format and scale (R129). -/
def mergeBad (c : Core) (k : MaskOp) (d : Fin 32) (t : Tag) : Bool :=
  MaskOp.merges k && ((c.rv d).tag.fmt ≠ t.fmt || (c.rv d).tag.scale ≠ t.scale)

/-- The whole new register, each active element by `el`, the others merged or zero (R129, R135). -/
def maskedImage (c : Core) (k : MaskOp) (d : Fin 32) (w : Nat) (el : Nat → Nat) : VBits :=
  let old := (c.rv d).data
  mkImage w (elems w) fun i => if active c k w i then el i else if MaskOp.merges k then bitsAt old w i else 0
/-- The result written with its tag; the poison bit of a merged destination is ORed in (R128, R129). -/
def Core.writeV (c : Core) (lat : Nat) (k : MaskOp) (d : Fin 32) (t : Tag) (w : Nat) (el : Nat → Nat) : Core :=
  c.wv (c.lat lat) d ⟨maskedImage c k d w el, { t with poison := t.poison || (MaskOp.merges k && (c.rv d).tag.poison) }⟩

/-- The causes of an interpreting instruction: poison on a source, reserved tags, then disagreement, an unaccepted
format or a bad merge, then T16 (R127, R129, R131, R132). -/
def interpCause (c : Core) (accept : FmtKind → Bool) (a : Fin 32) (others : List (Fin 32)) (k : MaskOp) (d : Fin 32) :
    Option Cause :=
  let va := c.rv a
  let vs := va :: others.map c.rv
  vCause (vs.any VReg.marked) (vs.any VReg.reserved)
    (vs.any (fun v => v.tag.fmt ≠ va.tag.fmt || Tag.badScale v.tag) || !accept va.kind || mergeBad c k d (resultTag va))
    (va.t16 && !c.iss.emul)

/-- The registers an element-wise instruction reads (R38, R129). -/
def vSrcs (a : Fin 32) (others : List (Fin 32)) (k : MaskOp) (d : Fin 32) : List Reg :=
  .v a.val :: others.map (fun r => .v r.val) ++ maskSrcs k d

/-- An interpreting element-wise instruction (R135). -/
def interp (accept : FmtKind → Bool) (lat : FmtKind → Nat) (el : Core → Nat → Nat) (d a : Fin 32) (others : List (Fin 32))
    (k : MaskOp) (s : State) : Out :=
  vsyl (vSrcs a others k d) (fun c => interpCause c accept a others k d)
    (fun c => let va := c.rv a; c.writeV (lat va.kind) k d (resultTag va) va.w (el c)) s

/-- Enc(x) (R135): an integer wraps, anything else is rounded once under the destination's scale. -/
def enc (a : VReg) (rm : Rm) (i : Int) (x : Exact) : Nat :=
  match a.kind with
  | .int _ n => wrapInt n i
  | .flt f => roundTo f rm (resultTag a).scale.toInt x
  | _ => 0

/-- Integer, float and tapered formats, but not RAW. -/
def anyNumber (k : FmtKind) : Bool := k.isInt || k.isFloat
/-- The latency of R134's first row. -/
def lat24 (k : FmtKind) : Nat := if k.isInt then 2 else 4

/-! ### Arithmetic (R136 to R139) -/

/-- An instruction of two sources computed exactly (R136). -/
def arith2 (lat : FmtKind → Nat) (rm : Rm) (fi : VReg → Int → Int → Int) (fx : FVal → FVal → Exact) (d a b : Fin 32)
    (k : MaskOp) (s : State) : Out :=
  interp anyNumber lat (fun c i =>
    let va := c.rv a
    let vb := c.rv b
    enc va rm (fi va (va.int i) (vb.int i)) (fx (va.val i) (vb.val i))) d a [b] k s

def vAddX (rm : Rm) (a b : FVal) : Exact := sumVals rm [a, b]
def vSubX (rm : Rm) (a b : FVal) : Exact := sumVals rm [a, b.negate]
def execVadd (rm : Rm) (d a b : Fin 32) (k : MaskOp) (s : State) : Out :=
  arith2 lat24 rm (fun _ a b => a + b) (vAddX rm) d a b k s
def execVsub (rm : Rm) (d a b : Fin 32) (k : MaskOp) (s : State) : Out :=
  arith2 lat24 rm (fun _ a b => a - b) (vSubX rm) d a b k s
def execVmul (rm : Rm) (d a b : Fin 32) (k : MaskOp) (s : State) : Out :=
  arith2 lat24 rm (fun _ a b => a * b) (fun a b => .ofVal (mulVal a b)) d a b k s
/-- VDIV (R136): R78 per element in an integer format; a divisor of 0 gives -1 or all ones. -/
def execVdiv (rm : Rm) (d a b : Fin 32) (k : MaskOp) (s : State) : Out :=
  arith2 (fun _ => 14) rm (fun _ a b => if b = 0 then -1 else a.tdiv b) divExact d a b k s

/-- VFMA, VFMS, VFNMA (R137): the product and the addend, with their signs. -/
def fused (negP negC : Bool) (rm : Rm) (d a b e : Fin 32) (k : MaskOp) (s : State) : Out :=
  interp anyNumber lat24 (fun c i =>
    let va := c.rv a
    let p := va.int i * (c.rv b).int i
    let z := (c.rv e).int i
    let px := mulVal (va.val i) ((c.rv b).val i)
    let zx := (c.rv e).val i
    enc va rm ((if negP then -p else p) + (if negC then -z else z))
      (sumVals rm [if negP then px.negate else px, if negC then zx.negate else zx])) d a [b, e] k s
def execVfma (rm : Rm) (d a b e : Fin 32) (k : MaskOp) (s : State) : Out := fused false false rm d a b e k s
def execVfms (rm : Rm) (d a b e : Fin 32) (k : MaskOp) (s : State) : Out := fused false true rm d a b e k s
def execVfnma (rm : Rm) (d a b e : Fin 32) (k : MaskOp) (s : State) : Out := fused true false rm d a b e k s

/-- VSQRT (R138). -/
def execVsqrt (rm : Rm) (d a : Fin 32) (k : MaskOp) (s : State) : Out :=
  interp FmtKind.isFloat (fun _ => 14) (fun c i => let va := c.rv a; enc va rm 0 (sqrtExact (va.val i))) d a [] k s

/-- VSCALE (R139): B is the signed integer format of A's element size. -/
def execVscale (rm : Rm) (d a b : Fin 32) (k : MaskOp) (s : State) : Out :=
  vsyl (vSrcs a [b] k d)
    (fun c =>
      let va := c.rv a
      let vb := c.rv b
      vCause (va.marked || vb.marked) (va.reserved || vb.reserved)
        (!va.kind.isFloat || vb.kind ≠ .int true va.w || Tag.badScale va.tag || Tag.badScale vb.tag ||
          mergeBad c k d (resultTag va))
        (va.t16 && !c.iss.emul))
    (fun c =>
      let va := c.rv a
      c.writeV (lat24 va.kind) k d (resultTag va) va.w fun i =>
        enc va rm 0 (.ofVal ((va.val i).shift ((c.rv b).int i)))) s

/-! ### Minimum, maximum and sign (R140, R141) -/

/-- The order of R140: real values, with -0 below +0; none when either is a NaN. -/
def orderZ (a b : FVal) : Option Ordering :=
  match a, b with
  | .fin n 0 _, .fin m 0 _ => some (if n = m then .eq else if n then .lt else .gt)
  | a, b => cmpVal a b

/-- A code with the unused bits of a T6 element 0 (R108). -/
def FmtKind.clean (k : FmtKind) (code : Nat) : Nat := if k = .flt .t6 then code % 64 else code

/-- VMIN and VMAX (R140): `lo` for the least. B's element is chosen only when it is strictly beyond A's; under another
scale its value is re-encoded. -/
def minmaxElem (lo : Bool) (va vb : VReg) (i : Nat) : Nat :=
  match va.kind with
  | .flt f =>
    match orderZ (va.val i) (vb.val i) with
    | none => f.nanCode
    | some o =>
      if o = (if lo then .gt else .lt) then
        if vb.tag.scale = va.tag.scale then va.kind.clean (vb.bits i)
        else roundTo f .rne (resultTag va).scale.toInt (.ofVal (vb.val i))
      else va.kind.clean (va.bits i)
  | _ => if (if lo then vb.int i < va.int i else va.int i < vb.int i) then vb.bits i else va.bits i

def execVmin (d a b : Fin 32) (k : MaskOp) (s : State) : Out :=
  interp anyNumber (fun _ => 2) (fun c i => minmaxElem true (c.rv a) (c.rv b) i) d a [b] k s
def execVmax (d a b : Fin 32) (k : MaskOp) (s : State) : Out :=
  interp anyNumber (fun _ => 2) (fun c i => minmaxElem false (c.rv a) (c.rv b) i) d a [b] k s

/-- The sign bit of a float code. -/
def FloatFmt.signOf (f : FloatFmt) (code : Nat) : Bool := code / 2 ^ f.mBits % 2 = 1
/-- A float element with its sign set: NaN gives the canonical NaN, NaR and a tapered 0 stay (R141). -/
def FloatFmt.withSign (f : FloatFmt) (code : Nat) (neg : Bool) : Nat :=
  if f.decode code = .nan then f.nanCode else f.code neg (code % 2 ^ f.mBits)

/-- VABS (R141). -/
def execVabs (d a : Fin 32) (k : MaskOp) (s : State) : Out :=
  interp anyNumber (fun _ => 2) (fun c i =>
    let va := c.rv a
    match va.kind with
    | .flt f => f.withSign (va.bits i) false
    | .int _ n => wrapInt n (va.int i).natAbs
    | _ => 0) d a [] k s
/-- VNEG (R141). -/
def execVneg (d a : Fin 32) (k : MaskOp) (s : State) : Out :=
  interp anyNumber (fun _ => 2) (fun c i =>
    let va := c.rv a
    match va.kind with
    | .flt f => f.withSign (va.bits i) (!f.signOf (va.bits i))
    | .int _ n => wrapInt n (-(va.int i))
    | _ => 0) d a [] k s
/-- VCPS (R141): the magnitude of a with the sign of b; unsigned formats trap FORMAT_MISMATCH. -/
def execVcps (d a b : Fin 32) (k : MaskOp) (s : State) : Out :=
  interp (fun k => match k with | .int s _ => s | .flt _ => true | _ => false) (fun _ => 2) (fun c i =>
    let va := c.rv a
    let vb := c.rv b
    match va.kind with
    | .flt f =>
      if f.tapered then
        if f.decode (vb.bits i) = .nan then f.nanCode else f.withSign (va.bits i) (f.signOf (vb.bits i))
      else f.withSign (va.bits i) (f.signOf (vb.bits i))
    | .int _ n => let m : Int := (va.int i).natAbs; wrapInt n (if vb.int i < 0 then -m else m)
    | _ => 0) d a [b] k s

/-! ### Comparison and classification (R130, R142, R143) -/

/-- A mask from a result per element, inactive elements merged or zero (R130). -/
def maskResult (c : Core) (k : MaskOp) (d : Fin 8) (w : Nat) (f : Nat → Bool) : MBits :=
  let old := (c.rm d).toNat
  BitVec.ofNat 512 (((List.range (elems w)).map fun i =>
    let full := (2 ^ w - 1) * 2 ^ (w * i)
    if active c k w i then (if f i then full else 0) else if MaskOp.merges k then old &&& full else 0).sum)

/-- VCMP (R142): m[D] is a source under merge. -/
def execVcmp (cond : FCond) (d : Fin 8) (a b : Fin 32) (k : MaskOp) (s : State) : Out :=
  vsyl (.v a.val :: .v b.val :: (match k with | .all => [] | .mask m z => .m m.val :: if z then [] else [.m d.val]))
    (fun c =>
      let va := c.rv a
      let vb := c.rv b
      vCause (va.marked || vb.marked) (va.reserved || vb.reserved)
        (va.tag.fmt ≠ vb.tag.fmt || Tag.badScale va.tag || Tag.badScale vb.tag || !anyNumber va.kind)
        (va.t16 && !c.iss.emul))
    (fun c =>
      let va := c.rv a
      c.wm (c.lat 2) d (maskResult c k d va.w fun i => fcondHolds cond (cmpVal (va.val i) ((c.rv b).val i)))) s

/-- VCLASS (R143). -/
def execVclass (d : Fin 8) (a : Fin 32) (set : BitVec 7) (s : State) : Out :=
  vsyl [.v a.val]
    (fun c =>
      let va := c.rv a
      vCause va.marked va.reserved (Tag.badScale va.tag || !anyNumber va.kind) (va.t16 && !c.iss.emul))
    (fun c =>
      let va := c.rv a
      c.wm (c.lat 2) d (mkMask va.w (elems va.w) fun i => classBits va.kind (va.bits i) &&& set.toNat ≠ 0)) s

/-! ### Selection, bitwise operations and shifts (R144 to R146) -/

/-- The causes of a carrying instruction: the code POISON, reserved tags, and a disagreement (R109, R129, R131). -/
def carryCause (vs : List VReg) (mismatch : Bool) : Option Cause :=
  vCause (vs.any VReg.isPoison) (vs.any VReg.reserved) (vs.any (fun v => Tag.badScale v.tag) || mismatch) false

/-- VSEL (R144). -/
def execVsel (d a b : Fin 32) (m : Fin 8) (s : State) : Out :=
  vsyl [.v a.val, .v b.val, .m m.val]
    (fun c =>
      let va := c.rv a
      let vb := c.rv b
      carryCause [va, vb] (va.tag.fmt ≠ vb.tag.fmt || va.tag.scale ≠ vb.tag.scale))
    (fun c =>
      let va := c.rv a
      let vb := c.rv b
      c.writeV 2 .all d { va.tag with poison := va.tag.poison || vb.tag.poison } va.w fun i =>
        if (c.rm m).getLsbD (va.w * i) then va.bits i else vb.bits i) s

/-- The tag of a bitwise result: that of the register that is not RAW, or A's (R145). -/
def bitwiseTag (va vb : VReg) : Tag :=
  let t := if va.tag.fmt = fmtRaw && vb.tag.fmt ≠ fmtRaw then vb.tag else va.tag
  { t with poison := va.tag.poison || vb.tag.poison }

/-- VAND, VOR, VXOR (R145). -/
def bitwise (f : VBits → VBits → VBits) (d a b : Fin 32) (k : MaskOp) (s : State) : Out :=
  vsyl (vSrcs a [b] k d)
    (fun c =>
      let va := c.rv a
      let vb := c.rv b
      carryCause [va, vb]
        ((va.tag.fmt ≠ vb.tag.fmt && va.tag.fmt ≠ fmtRaw && vb.tag.fmt ≠ fmtRaw) || mergeBad c k d (bitwiseTag va vb)))
    (fun c =>
      let va := c.rv a
      let vb := c.rv b
      let t := bitwiseTag va vb
      let w := (fmtKind t.fmt).bytes
      let r := f va.data vb.data
      c.writeV 2 k d t w fun i => bitsAt r w i) s
def execVand (d a b : Fin 32) (k : MaskOp) (s : State) : Out := bitwise (fun x y => x &&& y) d a b k s
def execVor (d a b : Fin 32) (k : MaskOp) (s : State) : Out := bitwise (fun x y => x ||| y) d a b k s
def execVxor (d a b : Fin 32) (k : MaskOp) (s : State) : Out := bitwise (fun x y => x ^^^ y) d a b k s

/-- A carrying instruction of one source (R128, R145, R149). -/
def carry1 (f : VBits → VBits) (d a : Fin 32) (k : MaskOp) (s : State) : Out :=
  vsyl (vSrcs a [] k d) (fun c => carryCause [c.rv a] (mergeBad c k d (c.rv a).tag))
    (fun c =>
      let va := c.rv a
      let r := f va.data
      c.writeV 2 k d va.tag va.w fun i => bitsAt r va.w i) s
def execVnot (d a : Fin 32) (k : MaskOp) (s : State) : Out := carry1 (fun x => ~~~x) d a k s

/-- The shifts (R146). -/
def shift (f : Nat → Nat → Nat → Nat) (d a b : Fin 32) (k : MaskOp) (s : State) : Out :=
  vsyl (vSrcs a [b] k d)
    (fun c =>
      let va := c.rv a
      let vb := c.rv b
      carryCause [va, vb] (!(va.kind.isInt || va.kind = .raw) || va.tag.fmt ≠ vb.tag.fmt || mergeBad c k d va.tag))
    (fun c =>
      let va := c.rv a
      let vb := c.rv b
      c.writeV 2 k d { va.tag with poison := va.tag.poison || vb.tag.poison } va.w fun i =>
        f (8 * va.w) (va.bits i) (vb.bits i % (8 * va.w))) s
def execVshl (d a b : Fin 32) (k : MaskOp) (s : State) : Out := shift (fun n x j => x * 2 ^ j % 2 ^ n) d a b k s
def execVshr (d a b : Fin 32) (k : MaskOp) (s : State) : Out := shift (fun _ x j => x / 2 ^ j) d a b k s
def execVsra (d a b : Fin 32) (k : MaskOp) (s : State) : Out :=
  shift (fun n x j => ((BitVec.ofNat n x).sshiftRight j).toNat) d a b k s

/-! ### Conversion and tags (R147 to R151) -/

/-- VCVT (R147). -/
def execVcvt (rm : Rm) (d a : Fin 32) (fmt : Fmt) (k : MaskOp) (s : State) : Out :=
  vsyl (vSrcs a [] k d)
    (fun c =>
      let va := c.rv a
      vCause va.marked (va.reserved || isReserved fmt)
        (va.kind = .raw || fmtKind fmt = .raw || Tag.badScale va.tag || mergeBad c k d ⟨fmt, 0, false⟩)
        ((va.t16 || fmtKind fmt = .flt .t16) && !c.iss.emul))
    (fun c =>
      let va := c.rv a
      let wd := (fmtKind fmt).bytes
      let n := min (elems va.w) (elems wd)
      let old := (c.rv d).data
      let el (i : Nat) : Nat :=
        if n ≤ i then 0
        else if active c k wd i then convertCode va.kind (fmtKind fmt) rm va.tag.scale.toInt (va.bits i)
        else if MaskOp.merges k then bitsAt old wd i else 0
      c.wv (c.lat 3) d ⟨mkImage wd (elems wd) el, ⟨fmt, 0, MaskOp.merges k && (c.rv d).tag.poison⟩⟩) s

/-- VTAG (R148): of A's tag it looks only at POISON (R131; assumption log 118). -/
def execVtag (d a : Fin 32) (fmt : Fmt) (scale : BitVec 8) (poison : Bool) (s : State) : Out :=
  vsyl [.v a.val]
    (fun c => vCause (c.rv a).isPoison (isReserved fmt) (Tag.badScale ⟨fmt, scale, false⟩) false)
    (fun c => c.wv (c.lat 2) d ⟨(c.rv a).data, ⟨fmt, scale, (c.rv a).tag.poison || poison⟩⟩) s

/-- VMOV (R149): with MEN = 0 it copies a register whatever its tag (R131; assumption log 118). -/
def execVmov (d a : Fin 32) (k : MaskOp) (s : State) : Out :=
  match k with
  | .all => vsyl [.v a.val] (fun _ => none) (fun c => c.wv (c.lat 2) d (c.rv a)) s
  | .mask _ _ => carry1 id d a k s

/-- The pattern VMOVI writes in every element (R150). -/
def vmoviPattern (fmt : Fmt) (imm : BitVec 32) : Nat :=
  match fmtKind fmt with
  | .int true 8 => (imm.signExtend 64).toNat
  | .flt .f64 => convertCode (.flt .f32) (.flt .f64) .rne 0 imm.toNat
  | k => k.clean imm.toNat % 2 ^ (8 * k.bytes)

/-- VMOVI (R150): an interpreting instruction, so the system cores write a T16 pattern (R127, R132). -/
def execVmovi (d : Fin 32) (imm : BitVec 32) (fmt : Fmt) (s : State) : Out :=
  vsyl [] (fun c => vCause false (isReserved fmt) false (fmtKind fmt = .flt .t16 && !c.iss.emul))
    (fun c => c.writeV 2 .all d ⟨fmt, 0, false⟩ (fmtKind fmt).bytes fun _ => vmoviPattern fmt imm) s

/-- VBCAST (R151). -/
def execVbcast (d a : Fin 32) (n : Fin 128) (s : State) : Out :=
  vsyl [.v a.val] (fun c => carryCause [c.rv a] false)
    (fun c =>
      let va := c.rv a
      c.writeV 6 .all d va.tag va.w fun _ => va.bits (n.val % elems va.w)) s

end Sys2Proof.Machine
end

