-- ==== Sys2Proof/Machine/Micro.lean ====
section
/-! DEFINITION. The matrix engine (R169 to R176, R182 to R194): captured parameters, the unfolding unit, row steps, the
microwords one cycle at a time, B-stage loads, store loads, faults. -/
namespace Sys2Proof.Machine

/-! ### Captured parameters (R169, R172, R185) -/

/-- A field of a parameter register. -/
def mpf (w : Word) (lo len : Nat) : Nat := w.toNat / 2 ^ lo % 2 ^ len
/-- The byte-wide float formats that mix (R169). -/
def byteFloat (k : FmtKind) : Bool := k = .flt .f8e4 || k = .flt .f8e5 || k = .flt .t6 || k = .flt .t8
/-- Kb and the accumulator format of a pair of operand formats (R169). -/
def enginePair (a b : FmtKind) : Option (Nat × BankFmt) :=
  if a = .int true 1 ∧ b = .int true 1 then some (256, .i32)
  else if byteFloat a ∧ byteFloat b then some (256, .f32)
  else if a ≠ b then none
  else if a = .flt .f16 ∨ a = .flt .bf16 then some (128, .f32)
  else if a = .flt .f32 then some (64, .f32)
  else if a = .flt .f64 then some (32, .f64)
  else none

/-- The captured parameters of a routine. -/
structure Geo where
  mp : Vector Word 8

def Geo.w (g : Geo) (k : Fin 8) : Word := g.mp.get k
def Geo.afmt (g : Geo) : Fmt := BitVec.ofNat 5 (mpf (g.w 0) 38 5)
def Geo.ascale (g : Geo) : BitVec 8 := BitVec.ofNat 8 (mpf (g.w 0) 43 8)
def Geo.apitch (g : Geo) : Nat := mpf (g.w 0) 19 19
def Geo.abase (g : Geo) : Nat := mpf (g.w 0) 0 19
def Geo.conv (g : Geo) : Bool := mpf (g.w 0) 51 1 = 1
def Geo.bfmt (g : Geo) : Fmt := BitVec.ofNat 5 (mpf (g.w 3) 0 5)
def Geo.bscale (g : Geo) : BitVec 8 := BitVec.ofNat 8 (mpf (g.w 3) 5 8)
def Geo.bbase (g : Geo) : Nat := mpf (g.w 3) 13 19
/-- ARGk (R185). -/
def Geo.arg (g : Geo) (k : Nat) : Nat := mpf (g.w (Fin.ofNat 8 (4 + k / 4))) (16 * (k % 4)) 16
/-- Both operands are T16: the system cores run the routine (R169, R175). -/
def Geo.t16 (g : Geo) : Bool := fmtKind g.afmt = .flt .t16 && fmtKind g.bfmt = .flt .t16
/-- Kb and the accumulator format; MCALL has checked the pair. For T16 the spec gives no accumulator: whether it is F64 or F32
is free (assumption log 6), and a K-block is the 256 bytes of R169. -/
def Geo.pair (g : Geo) : Nat × BankFmt :=
  if g.t16 then (128, if Config.emulatedWide then .f64 else .f32)
  else (enginePair (fmtKind g.afmt) (fmtKind g.bfmt)).getD (256, .f32)
def Geo.kb (g : Geo) : Nat := g.pair.1
def Geo.acc (g : Geo) : BankFmt := g.pair.2
/-- The bytes of a K-block of an A row, and of a column of B (R169, R189). -/
def blockBytes (f : Fmt) : Nat := if f = fmtT6 then 192 else 256
/-- The bytes of a B stage image (R189). -/
def Geo.z (g : Geo) : Nat := 64 * blockBytes g.bfmt

/-- What MCALL checks of the captured values, in order (R175). -/
def Geo.cause (g : Geo) (emul : Bool) : Option Cause :=
  let ka := fmtKind g.afmt
  let kb := fmtKind g.bfmt
  let plain := !g.conv && (g.w 1 ≠ 0 || g.w 2 ≠ 0)
  let conv := g.conv && (mpf (g.w 1) 24 16 = 0 || mpf (g.w 1) 12 12 = 0 || mpf (g.w 1) 0 12 = 0 || mpf (g.w 2) 8 12 = 0 ||
    g.apitch ≠ 0)
  let t16 := ka = .flt .t16 || kb = .flt .t16
  if ka = .reserved || kb = .reserved then some .formatReserved
  else if t16 && !emul then some .formatEmulate
  else if (!g.t16 && (enginePair ka kb).isNone) || mpf (g.w 0) 52 12 ≠ 0 || mpf (g.w 2) 44 20 ≠ 0 || mpf (g.w 3) 32 32 ≠ 0 ||
      (!ka.scaled && g.ascale ≠ 0) || (!kb.scaled && g.bscale ≠ 0) || g.abase % 32 ≠ 0 || g.apitch % 32 ≠ 0 ||
      g.bbase % 32 ≠ 0 || plain || conv then some .microFault
  else none

/-- The routine that runs and its captured parameters. -/
def Engine.geo (e : Engine) : Option Geo :=
  match e.active with
  | some (.routine _ mp) => some ⟨mp⟩
  | _ => none

/-! ### Work: starting, ending, faults (R175, R176, R186) -/

/-- The countdown of work that starts in the next engine cycle: its start, then eight cycles to its first microword. -/
def startWait : Nat := 9
/-- Work given to the engine: active at once, or pending (R175). -/
def Engine.give (e : Engine) (w : Work) : Engine :=
  let e := { e with done := false }
  if e.active.isNone then { e with active := some w, wait := startWait } else { e with pending := some w }
/-- The active work ends; pending work starts in the next cycle, or the engine is quiescent (R175, R176, R193). -/
def Engine.endWork (e : Engine) : Engine :=
  let i := e.idle false
  match e.pending with
  | some w => { i with active := some w, wait := startWait, rout := match w with | .routine n _ => n.val | _ => i.rout }
  | none => { i with fresh := some 0 }
/-- An engine fault (R176): all work is discarded; FAULT and DONE are set at the end of the cycle. -/
def Engine.raise (e : Engine) (code : Nat) : Engine := { e.idle false with fresh := some code }
def Core.modE (c : Core) (f : Engine → Engine) : Core := { c with eng := f c.eng }
def Core.mfault (c : Core) (code : Nat) : Core := c.modE fun e => e.raise code
/-- The next microword is the one at an index. -/
def Core.mgoto (c : Core) (ix : Nat) : Core := c.modE fun e => { e with ix := ix, row := 0, sub := 0 }
def Core.mnext (c : Core) : Core := c.mgoto (c.eng.ix + 1)

/-- A microword's cycle: with no routine running the hardware takes no such step; `bad` is R185's fault, found before
anything is performed. -/
def micro (bad : Geo → Core → Bool) (body : Geo → Core → Core) (s : State) : Out :=
  match s.core.eng.geo with
  | none => .fault .engineIdle
  | some g =>
    let c := s.core.modE fun e => { e with mwix := e.ix }
    .next { s with core := if bad g c then c.mfault 8 else body g c }

/-! ### Fields with a choice (R184 to R186) -/

def Geo.count (g : Geo) : Count → Nat
  | .imm n => n.val
  | .arg k => g.arg k.val
/-- The rounding modes in code order; ARG2's codes 110 and 111 are refused before. -/
def rmOfArg (n : Nat) : Rm := [Rm.rne, .rtz, .rup, .rdn, .rna, .odd].getD n .rne
def Geo.rm (g : Geo) : MRm → Rm
  | .mode r => r
  | .arg => rmOfArg (g.arg 2 % 8)
def Geo.badRm (g : Geo) : MRm → Bool
  | .mode _ => false
  | .arg => 6 ≤ g.arg 2 % 8
def Engine.lv (e : Engine) (k : Fin 2) : Option MLevel := if k = 0 then e.lv0 else e.lv1
def Engine.setLv (e : Engine) (k : Fin 2) (l : Option MLevel) : Engine := if k = 0 then { e with lv0 := l } else { e with lv1 := l }
/-- SKIP withholds the microword (R186). -/
def Engine.skips (e : Engine) : Skip → Bool
  | .always => false
  | .last l => match e.lv l with | some v => v.lc + 1 = v.n | none => false
def Engine.stg (e : Engine) : Stg → Fin 2
  | .stage k => k
  | .other => 1 - e.bact
/-- A load into a stage is in flight. -/
def Engine.loading (e : Engine) (k : Fin 2) : Bool := match e.load with | some l => l.stage = k | none => false
/-- A block index outside 0 to 4,095 (R185). -/
def badBlock (k : Int) : Bool := k < 0 || 4095 < k

/-! ### The operands of a row step (R171, R189) -/

/-- The codes of n elements in bytes. -/
def codesIn (f : Fmt) (n : Nat) (bytes : List Byte) : List Nat :=
  if f = fmtT6 then unpackT6 n bytes
  else let w := (fmtKind f).bytes; let v := ofBytes bytes; (List.range n).map fun i => v / 2 ^ (8 * w * i) % 2 ^ (8 * w)
/-- The activation element that element k of unfolded row i is; none for padding and beyond the kernel. -/
def Geo.unfold (g : Geo) (i k : Nat) : Option Nat :=
  let h := mpf (g.w 1) 0 12
  let w := mpf (g.w 1) 12 12
  let ch := mpf (g.w 1) 24 16
  let kh := mpf (g.w 1) 40 4 + 1
  let kw := mpf (g.w 1) 44 4 + 1
  let sh := mpf (g.w 1) 48 4 + 1
  let sw := mpf (g.w 1) 52 4 + 1
  let dh := mpf (g.w 1) 56 4 + 1
  let dw := mpf (g.w 1) 60 4 + 1
  let ow := mpf (g.w 2) 8 12
  let p := mpf (g.w 2) 20 12 * ow + mpf (g.w 2) 32 12 + i
  if kh * kw * ch ≤ k then none
  else
    let t := k / ch
    let y : Int := (p / ow * sh + t / kw * dh : Nat) - (mpf (g.w 2) 0 4 : Int)
    let x : Int := (p % ow * sw + t % kw * dw : Nat) - (mpf (g.w 2) 4 4 : Int)
    if y < 0 ∨ (h : Int) ≤ y ∨ x < 0 ∨ (w : Int) ≤ x then none else some ((y.toNat * w + x.toNat) * ch + k % ch)
/-- One activation element: its code and whether a marked line holds it; none outside [0, S). -/
def Core.activation (c : Core) (g : Geo) (n : Nat) : Option (Nat × Bool) :=
  let w := elemBits g.afmt
  let lo := g.abase + n * w / 8
  let len := (n * w + w - 1) / 8 - n * w / 8 + 1
  if c.scrlim < lo + len then none
  else some (memRead c.scratch lo len / 2 ^ (n * w % 8) % 2 ^ w, c.anyMark lo len)
/-- Row i of K-block kb as the unfolding unit hands it to the array, with its poison; none outside [0, S). -/
def Core.aRow (c : Core) (g : Geo) (i kb : Nat) : Option (List Nat × Bool) :=
  if g.conv then
    (List.range g.kb).foldr (fun e acc => acc.bind fun r =>
      match g.unfold i (kb * g.kb + e) with
      | none => some (0 :: r.1, r.2)
      | some n => (c.activation g n).map fun x => (x.1 :: r.1, x.2 || r.2)) (some ([], false))
  else
    let n := blockBytes g.afmt
    let a := g.abase + i * g.apitch + kb * n
    if c.scrlim < a + n then none else some (codesIn g.afmt g.kb (c.scrBytes a n), c.anyMark a n)
def Engine.stage (e : Engine) (k : Fin 2) : BStage := if k = 0 then e.b0 else e.b1
/-- The codes of column j of the active stage. -/
def Engine.column (e : Engine) (g : Geo) (j : Nat) : List Nat :=
  codesIn g.bfmt g.kb (memBytes (e.stage e.bact).bytes (j * blockBytes g.bfmt) (blockBytes g.bfmt))

/-! ### Row steps (R170, R187) -/

/-- The cell operations. -/
inductive CellOp | mad | ada | mxp | mnp
deriving DecidableEq, Repr

/-- An exact sum of two values. -/
def addVal (rm : Rm) : FVal → FVal → FVal
  | .nan, _ => .nan
  | _, .nan => .nan
  | .inf a, .inf b => if a = b then .inf a else .nan
  | .inf a, _ => .inf a
  | _, .inf b => .inf b
  | .fin n1 m1 e1, .fin n2 m2 e2 =>
    let s := sumDy [(n1, m1, e1), (n2, m2, e2)]
    if s.1 = 0 then .fin (if m1 = 0 ∧ m2 = 0 ∧ n1 = n2 then n1 else decide (rm = .rdn)) 0 0
    else .fin (decide (s.1 < 0)) s.1.natAbs s.2
def FVal.magnitude : FVal → FVal
  | .nan => .nan | .inf _ => .inf false | .fin _ m e => .fin false m e
/-- OpTerm. -/
def CellOp.term (op : CellOp) (rm : Rm) (a b : FVal) : FVal :=
  match op with
  | .mad => mulVal a b
  | .ada => (addVal rm a b.negate).magnitude
  | _ => addVal rm a b
/-- x lies strictly beyond y for MXP or MNP; -0 lies below +0, in the index capture too (DESIGN CHOICE, assumption log 120). -/
def CellOp.beyond (op : CellOp) (x y : FVal) : Bool := orderZ x y = some (if op = .mnp then .lt else .gt)
/-- The best term and the lowest element that holds it. -/
def CellOp.best (op : CellOp) : List FVal → Nat → Option (FVal × Nat)
  | [], _ => none
  | t :: ts, e => match op.best ts (e + 1) with
    | none => some (t, e)
    | some b => if op.beyond b.1 t then some b else some (t, e)
/-- The index that the terms capture over accumulator value c; none when the entry is unchanged. -/
def CellOp.capture (op : CellOp) (ts : List FVal) (c : FVal) : Option Nat :=
  match ts.findIdx? (· = .nan) with
  | some e => some e
  | none => match op.best ts 0 with
    | some b => if op.beyond b.1 c then some b.2 else none
    | none => none
/-- The kind of an accumulator. -/
def BankFmt.kind : BankFmt → FmtKind
  | .i32 => .int true 4 | .f32 => .flt .f32 | .f64 => .flt .f64
/-- The integer that a finite value with no fraction is. -/
def FVal.toInt : FVal → Int
  | .fin n m e => let x : Int := (m * 2 ^ e.toNat : Nat); if n then -x else x
  | _ => 0
/-- The code that a column's cell takes: the combined value, rounded or saturated once. -/
def CellOp.combine (op : CellOp) (acc : BankFmt) (rm : Rm) (c : FVal) (ts : List FVal) : Nat :=
  let extreme : FVal :=
    if c = .nan || ts.contains .nan then .nan
    else match op.best ts 0 with
      | some b => if op.beyond b.1 c then b.1 else c
      | none => c
  match acc.kind with
  | .int _ n =>
    wrapInt n (satInt true n (match op with
      | .mxp => extreme.toInt
      | .mnp => extreme.toInt
      | _ => ((c :: ts).map FVal.toInt).sum))
  | .flt f =>
    (match op with
      | .mxp => roundTo f rm 0 (.ofVal extreme)
      | .mnp => roundTo f rm 0 (.ofVal extreme)
      | _ => roundTo f rm 0 (sumVals rm (c :: ts)))
  | _ => 0
/-- The rows of a bank. -/
def Bank.rows (b : Bank) : Nat := match b.fmt with | .f64 => 128 | _ => 256
/-- The code of a cell. -/
def Bank.cell (b : Bank) (i j : Nat) : Nat := (sparseGet (0 : Word) b.vals (64 * i + j)).toNat
/-- A cell's place with the cell's new code and, if one is captured, its new index entry. -/
def Bank.put (b : Bank) (k code : Nat) (ix : Option Nat) : Bank :=
  let b := { b with vals := sparseSet 0 b.vals k (BitVec.ofNat 64 code) }
  match ix with
  | some n => { b with index := sparseSet 0 b.index k (BitVec.ofNat 16 n) }
  | none => b
/-- RowStep over the 64 columns, from the A row's codes; every column starts from the bank as it stood. -/
def Engine.rowStep (e : Engine) (g : Geo) (op : CellOp) (rm : Rm) (i kb : Nat) (arow : List Nat) (bad : Bool) : Bank :=
  let acc := g.acc
  let sign := if acc = .i32 then .rne else rm   -- an integer has one zero
  let a := arow.map (valOf (fmtKind g.afmt) g.ascale.toInt)
  let col (b : Bank) (j : Nat) : Bank :=
    let ts := (a.zip ((e.column g j).map (valOf (fmtKind g.bfmt) g.bscale.toInt))).map fun p => op.term sign p.1 p.2
    let c := valOf acc.kind 0 (e.work.cell i j)
    let ix := if op = .mxp ∨ op = .mnp then (op.capture ts c).map (kb * g.kb + ·) else none
    b.put (64 * i + j) (op.combine acc rm c ts) ix
  let b := (List.range 64).foldl col e.work
  if bad || (e.stage e.bact).poison then { b with poison := b.poison ||| (1#256 <<< i) } else b

/-- Cycles per row step (R186). -/
def CellOp.cpr (op : CellOp) (g : Geo) : Nat :=
  if op = .mad then (if g.acc = .f64 then 4 else 1) else if g.acc = .i32 then 2 else 1
/-- ADA, MXP and MNP take only I8, BF16 and F32 (R176). -/
def CellOp.refuses (op : CellOp) (g : Geo) : Bool :=
  op ≠ .mad && !(g.afmt = g.bfmt && (g.acc = .i32 || fmtKind g.afmt = .flt .bf16 || fmtKind g.afmt = .flt .f32))
/-- R185's faults of a cell operation. -/
def badCell (x : Cell) (g : Geo) (c : Core) : Bool :=
  g.badRm x.rm || 256 < g.count x.cnt || badBlock (x.kb.val + c.eng.koff)
/-- One cycle of a cell operation (R171, R174, R186, R187). Of two faults 0x02 comes before 0x05 and 0x06 before 0x03 (DESIGN CHOICE,
assumption log 98); one that SKIP withholds makes no check (DESIGN CHOICE, assumption log 100). -/
def cellCycle (op : CellOp) (x : Cell) (g : Geo) (c : Core) : Core :=
  let e := c.eng
  if e.skips x.skip then c.mnext
  else if op.refuses g then c.mfault 2
  else if e.work.fmt ≠ g.acc then c.mfault 5
  else if g.count x.cnt = 0 then c.mnext
  else if e.loading e.bact then c
  else
    let n := g.count x.cnt
    let i : Int := x.row0.val + e.roff + e.row
    let kb := (x.kb.val + e.koff).toNat
    if i < 0 ∨ (e.work.rows : Int) ≤ i then c.mfault 6
    else
      let read := if e.sub = 0 then c.aRow g i.toNat kb else some (e.arow, e.abad)
      match read with
      | none => c.mfault 3
      | some r =>
        if e.sub + 1 < op.cpr g then c.modE fun e => { e with arow := r.1, abad := r.2, sub := e.sub + 1 }
        else
          let b := e.rowStep g op (g.rm x.rm) i.toNat kb r.1 r.2
          let c := c.modE fun e => { e with work := b, row := e.row + 1, sub := 0, arow := [], abad := false }
          if c.eng.row = n then c.mnext else c

def execMad (x : Cell) (s : State) : Out := micro (badCell x) (cellCycle .mad x) s
def execAda (x : Cell) (s : State) : Out := micro (badCell x) (cellCycle .ada x) s
def execMxp (x : Cell) (s : State) : Out := micro (badCell x) (cellCycle .mxp x) s
def execMnp (x : Cell) (s : State) : Out := micro (badCell x) (cellCycle .mnp x) s

/-! ### Control microwords (R188 to R193) -/

/-- The code that a fill gives every cell of an accumulator format. -/
def fillCode (acc : BankFmt) : Fill → Nat
  | .zero => 0
  | .low => match acc with | .i32 => 2 ^ 31 | .f32 => 0xFF800000 | .f64 => 0xFFF0000000000000
  | .high => match acc with | .i32 => 2 ^ 31 - 1 | .f32 => 0x7F800000 | .f64 => 0x7FF0000000000000
/-- A bank as ZERO leaves it. -/
def Bank.cleared (acc : BankFmt) (code : Nat) : Bank :=
  let cells := if acc = .f64 then 8192 else 16384
  { fmt := acc, vals := if code = 0 then [] else (List.range cells).map fun k => (k, BitVec.ofNat 64 code), index := [], poison := 0 }
/-- ZERO: two cycles, the effect at the end of the second. -/
def execZero (f : Fill) (s : State) : Out :=
  micro (fun _ _ => false) (fun g c =>
    if c.eng.sub = 0 then c.modE fun e => { e with sub := 1 }
    else (c.modE fun e => { e with work := Bank.cleared g.acc (fillCode g.acc f) }).mnext) s

/-- The furrow that a BLD reads. -/
def Geo.source (g : Geo) : BSrc → Option (Fin 32)
  | .scratch => none
  | .furrow f => some f
  | .arg => some (Fin.ofNat 32 (g.arg 3))
/-- BLD is performed: the load starts. -/
def Core.startLoad (c : Core) (stg : Stg) (base z : Nat) (f : Option (Fin 32)) : Core :=
  (c.modE fun e => { e with load := some ⟨e.stg stg, base, z, 0, [], false, f⟩ }).mnext
/-- One cycle of BLD: held while a load is in flight; then its checks; then, from a furrow, its wait for a filled slot. -/
def bldCycle (skip : Skip) (bix : Fin 4096) (stg : Stg) (src : BSrc) (g : Geo) (c : Core) : Core :=
  let e := c.eng
  if e.skips skip then c.mnext
  else if e.load.isSome then c
  else match g.source src with
    | none =>
      let base := g.bbase + (bix.val + e.koff).toNat * g.z
      if c.scrlim < base + g.z then c.mfault 4 else c.startLoad stg base g.z none
    | some f =>
      let r := c.rf f
      if !r.init then c.mfault 8
      else if !r.mayConsume endM then c.mfault 4
      else
        let c := c.modF f fun r => { r with cons := endM }
        if r.slotsz ≠ g.z then c.mfault 8
        else if r.filled = 0 then c.modE fun e => { e with sub := e.sub + 1 }
        else c.startLoad stg (r.slotAt r.head) g.z (some f)
def execBld (skip : Skip) (bix : Fin 4096) (stg : Stg) (src : BSrc) (s : State) : Out :=
  micro (fun _ c => src = .scratch && badBlock (bix.val + c.eng.koff)) (bldCycle skip bix stg src) s
/-- BSEL: waits until no load into its stage is in flight. -/
def execBsel (stg : Stg) (s : State) : Out :=
  micro (fun _ _ => false) (fun _ c =>
    let k := c.eng.stg stg
    if c.eng.loading k then c
    else (c.modE fun e => { e with bact := k }).mnext) s

/-- A signed step of n bits. -/
def signedStep (n x : Nat) : Int := if x < 2 ^ (n - 1) then x else (x : Int) - 2 ^ n
/-- MLOOP open. -/
def execMloopOpen (l : MLoop) (s : State) : Out :=
  micro (fun _ c => l.dist.val = 0 || (c.eng.lv l.lvl).isSome) (fun g c =>
    let own := c.eng.ix
    let n := g.count l.cnt
    if n = 0 then c.mgoto (own + l.dist.val + 1)
    else (c.modE fun e => e.setLv l.lvl (some ⟨0, n, own + 1, own + l.dist.val, signedStep 8 l.kstep.val,
      signedStep 9 l.rstep.val, l.rew⟩)).mnext) s
/-- The offsets after a close: one step on, or at a rewinding exit back by the steps taken. -/
def Engine.stepOff (e : Engine) (ks rs : Int) : Engine := { e with koff := e.koff + ks, roff := e.roff + rs }
/-- MLOOP close. -/
def execMloopClose (k : Fin 2) (s : State) : Out :=
  micro (fun _ c => match c.eng.lv k with | some l => c.eng.ix ≠ l.e | none => true) (fun _ c =>
    match c.eng.lv k with
    | none => c
    | some l =>
      if l.lc + 1 < l.n then
        (c.modE fun e => (e.stepOff l.ks l.rs).setLv k (some { l with lc := l.lc + 1 })).mgoto l.b
      else if l.rew then
        (c.modE fun e => (e.stepOff (-(l.ks * l.lc)) (-(l.rs * l.lc))).setLv k none).mnext
      else (c.modE fun e => (e.stepOff l.ks l.rs).setLv k none).mnext) s
/-- MNOP. -/
def execMnop (s : State) : Out := micro (fun _ _ => false) (fun _ c => c.mnext) s
/-- MEND: waits until no load is in flight; then the work ends. -/
def execMend (s : State) : Out :=
  micro (fun _ _ => false) (fun _ c => if c.eng.load.isSome then c else c.modE Engine.endWork) s

/-! ### Starting work, store loads, B-stage loads (R181, R182, R186, R190) -/

/-- Entry n of the entry table; none when it is not defined. -/
def Engine.entry (e : Engine) (n : Nat) : Option Nat :=
  let w := (sparseGet (0 : Microword) e.store (n / 8)).toNat / 2 ^ (16 * (n % 8)) % 2 ^ 16
  if w / 2 ^ 15 = 0 ∨ w / 2 ^ 12 % 8 ≠ 0 ∨ w % 2 ^ 12 < 32 then none else some (w % 2 ^ 12)
/-- ENGINE_WORK_START: a routine's entry is read and its countdown begins; a store load begins its wait, and ROUT
keeps the last routine's number (DESIGN CHOICE, assumption log 95). -/
def Engine.begin_ (e : Engine) : Engine :=
  match e.active with
  | some (.routine n _) =>
    (match e.entry n.val with
      | some ix => { e with rout := n.val, ix := ix, wait := 8, row := 0, sub := 0 }
      | none => ({ e with rout := n.val }).raise 7)
  | some (.load _ _ _ _) => { e with wait := 0, row := 0, sub := 0 }
  | none => e
def execEngineWorkStart (s : State) : Out :=
  if s.core.eng.wait = startWait then .next (s.modCore fun c => c.modE Engine.begin_) else .next s
/-- Microwords copied into the store, from a slot's bytes. -/
def copyWords (scr : Mem) (a first : Nat) : Nat → List (Nat × Microword) → List (Nat × Microword)
  | 0, st => st
  | n + 1, st => copyWords scr a first n (sparseSet 0 st (first + n) (BitVec.ofNat 128 (memRead scr (a + 16 * n) 16)))
/-- One cycle of a store load: it waits for a filled slot, then writes up to 8 microwords; the last ones pop the slot and end
the work. -/
def Core.mloadCycle (c : Core) (f : Fin 32) (first count written : Nat) : Core :=
  let r := c.rf f
  if r.filled = 0 then c.modE fun e => { e with sub := e.sub + 1 }
  else
    let n := min 8 (count - written)
    let a := r.slotAt r.head + 16 * written
    let c := c.modE fun e => { e with store := copyWords c.scratch a (first + written) n e.store }
    if written + n < count then c.modE fun e => { e with active := some (.load f first count (written + n)), sub := 0 }
    else (c.popSlots f 1).modE Engine.endWork
/-- MLOAD_COPY. -/
def execMloadCopy (s : State) : Out :=
  match s.core.eng.active with
  | some (.load f first count written) => .next (s.modCore fun c => c.mloadCycle f first count written)
  | _ => .next s

/-- One cycle of the load in flight: eight granules more. -/
def Core.loadCycle (c : Core) : Core :=
  match c.eng.load with
  | none => c
  | some l =>
    let a := l.base + 32 * l.done
    let n := min 256 (l.size - 32 * l.done)
    let l' : BLoad := { l with done := l.done + n / 32, data := l.data ++ c.scrBytes a n, poison := l.poison || c.anyMark a n }
    c.modE fun e => { e with load := some l' }
/-- The stage takes the image. -/
def Engine.setStage (e : Engine) (k : Fin 2) (b : BStage) : Engine := if k = 0 then { e with b0 := b } else { e with b1 := b }
/-- B_LOAD_COMPLETE: the stage receives the image, and a furrow slot is popped. Bytes beyond a 12 KiB image keep what the stage held
(DESIGN CHOICE, assumption log 119). -/
def Core.loadDone (c : Core) : Core :=
  match c.eng.load with
  | none => c
  | some l =>
    if 32 * l.done < l.size then c
    else
      let c := c.modE fun e => { e.setStage l.stage ⟨memPut (e.stage l.stage).bytes 0 l.data, l.poison⟩ with load := none }
      match l.furrow with
      | some f => c.popSlots f 1
      | none => c
def execBLoadComplete (s : State) : Out := .next (s.modCore Core.loadDone)

/-! ### The engine's waits (R190, R212) -/

/-- The furrow on which the engine waits now. -/
def Core.engineWait (c : Core) : Option (Fin 32) :=
  let e := c.eng
  let on (f : Fin 32) : Option (Fin 32) := if (c.rf f).filled = 0 then some f else none
  if e.wait ≠ 0 then none
  else match e.active with
    | some (.load f _ _ _) => on f
    | some (.routine _ mp) =>
      if e.load.isSome then none
      else match decodeMicro (sparseGet (0 : Microword) e.store e.ix).toNat with
        | .ok (.bld skip _ _ src) =>
          if e.skips skip then none
          else (match (⟨mp⟩ : Geo).source src with
            | some f =>
              if (c.rf f).init && (c.rf f).mayConsume endM && (c.rf f).slotsz = (⟨mp⟩ : Geo).z then on f else none
            | none => none)
        | _ => none
    | none => none
/-- ORPHAN_CHECK: when the engine waits on a furrow whose producing end is not live, the task takes a late ORPHAN_WAIT; the
engine's work is kept. -/
def execOrphanCheck (core : Nat) (s : State) : Out :=
  match s.coreAt core with
  | none => .next s
  | some c =>
    match c.engineWait with
    | none => .next s
    | some f =>
      if s.prodLive c (c.rf f) false || c.late.any (fun e => e.2 = 0) then .next s
      else .next (s.modCoreAt core fun c =>
        { c with late := c.late.filter (fun e => decide (e.1 < s.cycle)) ++ [(s.cycle, 0)] ++ c.late.filter (fun e => !decide (e.1 < s.cycle)) })

/-! ### One engine cycle (R186, R194) -/

/-- What the engine does in this cycle: its steps in order, or the fault that the microword it reaches raises. -/
def Core.engineActs (c : Core) : Except Nat (List Instr) :=
  let e := c.eng
  match e.active with
  | none => .ok []
  | some (.load _ _ _ _) => .ok (if e.wait = startWait then [.engineWorkStart, .mloadCopy] else [.mloadCopy])
  | some (.routine _ _) =>
    if e.wait = startWait then .ok [.engineWorkStart]
    else if e.wait ≠ 0 then .ok []
    else if 4095 < e.ix then .error 7
    else match decodeMicro (sparseGet (0 : Microword) e.store e.ix).toNat with
      | .ok i => .ok [i]
      | .error k => .error k
/-- The steps of a list in order. -/
def runSteps (ex : Instr → State → Out) : List Instr → State → Out
  | [], s => .next s
  | i :: is, s =>
    match ex i s with
    | .next s => runSteps ex is s
    | .fault f => .fault f
    | .refused f => .refused f
/-- The countdown, and the load in the background. -/
def Core.engineTick (c : Core) : Core :=
  (if c.eng.wait ≠ 0 ∧ c.eng.wait ≠ startWait then c.modE fun e => { e with wait := e.wait - 1 } else c).loadCycle
/-- The background load has read its last granule. -/
def Engine.loadReady (e : Engine) : Bool := match e.load with | some l => decide (l.size ≤ 32 * l.done) | none => false
/-- The engine part of a core's cycle: the check of a furrow wait in its first cycle and every 1,024 cycles, the microword or
store load reached, the countdown, the background load. -/
def engineStage (ex : Instr → State → Out) (s : State) : Out :=
  let s := s.modCore fun c => c.modE fun e => { e with fresh := none }
  let c := s.core
  let check : List Instr := if c.engineWait.isSome && c.eng.sub % 1024 = 0 then [.orphanCheck c.id] else []
  let first : Out := match c.engineActs with
    | .ok is => runSteps ex (check ++ is) s
    | .error k => .next { s with core := (c.modE fun e => { e with mwix := e.ix }).mfault k }
  match first with
  | .next s =>
    let s := s.modCore Core.engineTick
    runSteps ex (if s.core.eng.loadReady then [.bLoadComplete] else []) s
  | .fault f => .fault f
  | .refused f => .refused f
/-- The code with which the engine's work will complete at the end of this cycle, if it will: BR may observe it (R94). -/
def foresee (ex : Instr → State → Out) (s : State) : State :=
  let clear := s.modCore fun c => c.modE fun e => { e with fresh := none }
  let f : Option Nat := match s.core.engineActs with
    | .error k => some k
    | .ok is => match runSteps ex is clear with | .next s' => s'.core.eng.fresh | _ => none
  s.modCore fun c => c.modE fun e => { e with fresh := f }

end Sys2Proof.Machine
end

