-- ==== Sys2Proof/Machine/Sched.lean ====
section
/-! DEFINITION. The dispatcher and the life of a task on its cores (R13, R14, R20, R53, R105, R106, R198, R210, R277 to R283, R288,
R308 to R310, R352): selection, admission, start, pre-emption, saving, resumption, retirement. -/
namespace Sys2Proof.Machine

/-! ### What may start now (R277) -/

/-- The admissions in flight (R281). -/
def State.adms (s : State) : List Adm := s.disps.flatMap (·.adms)
/-- The cores that admissions in flight would take below a plot: no start may count on them (R277). -/
def State.promised (s : State) (plot : Nat) : Nat :=
  (s.adms.filterMap fun a => match s.plotAt a.plot with
    | some p => if (s.ancestors a.plot).any fun q => q.id = plot then some (gangSize p.gang) else none
    | none => none).sum
/-- The budgets of a TASKSET and its ancestors, when `ahead` cores are already promised to others (R277). -/
def State.fitsWith (s : State) (p : Plot) (ahead : Nat → Nat) : Bool :=
  (s.ancestors p.id).all fun q =>
    (q.cores = 0 || decide (q.rcores + ahead q.id + gangSize p.gang ≤ q.cores)) &&
      (q.scrkib = 0 || decide (p.sgran * 16 ≤ q.scrkib))
/-- The budgets for one more selection (R277). -/
def State.fits (s : State) (p : Plot) : Bool := s.fitsWith p s.promised
/-- The oldest pre-empted task of a TASKSET that no admission in flight resumes (R278). -/
def State.nextResume (s : State) (p : Plot) (die : Nat) : Option Nat :=
  (s.preempted p.id die).find? fun i => !s.adms.any fun a => a.resume = some i
/-- A TASKSET has a task for one more selection: one to resume, or an index that no admission in flight will take (R277). -/
def State.hasTask (s : State) (p : Plot) (die : Nat) : Bool :=
  p.state = stActive && ((s.nextResume p die).isSome ||
    decide (p.nextix + (s.adms.filter fun a => a.plot = p.id && a.resume.isNone).length < p.tasks))
/-! ### Placements (R14, R280) -/

/-- Every placement of a shape on a die, in ascending order of its top-left core id; cores in row-major order. -/
def placements (die shape : Nat) : List (List Nat) :=
  let h := gangRows shape
  let w := gangCols shape
  (((List.range 6).filter fun i => i + h ≤ 6).map fun i => ((List.range 8).filter fun j => j + w ≤ 8).map fun j =>
    ((List.range h).map fun a => (List.range w).map fun b => die * 48 + (i + a) * 8 + (j + b)).flatten).flatten
/-- A core is free: no task, not fenced off, in no admission and with no task on its way. -/
def State.coreFree (s : State) (id : Nat) : Bool :=
  (match s.coreAt id with | some c => c.run = .idle && c.task.isNone | none => false) && !s.fenced.contains id &&
  !(s.disps.any fun d => d.adms.any fun a => a.cores.contains id) &&
  !s.agenda.any fun e => match e.instr with
    | .taskStart c _ _ _ _ => c = id
    | .taskResumption _ c => c = id
    | _ => false
/-- The placement of a candidate (R280). -/
def State.placement (s : State) (p : Plot) (die : Nat) : Option (List Nat) :=
  (placements die p.gang).find? fun cs => cs.all s.coreFree
/-- Admissible now (R277, R280), and not backing off. -/
def State.admissible (s : State) (die : Nat) (c : Cand) : Bool :=
  match s.plotAt c.plot with
  | some p => c.until_.isNone && s.hasTask p die && s.fits p && (s.placement p die).isSome
  | none => false

/-! ### The walk of a ring (R279) -/

/-- The walk of R279 from a place of the ring: the selected place, with the DEFICITs as the walk leaves them. -/
def walkRing (ring : List (Cand × Bool × Nat)) : Nat → Nat → State → Option (State × Nat)
  | 0, _, _ => none
  | n + 1, i, s =>
    match ring[i]? with
    | none => none
    | some (c, ok, gang) =>
      match s.plotAt c.plot with
      | none => none
      | some p =>
        if ok ∧ gang ≤ p.deficit then some (s.modPlot c.plot fun p => p.sub 1216 32 gang, i)
        else
          let s := if ok then s.modPlot c.plot fun p => p.add 1216 32 p.weight else s
          walkRing ring n ((i + 1) % ring.length) s

/-- An admission goes out (R281). -/
def State.admission (s : State) (die : Nat) (p : Plot) (cores : List Nat) (cost : Nat) (waits : Bool) : State :=
  match s.disps.find? fun d => d.die = die with
  | none => s
  | some d =>
    let id := d.nextAdm
    let a : Adm := ⟨id, p.id, cores, 0, s.nextResume p die, cost, waits⟩
    (s.modDisp die fun d => { d with adms := d.adms ++ [a], nextAdm := id + 1 }).later 0 (.reserve die id)

/-! ### Victims (R282) -/

/-- Whether a page of a row of a save area is frozen or thawing. -/
def Obj.rowFrozen (o : Obj) (k : Nat) : Bool :=
  o.frz.any fun z => (decide (0 < z.count) || z.thawing) && decide (921600 * k / 65536 ≤ z.page) &&
    decide (z.page ≤ (921600 * k + 921599) / 65536)
/-- The free slots of a TASKSET's save area (R310). The snapshot engine writes a LIVE object in place, and no row of which a page is
frozen (R238; assumption log 85). -/
def State.freeSlots (s : State) (p : Plot) : List Nat :=
  match s.objOf p.save with
  | none => []
  | some o =>
    if o.live && o.fmt = 2 && o.rank = 2 && !o.tiled && o.dim 1 = 921600 then
      (List.range (o.dim 0)).filter fun k => !o.rowFrozen k && !s.saved.any fun v => v.slot = some k &&
        match v.core.task with
        | some t => (match s.plotAt t.plot with | some q => q.save = p.save | none => false)
        | none => false
    else []
/-- The members of an instance on cores. -/
def State.members (s : State) (inst : Nat) : List Core :=
  s.cores.filter fun c => match c.task with | some t => t.inst = inst | none => false
/-- The instances of some cores whose TASKSET has a given save area. -/
def State.savers (s : State) (cs : List Core) (save : Word) : List Nat :=
  (cs.filterMap fun c => match c.task, s.plotOf c with
    | some t, some p => if p.save = save then some t.inst else none
    | _, _ => none).eraseDups
/-- The snapshot slots that the members of some instances need. -/
def State.slotNeed (s : State) (insts : List Nat) : Nat := (insts.map fun i => (s.members i).length).sum
/-- The snapshot slots of a save area that tasks which are being saved, or are asked to stop, still need (R310). -/
def State.slotsDue (s : State) (save : Word) : Nat :=
  s.slotNeed (s.savers (s.cores.filter fun c => c.run = .draining || c.run = .saving || s.agenda.any fun e => e.instr = .preempt c.id) save)
/-- Whether the running task of a core is a victim for a priority; `yields` names a task for which an equal one is enough. -/
def State.victim (s : State) (prio : Nat) (yields : Option Nat) (c : Core) : Bool :=
  match c.task with
  | none => false
  | some t =>
    match s.plotAt t.plot with
    | none => false
    | some p =>
      let members := s.members t.inst
      (members.all fun d => d.run = .running) && !s.coming t.inst && p.preempt &&
      decide (members.length + s.slotsDue p.save ≤ (s.freeSlots p).length) &&
      (decide (p.prio < prio) || members.all (·.overdue) || (yields = some t.inst && p.prio ≤ prio))
/-- The highest PRIO among the victims of a placement. -/
def State.worst (s : State) (cs : List Nat) : Nat :=
  (cs.map fun id => match s.coreAt id with
    | some c => (match s.plotOf c with | some p => p.prio | none => 0)
    | none => 0).foldl max 0
/-- Every task that a placement takes finds its snapshot slots, beside those of the same save area that the others take (R310). -/
def State.slotsSuffice (s : State) (cs : List Nat) : Bool :=
  let vs := cs.filterMap s.coreAt
  vs.all fun c => match s.plotOf c with
    | some p => c.task.isNone || decide (s.slotNeed (s.savers vs p.save) + s.slotsDue p.save ≤ (s.freeSlots p).length)
    | none => true
/-- The eligible placement whose highest victim PRIO is least, the first of those; for a YIELD, one that holds a core of the task
that yields (R106). -/
def State.eligible (s : State) (die : Nat) (p : Plot) (yields : Option Nat) : Option (List Nat) :=
  let mine (id : Nat) : Bool := match s.coreAt id with
    | some c => (match c.task with | some t => some t.inst = yields | none => false)
    | none => false
  let ok (id : Nat) : Bool := s.coreFree id || (!s.fenced.contains id &&
    !(s.disps.any fun d => d.adms.any fun a => a.cores.contains id) &&
    match s.coreAt id with | some c => s.victim (s.ep p) yields c | none => false)
  ((placements die p.gang).filter fun cs => cs.all ok && s.slotsSuffice cs && (yields.isNone || cs.any mine)).foldl (fun b cs => match b with
    | none => some cs
    | some bs => if s.worst cs < s.worst bs then some cs else some bs) none
/-- Every task that holds a core of a placement is pre-empted, whole gangs included. -/
def State.preemptAll (s : State) (cs : List Nat) : State :=
  let insts := (cs.filterMap fun id => (s.coreAt id).bind fun c => c.task.map (·.inst)).eraseDups
  (s.cores.filter fun c => match c.task with | some t => insts.contains t.inst | none => false).foldl
    (fun s c => s.after 1 0 (.preempt c.id)) s
/-- VICTIM_PREEMPTION: for a candidate that only lacks cores. -/
def State.preemptFor (s : State) (die : Nat) (p : Plot) (yields : Option Nat) : State :=
  match s.eligible die p yields with
  | none => s
  | some cs => (s.preemptAll cs).admission die p cs 0 true
/-- The candidates of a die by effective priority, highest first, each level in ring order. -/
def State.byPriority (s : State) (d : Disp) : List Cand := ((List.range 16).reverse.map fun e => s.ring d e).flatten
/-- The TASKSET of a candidate that lacks nothing but cores: no back-off, a task, its budgets, no cores awaited already. -/
def State.lacksCores (s : State) (die : Nat) (c : Cand) : Option Plot :=
  match s.plotAt c.plot with
  | some p =>
    if c.until_.isNone && s.hasTask p die && s.fits p && !s.adms.any (fun a => a.plot = p.id && a.waits) then some p else none
  | none => none
/-- The candidate of highest ep, first in ring order, for which victims are sought (R282), when it lacks nothing but cores. -/
def State.wanting (s : State) (d : Disp) : Option Plot := ((s.byPriority d).head?).bind (s.lacksCores d.die)

/-! ### The dispatcher's steps (R279, R281) -/

/-- DISPATCH_SELECT: at most one selection. -/
def execDispatchSelect (die : Nat) (s : State) : Out :=
  if s.power ≠ .running then .next s
  else
  let s := (s.refresh die).modDisp die fun d => { d with chose := s.cycle + 1 }
  match s.disps.find? fun d => d.die = die with
  | none => .next s
  | some d =>
    if Config.admissions ≤ d.adms.length then .next s
    else
      match (List.range 16).reverse.find? fun e => (s.ring d e).any (s.admissible die) with
      | none =>
        (match s.wanting d with
          | none => .next s
          | some p => .next (s.preemptFor die p none))
      | some e =>
        let r := s.ring d e
        let start := match s.pointer d e with | some q => r.findIdx fun c => c.plot = q.plot | none => 0
        let rows := r.map fun c => (c, s.admissible die c, match s.plotAt c.plot with | some p => gangSize p.gang | none => 1)
        match walkRing rows (9 * r.length + 1) start s with
        | none => .next s
        | some (s, i) =>
          match r[i]? with
          | none => .next s
          | some c =>
            match s.plotAt c.plot with
            | none => .next s
            | some p =>
              let ptr : RingPtr := ⟨e, p.id, p.readyts, c.src⟩
              let s := s.modDisp die fun d => { d with ptrs := (d.ptrs.filter fun q => q.level ≠ e) ++ [ptr] }
              match s.placement p die with
              | none => .next s
              | some cs => .next (s.admission die p cs (gangSize p.gang) false)

/-- One candidate of a die changed. -/
def State.modCand (s : State) (die plot : Nat) (f : Cand → Cand) : State :=
  s.modDisp die fun d => { d with cands := updFirst (fun (c : Cand) => decide (c.plot = plot)) f d.cands }
/-- An admission of a die changed. -/
def State.modAdm (s : State) (die adm : Nat) (f : Adm → Adm) : State :=
  s.modDisp die fun d => { d with adms := updFirst (fun a => a.id = adm) f d.adms }
def State.dropAdm (s : State) (die adm : Nat) : State :=
  s.modDisp die fun d => { d with adms := d.adms.filter fun a => a.id ≠ adm }
def State.admAt (s : State) (die adm : Nat) : Option Adm :=
  (s.disps.find? fun d => d.die = die).bind fun d => d.adms.find? fun a => a.id = adm
/-- A controller refuses: busy, saved or restored, fenced off, or reserved by another admission (R281). -/
def State.refuses (s : State) (die adm core : Nat) : Bool :=
  (match s.coreAt core with | some c => c.run ≠ .idle || c.task.isSome | none => true) || s.fenced.contains core ||
  s.disps.any fun d => d.adms.any fun a => !(d.die = die && a.id = adm) && (a.cores.take a.granted).contains core
/-- The cycles a candidate backs off after its a-th failed attempt (R281). -/
def State.backoff (s : State) (a : Nat) : Nat := 64 * 2 ^ min a 10 + s.ts % 64

/-- RESERVE: the next core of the placement grants or refuses. -/
def execReserve (die adm : Nat) (s : State) : Out :=
  match s.admAt die adm with
  | none => .next s
  | some a =>
    match a.cores[a.granted]? with
    | none => .next (s.later 0 (.commit die adm))
    | some core =>
      let busy := match s.coreAt core with | some c => c.run ≠ .idle | none => true
      if a.waits && busy && !s.fenced.contains core then .next (s.again 0 (.reserve die adm))
      else if s.refuses die adm core then
        let s := s.dropAdm die adm
        let s := s.modPlot a.plot fun p => p.add 1216 32 a.cost
        let tries := (match (s.disps.find? fun d => d.die = die).bind fun d => d.cands.find? fun c => c.plot = a.plot with
          | some c => c.tries
          | none => 0) + 1
        let wait := s.backoff tries
        let s := s.modCand die a.plot fun c => { c with tries := tries, until_ := some (s.cycle + wait) }
        .next (s.after wait 0 (.backoffExpiry die a.plot))
      else if a.granted + 1 = a.cores.length then
        .next ((s.modAdm die adm fun a => { a with granted := a.granted + 1 }).later 0 (.commit die adm))
      else .next ((s.modAdm die adm fun a => { a with granted := a.granted + 1 }).later 0 (.reserve die adm))
/-- BACKOFF_EXPIRY (R281). -/
def execBackoffExpiry (die plot : Nat) (s : State) : Out :=
  .next ((s.modCand die plot fun c => { c with until_ := none }).poke die)

/-- The members of an admission start within 64 cycles of one another (R13): a free delay below 64 for each. -/
def State.startMembers (s : State) (f : Nat → Nat → Instr) : Nat → List Nat → State
  | _, [] => s
  | k, c :: cs =>
    ({ s with agenda := s.agenda ++ [Event.mk (s.cycle + Config.latency s.freeCtr % 64) 0 (f k c)], freeCtr := s.freeCtr + 1 }).startMembers
      f (k + 1) cs
/-- The bytes of a member's snapshot that are written and read back: the live parts of its sections (R310). -/
def Core.snapSize (c : Core) : Nat := 299008 + c.scrlim + 24 * c.deferq.length + (if c.eng.loaded then 65536 else 0)
/-- The cycles in which the saved members of an instance are read back, at 512 bytes a cycle (R309). -/
def State.restoreTime (s : State) (inst : Nat) : Nat :=
  ((s.saved.filter fun v => match v.core.task with | some t => t.inst = inst | none => false).map fun v =>
    (v.core.snapSize + 511) / 512).foldl max 0
/-- What R277 asks for still holds when an admission commits, and no core of it has been fenced meanwhile (R343). -/
def State.mayCommit (s : State) (p : Plot) (die : Nat) (a : Adm) : Bool :=
  p.state = stActive && s.fitsWith p (fun _ => 0) && (a.cores.all fun c => !s.fenced.contains c) && match a.resume with
    | some i => (s.preempted p.id die).contains i
    | none => decide (p.nextix < p.tasks)
/-- COMMIT: the task takes its index and instance number, or the oldest pre-empted one resumes; RCORES and READYTS. -/
def execCommit (die adm : Nat) (s : State) : Out :=
  match s.admAt die adm with
  | none => .next s
  | some a =>
    let s := s.dropAdm die adm
    match s.plotAt a.plot with
    | none => .next s
    | some p =>
      if !s.mayCommit p die a then .next ((s.modPlot p.id fun q => q.add 1216 32 a.cost).poke die)
      else
        let s := s.modChain p.id fun q => q.add 512 16 (gangSize p.gang)
        let s := s.modPlot p.id fun q => q.set 1152 64 s.ts
        let s := (s.modCand die p.id fun c => { c with tries := 0 }).follow
        match a.resume with
        | some inst =>
          let mem := ((s.saved.filterMap fun v => v.core.task.bind fun t => if t.inst = inst then some t.member else none)).mergeSort
          let cores := mem.filterMap fun m => a.cores[m]?
          .next ((cores.foldl (fun s c => s.after (s.restoreTime inst) 0 (.taskResumption inst c)) s).poke die)
        | none =>
          let ix := p.nextix
          let inst := s.nextInst
          let s := { s.modPlot p.id (fun q => q.set 1024 32 (ix + 1)) with nextInst := inst + 1 }
          let s := (if ix + 1 = p.tasks then s.poolFree p.id else s).follow
          .next ((s.startMembers (fun k c => .taskStart c p.id ix inst k) 0 a.cores).poke die)

/-! ### Task start (R20, R53, R70, R75, R162, R173, R197, R198, R210, R277) -/

/-- Word k of a parameter object. -/
def State.paramWord (s : State) (h : Word) (k : Nat) : Word :=
  match s.objOf h with
  | some o => BitVec.ofNat 64 (ofBytes ((List.range 8).map fun j => o.byteOf (if o.live then 0 else o.curv) (8 * k + j)))
  | none => 0
/-- A handle word opened as by OPEN.R; any other status leaves the register closed (R198). -/
def State.openStart (s : State) (p : Party) (h : Word) : State × HReg :=
  match s.objOf h with
  | none => (s.tellRejected h, HReg.closed)
  | some o =>
    let rights := s.rightsOf o p.plot
    if !rights.getLsbD rRead then (s, HReg.closed)
    else if o.live then (s, ⟨h, true, false, rights, 0, none⟩)
    else if o.pinFull then (s, HReg.closed)
    else (s.modObj o.home o.index Obj.pinCur, ⟨h, true, false, rights, BitVec.ofNat 32 o.curv, none⟩)
/-- The furrow of a .furrow directive (R210). -/
def Furrow.start (base slotsz count : Nat) (remote : Bool) : Furrow :=
  { Furrow.none with base := base, slotsz := slotsz, count := count, free := count, prod := if remote then 5 else 0,
                     remote := remote, init := true, decl := true }
/-- FURROW_CONFIG at initialisation (R210). -/
def Furrow.badStart (f : Furrow) (s : Nat) : Bool :=
  f.slotsz = 0 || f.slotsz % 32 ≠ 0 || 14336 < f.slotsz / 32 || f.count = 0 || 256 < f.count || f.base % 32 ≠ 0 ||
  decide (s < f.base + f.slotsz * f.count)
/-- One directive's effect on a starting core. -/
def State.directive (s : State) (p : Party) (param : Word) (c : Core) : Directive → State × Core
  | .furrow f base slotsz count remote => (s, { c with f := setAt c.f f (Furrow.start base slotsz count remote) })
  | .handle h w =>
    let r := s.openStart p (s.paramWord param w)
    (r.1, { c with h := setAt c.h h r.2 })
  | .param x w => (s, if x = 0 then c else { c with x := setAt c.x x (s.paramWord param w) })

/-- The bytes of a code object. -/
def State.codeOf (s : State) (h : Word) : List Byte :=
  match s.objOf h with
  | some o => (List.range o.size).map fun k => o.byteOf (if o.live then 0 else o.curv) k
  | none => []
/-- A core at the start of a task: of the object cache the lines in the range that the new S cedes are dropped, the others stay (R20, R352). -/
def Core.startTask (c : Core) (p : Plot) (t : Task) (code : List Byte) : Core :=
  { Core.reset c.id with run := .running, stage := c.stage, task := some t, pc := p.entry, scrlim := p.sgran * 16384,
                         frames := c.frames.filter fun f => decide (p.sgran * 16384 ≤ 128 * f.frame),
                         code := memPut [] 0 code, codeLen := code.length }

/-- A task that comes to a core which has been fenced meanwhile is pre-empted there, and resumes on another one (R343). -/
def State.leaveFenced (s : State) (core : Nat) : State := if s.fenced.contains core then s.later 0 (.preempt core) else s
/-- TASK_START. -/
def execTaskStart (core plot ix tinst member : Nat) (s : State) : Out :=
  match s.coreAt core, s.plotAt plot with
  | some c, some p =>
    if p.state ≠ stActive || c.task.isSome then .next s
    else
      let who : Party := ⟨s.pkg, dieOf core, tinst, member, plot⟩
      let t : Task := ⟨plot, ix, tinst, member, p.gang, p.seed, 0, 0, (0, 0, 0, 0)⟩
      let code := s.codeOf p.code
      let r := (Config.directives code).foldl (fun (a : State × Core) d => a.1.directive who p.param a.2 d)
        (s, { c.startTask p t code with lastIss := s.cycle })
      let s := ((r.1.modCoreAt core fun _ => r.2).modPlot plot fun p => { p with party := some who }).leaveFenced core
      if (List.finRange 32).any fun f => let g := r.2.rf f; g.init && g.badStart r.2.scrlim then
        let c := r.2
        .next ((s.modCoreAt core fun _ =>
          { c.stopWith .furrowConfig 0 (some (c.replayFor c.pc .furrowConfig)) with stopTs := s.ts }).later core
          (.trapPolicy core))
      else .next s
  | _, _ => .next s

/-- TASK_OVERDUE (R283). -/
def execTaskOverdue (core : Nat) (s : State) : Out := .next (s.modCoreAt core fun c => { c with overdue := true })
/-- The cycle of the latest issue of a task, over its members (R283). -/
def State.taskIss (s : State) (c : Core) : Nat :=
  match c.task with
  | some t => (s.cores.filterMap fun d => match d.task with
      | some u => if u.inst = t.inst then some d.lastIss else none
      | none => none).foldl max c.lastIss
  | none => c.lastIss
/-- No bundle of the core's task has issued for more than STALLTH whole cycles (R283). A task is overdue while every member is
marked. -/
def State.isOverdue (s : State) (c : Core) : Bool :=
  c.run = .running && !c.overdue && match s.plotOf c with
    | some p => p.stallth ≠ 0 && decide (s.taskIss c + p.stallth + 1 < s.cycle)
    | none => false

/-! ### Pre-emption and saving (R308, R310) -/

/-- Whether another member of the core's gang is being saved under HOLD (R304). -/
def State.gangHeld (s : State) (c : Core) : Bool :=
  match c.task with
  | some t => (s.members t.inst).any fun d => d.cause.isSome && (d.run = .draining || d.run = .saving)
  | none => false
/-- A running core stops and its drain begins. A late fault goes first, but for a member of a held gang, which stops at its next
bundle boundary and keeps the fault recorded (R301, R304). -/
def State.stopForSave (s : State) (c : Core) : State :=
  if (if s.gangHeld c then !c.atBoundary else c.late ≠ []) then s.again 0 (.preempt c.id)
  else ((s.raiseCounts c).modCoreAt c.id fun c =>
      { c with run := .draining, spawnFull := false, tmplW := none, lateKeep := c.late.length, stopTs := s.ts }).after 0 0
    (.snapshotSave c.id)
/-- The routine that an emulated MCALL names, once its other checks pass (R175); none where they fail, and the reissue then
traps (assumption log 6). -/
def Core.emulatedCall (c : Core) : Option (Fin 256) :=
  if c.iss.slot ≠ .m then none
  else match c.fetch c.pc with
    | .ok b => (match b.sylls.find? fun y => y.slot = .m with
      | some ⟨_, _, .mcall n⟩ => if ((Geo.mk c.mp).cause true).isNone && c.eng.pending.isNone then some n else none
      | _ => none)
    | .error _ => none
/-- A core whose pre-emption falls during the emulation of a slot: the results the system cores computed are in flight, due at the end
of the replay cycle, and the replay passes over the slot (R306). What a slot does beside its register results is done at the
replay (assumption log 101). A routine that the system cores have still to run is not performed: the replay raises FORMAT_EMULATE
again (assumption log 6). -/
def Core.emulationStopped (c : Core) : Core :=
  let call := c.emulatedCall.isSome
  let c := { c with run := .draining, cause := none, targ := 0 }
  if call then { c with replay := c.replay.map fun r => { r with perf := r.perf &&& ~~~ (perfBit .m), emul := r.emul.dropLast } }
  else if c.emulated = [] then c
  else { c with inflight := c.inflight ++ c.emulated, emulated := [],
                replay := c.replay.map fun r => { r with emul := r.emul.dropLast } }
/-- PREEMPT: the core stops at this boundary, whatever is in progress. It gives way to a late fault, and waits while a trap
other than an emulation is being delivered. -/
def execPreempt (core : Nat) (s : State) : Out :=
  match s.coreAt core with
  | none => .next s
  | some c =>
    match c.run with
    | .running => .next (s.stopForSave c)
    | .retiring => .next (s.stopForSave c)
    | .emulating => .next (s.again 0 (.preempt core))
    | .trapped =>
      if c.cause = some .formatEmulate then
        .next (((s.raiseCounts c).modCoreAt core fun c => { c.emulationStopped with stopTs := s.ts }).after 0 0 (.snapshotSave core))
      else .next (s.again 0 (.preempt core))
    | _ => .next s

/-- A request that waits for an acquire of its task which took a late fault: it is performed after the replay of the acquire, at
the task's resumption (R264; assumption log 103). -/
def State.behindFailed (s : State) (r : Req) : Bool :=
  (s.reqsOf r.party).any fun e => decide (e.id < r.id) && e.op.acquires && (match e.phase with | .failed _ => true | _ => false)
/-- Every request of the task that reads or writes its scratch has done so, the fill of a collective included (R308). -/
def State.drained (s : State) (c : Core) : Bool :=
  !(s.reqsOf (s.party c)).any fun r => (match r.op, r.phase with
    | .push _ _ _ _ _, .sent => !s.behindFailed r
    | .push _ _ _ _ _, _ => false
    | .coll k, .waiting => k = .bc
    | _, .sent => r.furrow.isSome && !s.behindFailed r
    | _, .waiting => r.furrow.isSome
    | _, .filling _ _ => true
    | _, _ => false)

/-! ### YIELD (R106, R282) -/

/-- The first candidate of a die, of a priority at least `prio`, that lacks only cores, that no free cores can take, and that the
cores of the task which yields would help to place. -/
def State.yieldFor (s : State) (d : Disp) (prio inst : Nat) : Option Plot :=
  ((s.byPriority d).filterMap (s.lacksCores d.die)).find? fun q =>
    decide (prio ≤ s.ep q) && (s.placement q d.die).isNone && (s.eligible d.die q (some inst)).isSome
/-- YIELD: when the TASKSET allows pre-emption and a candidate of equal or higher priority has no core free, this task is
pre-empted at the boundary after the bundle. Its admission goes out whatever the number of those in flight, which bounds the
dispatcher's own selections (DESIGN CHOICE, assumption log 125). -/
def execYield (s : State) : Out :=
  let die := dieOf s.core.id
  sylS [] (fun s =>
    match s.core.task, s.plotOf s.core, s.disps.find? fun d => d.die = die with
    | some t, some p, some d =>
      (match s.yieldFor d p.prio t.inst with
        | some q => s.preemptFor die q (some t.inst)
        | none => s)
    | _, _, _ => s) s

end Sys2Proof.Machine
end

