-- ==== Sys2Proof/Machine/Snapshot.lean ====
section
/-! DEFINITION. The bytes of a member's snapshot (R310 to R313): what the snapshot engine writes of a core, and how a core is
restored from its row as it then stands (R305). The places of the items within the areas of R312 and R313 are this model's where
those rules give only the items (DESIGN CHOICE, assumption log 18). -/
namespace Sys2Proof.Machine

/-! ### The header (R311) -/

/-- The header of a member's snapshot. -/
def Core.header (c : Core) (t : Task) : Nat :=
  let perf := match c.replay with | some r => r.perf.toNat | none => 0
  let slotr := match c.replay with | some r => boolBit r.slotr.isSome | none => 0
  1 + 1 * 2 ^ 8 + boolBit c.eng.loaded * 2 ^ 16 + boolBit c.replay.isSome * 2 ^ 17 + slotr * 2 ^ 18 + perf * 2 ^ 19 +
    (match c.cause with | some k => causeCode k | none => 0) * 2 ^ 32 + c.targ.toNat * 2 ^ 64 + t.inst % 2 ^ 32 * 2 ^ 128 +
    t.ix % 2 ^ 32 * 2 ^ 160 + t.plot % 2 ^ 32 * 2 ^ 192 + c.scrlim % 2 ^ 19 * 2 ^ 224 + t.member % 8 * 2 ^ 243 +
    t.shape % 4 * 2 ^ 246 + c.deferq.length * 2 ^ 256 + c.randN % 2 ^ 64 * 2 ^ 288 + c.cyc % 2 ^ 64 * 2 ^ 352 +
    c.stopTs % 2 ^ 64 * 2 ^ 416
/-- The bits of a header byte that a write reaches: PERF, TARG and the reserved fields, in which a nonzero value makes the resumption
reject the snapshot (R8); every other field is RO (R7, R311). -/
def headerRw (byte : Nat) : Nat :=
  if byte = 2 then 0xF8 else if 8 ≤ byte ∧ byte < 16 then 0xFF
  else if byte = 3 ∨ (5 ≤ byte ∧ byte < 8) ∨ byte = 31 ∨ 60 ≤ byte then 0xFF else 0

/-! ### Items of fixed width -/

/-- Words one after the other, 8 bytes each. -/
def wordBytes (ws : List Nat) : List Byte := (ws.map (toBytes 8)).flatten
/-- Words one after the other from an offset. -/
def wordsAt (off : Nat) (ws : List Nat) : List (Nat × List Byte) := [(off, wordBytes ws)]
/-- A signed number as a word, and back. -/
def intWord (k : Int) : Nat := (BitVec.ofInt 64 k).toNat
def wordInt (n : Nat) : Int := (BitVec.ofNat 64 n).toInt
/-- A tag as VEC codes it (R310). -/
def Tag.code (t : Tag) : Nat := t.fmt.toNat + t.scale.toNat * 2 ^ 5 + boolBit t.poison * 2 ^ 13
/-- The tag of a code. -/
def Tag.ofCode (n : Nat) : Tag := ⟨BitVec.ofNat 5 n, BitVec.ofNat 8 (n / 2 ^ 5), n / 2 ^ 13 % 2 = 1⟩
/-- A stack action as kind, address and depth. -/
def StackAct.words : StackAct → Nat × Nat × Nat
  | .none => (0, 0, 0)
  | .push e => (1, e.addr, e.depth)
  | .pop => (2, 0, 0)
  | .leave n => (3, 0, n)
def StackAct.ofWords : Nat × Nat × Nat → StackAct
  | (1, a, d) => .push ⟨a, d⟩
  | (2, _, _) => .pop
  | (3, _, n) => .leave n
  | _ => .none

/-- The stream's state: next bundle; redirection target; delay slots left with the redirection's kind and fetch cost; STALL cycles
left; hold state; the stack action's address and depth; flags. -/
def Core.streamBytes (c : Core) : List Byte :=
  let r := match c.redirect with
    | none => (0, 0, 0, 0)
    | some r =>
      let k := r.act.words
      (r.target.getD 0, r.left + 2 ^ 8 + boolBit r.target.isSome * 2 ^ 9 + k.1 * 2 ^ 16 + r.cost * 2 ^ 32, k.2.1, k.2.2)
  let hold := match c.fwait with | some w => 2 ^ 63 + (c.waits - w) % 2 ^ 63 | none => 0
  wordBytes [c.pc, r.1, r.2.1, c.nextIss - c.cyc + (c.dueIss - c.cyc) * 2 ^ 32, hold, r.2.2.1, r.2.2.2,
    boolBit c.retireIss + boolBit c.counting * 2]
/-- The same read back. -/
def Core.ofStream (c : Core) (w : Nat → Nat) : Core :=
  let k := w 2
  let redirect := if k / 2 ^ 8 % 2 = 0 then none else
    some ⟨k % 2 ^ 8, if k / 2 ^ 9 % 2 = 1 then some (w 1) else none, StackAct.ofWords (k / 2 ^ 16 % 2 ^ 16, w 5, w 6), k / 2 ^ 32⟩
  { c with pc := w 0, redirect := redirect, nextIss := c.cyc + w 3 % 2 ^ 32, dueIss := c.cyc + w 3 / 2 ^ 32,
           fwait := if w 4 / 2 ^ 63 = 1 then some (c.waits - w 4 % 2 ^ 63) else none, retireIss := w 7 % 2 = 1,
           counting := w 7 / 2 % 2 = 1 }
/-- The call stack: 16 entries of return address (8 bytes) and depth (4 bytes), then the number of entries. -/
def Core.callBytes (c : Core) : List Byte :=
  let e (k : Nat) : CallEntry := c.calls.getD k ⟨0, 0⟩
  ((List.range 16).map fun k => toBytes 8 (e k).addr ++ toBytes 4 (e k).depth).flatten ++ toBytes 8 c.calls.length
def Core.ofCalls (c : Core) (rd : Nat → Nat → Nat) : Core :=
  { c with calls := (List.range (min 16 (rd 192 8))).map fun k => ⟨rd (12 * k) 8, rd (12 * k + 8) 4⟩ }
/-- A loop level: LC, N, B, E, SW, CD and its active flag; place 0 holds the innermost (DESIGN CHOICE, assumption log 18). -/
def Core.loopBytes (c : Core) (k : Nat) : List Byte :=
  match c.loops[k]? with
  | some l => wordBytes [l.lc, l.n, l.b, l.e, l.sw.toNat, l.cd, 1, 0]
  | none => wordBytes [0, 0, 0, 0, 0, 0, 0, 0]
def levelRead (w : Nat → Nat) : Option Level :=
  if w 6 % 2 = 1 then some ⟨w 0, w 1, w 2, w 3, BitVec.ofNat 64 (w 4), w 5⟩ else none
/-- A landing slot: word; state (0 empty, 1 outstanding, 2 landed); THAW's mark; arrived flag; bundles to due. -/
def Core.slotBytes (c : Core) (q : Fin 16) : List Byte :=
  let row (w st thaw got due : Nat) : List Byte := toBytes 8 w ++ toBytes 1 st ++ toBytes 1 thaw ++ toBytes 2 got ++ toBytes 4 due
  match c.rq q with
  | .empty => row 0 0 0 0 0
  | .outstanding due _ thaw got =>
    row (match got with | some l => l.word.toNat | none => 0) 1 (boolBit thaw) (boolBit got.isSome) (due - c.issued)
  | .landed w thaw => row w.toNat 2 (boolBit thaw) 0 0
/-- The same read back; the request, and the new state of an h-register that it brings, are those of the saved slot. -/
def Core.ofSlot (c : Core) (q : Fin 16) (rd : Nat → Nat → Nat) : QSlot :=
  let w := BitVec.ofNat 64 (rd 0 8)
  let thaw := rd 9 1 % 2 = 1
  let old := match c.rq q with | .outstanding _ r _ got => (r, got.bind (·.hset)) | _ => (0, none)
  match rd 8 1 with
  | 1 => .outstanding (c.issued + rd 12 4) old.1 thaw (if rd 10 2 % 2 = 1 then some ⟨w, old.2⟩ else none)
  | 2 => .landed w thaw
  | _ => .empty
/-- An h-register: HANDLE, OPEN, MODE, RIGHTS, VER. -/
def HReg.bytes (r : HReg) : List Byte :=
  toBytes 8 r.handle.toNat ++ toBytes 1 (boolBit r.opened) ++ toBytes 1 (boolBit r.write) ++ toBytes 2 r.rights.toNat ++
    toBytes 4 r.ver.toNat ++ List.replicate 16 0
def HReg.ofBytes (old : HReg) (rd : Nat → Nat → Nat) : HReg :=
  { old with handle := BitVec.ofNat 64 (rd 0 8), opened := rd 8 1 % 2 = 1, write := rd 9 1 % 2 = 1, rights := BitVec.ofNat 7 (rd 10 2),
             ver := BitVec.ofNat 32 (rd 12 4) }
/-- A furrow descriptor in its 128 bits (R210). -/
def Furrow.bits (f : Furrow) : Nat :=
  f.base % 2 ^ 19 + f.slotsz / 32 % 2 ^ 16 * 2 ^ 19 + (f.count - 1) % 2 ^ 8 * 2 ^ 35 + f.filled % 2 ^ 9 * 2 ^ 43 +
    f.free % 2 ^ 9 * 2 ^ 52 + f.prod % 2 ^ 4 * 2 ^ 61 + f.cons % 2 ^ 4 * 2 ^ 65 + boolBit f.remote * 2 ^ 69 + boolBit f.init * 2 ^ 70 +
    f.pcore % 2 ^ 9 * 2 ^ 71 + boolBit f.pbnd * 2 ^ 80 + f.tail % 2 ^ 8 * 2 ^ 81 + f.head % 2 ^ 8 * 2 ^ 89
/-- A furrow from the 128 bits of its descriptor; the claims and takes of requests stay. -/
def Furrow.ofBits (old : Furrow) (n : Nat) : Furrow :=
  let at_ (lo w : Nat) : Nat := n / 2 ^ lo % 2 ^ w
  { old with base := at_ 0 19, slotsz := at_ 19 16 * 32, count := if at_ 70 1 = 1 then at_ 35 8 + 1 else 0, filled := at_ 43 9,
             free := at_ 52 9, prod := at_ 61 4, cons := at_ 65 4, remote := at_ 69 1 = 1, init := at_ 70 1 = 1, pcore := at_ 71 9,
             pbnd := at_ 80 1 = 1, tail := at_ 81 8, head := at_ 89 8 }
/-- A furrow's descriptor and its two V cursors. -/
def Furrow.bytes (f : Furrow) : List Byte := toBytes 16 f.bits ++ toBytes 8 f.vrd ++ toBytes 8 f.vwr
def Furrow.ofBytes (old : Furrow) (rd : Nat → Nat → Nat) : Furrow :=
  { old.ofBits (rd 0 16) with vrd := rd 16 8, vwr := rd 24 8 }
/-- A push-map entry: core, furrow, flags (valid, ended), slot size, slots, free slots, consumer. -/
def pushBytes : Option PushEntry → List Byte
  | some e => toBytes 2 e.core ++ toBytes 1 e.furrow ++ toBytes 1 (1 + boolBit e.ended * 2) ++ toBytes 4 e.size ++ toBytes 2 e.slots ++
      toBytes 2 e.free ++ toBytes 4 e.inst
  | none => List.replicate 16 0
def pushOf (rd : Nat → Nat → Nat) : Option PushEntry :=
  if rd 3 1 % 2 = 1 then some ⟨rd 0 2, rd 2 1, rd 4 4, rd 8 2, rd 10 2, rd 12 4, rd 3 1 / 2 % 2 = 1⟩ else none

/-! ### The engine (R194, R312) -/

def BankFmt.code : BankFmt → Nat
  | .i32 => 0
  | .f32 => 1
  | .f64 => 2
def BankFmt.ofCode : Nat → BankFmt
  | 0 => .i32
  | 1 => .f32
  | _ => .f64
/-- The captured parameters of the running routine. -/
def Engine.captured (e : Engine) : Vector Word 8 :=
  match e.active with | some (.routine _ mp) => mp | _ => Vector.replicate 8 0
/-- Work as one word: kind, and a routine's number or a load's furrow, first microword, count and progress. -/
def workWord : Option Work → Nat
  | none => 0
  | some (.routine n _) => 1 + n.val * 2 ^ 8
  | some (.load f first count written) => 2 + f.val * 2 ^ 8 + first % 2 ^ 16 * 2 ^ 16 + count % 2 ^ 16 * 2 ^ 32 + written % 2 ^ 16 * 2 ^ 48
def workOf (n : Nat) (mp : Vector Word 8) : Option Work :=
  match n % 2 ^ 8 with
  | 1 => some (.routine (Fin.ofNat 256 (n / 2 ^ 8)) mp)
  | 2 => some (.load (Fin.ofNat 32 (n / 2 ^ 8)) (n / 2 ^ 16 % 2 ^ 16) (n / 2 ^ 32 % 2 ^ 16) (n / 2 ^ 48 % 2 ^ 16))
  | _ => none
def mlevelWords : Option MLevel → List Nat
  | some l => [1 + boolBit l.rew * 2 + l.b % 2 ^ 16 * 2 ^ 16 + l.e % 2 ^ 16 * 2 ^ 32, l.lc, l.n, intWord l.ks, intWord l.rs]
  | none => [0, 0, 0, 0, 0]
def mlevelOf (w : Nat → Nat) : Option MLevel :=
  if w 0 % 2 = 1 then
    some ⟨w 1, w 2, w 0 / 2 ^ 16 % 2 ^ 16, w 0 / 2 ^ 32 % 2 ^ 16, wordInt (w 3), wordInt (w 4), w 0 / 2 % 2 = 1⟩
  else none
/-- A load in flight as two words; the bytes it has read stay beside the snapshot. -/
def loadWords : Option BLoad → List Nat
  | some l =>
    [1 + l.stage.val * 2 + boolBit l.poison * 4 + boolBit l.furrow.isSome * 8 + (match l.furrow with | some f => f.val | none => 0) * 2 ^ 4 +
      l.base % 2 ^ 32 * 2 ^ 16, l.size % 2 ^ 32 + l.done % 2 ^ 32 * 2 ^ 32]
  | none => [0, 0]
def loadOf (old : Option BLoad) (w : Nat → Nat) : Option BLoad :=
  if w 0 % 2 = 1 then
    some ⟨Fin.ofNat 2 (w 0 / 2), w 0 / 2 ^ 16 % 2 ^ 32, w 1 % 2 ^ 32, w 1 / 2 ^ 32, match old with | some l => l.data | none => [],
      w 0 / 4 % 2 = 1, if w 0 / 8 % 2 = 1 then some (Fin.ofNat 32 (w 0 / 2 ^ 4)) else none⟩
  else none
/-- The engine's position, bank formats and row poison, active stage and stage poison, and flags. -/
def Engine.bytes (e : Engine) : List Byte :=
  wordBytes ([workWord e.active, workWord e.pending,
    e.ix % 2 ^ 16 + e.row % 2 ^ 16 * 2 ^ 16 + e.sub % 2 ^ 16 * 2 ^ 32 + e.wait % 2 ^ 16 * 2 ^ 48, intWord e.koff, intWord e.roff] ++
    mlevelWords e.lv0 ++ mlevelWords e.lv1 ++ loadWords e.load ++
    [e.work.fmt.code + e.vis.fmt.code * 4 + e.bact.val * 16 + boolBit e.b0.poison * 32 + boolBit e.b1.poison * 64 + boolBit e.done * 2 ^ 8 +
      boolBit e.fault * 2 ^ 9 + e.fcode % 2 ^ 8 * 2 ^ 16 + e.rout % 2 ^ 8 * 2 ^ 24 + e.mwix % 2 ^ 16 * 2 ^ 32 +
      (match e.fresh with | some k => 1 + k % 2 ^ 8 * 2 | none => 0) * 2 ^ 48]) ++
    toBytes 32 e.work.poison.toNat ++ toBytes 32 e.vis.poison.toNat
/-- The same read back. -/
def Engine.ofBytes (e : Engine) (rd : Nat → Nat → Nat) : Engine :=
  let w (k : Nat) : Nat := rd (8 * k) 8
  let from_ (k : Nat) : Nat → Nat := fun j => w (k + j)
  let pos := w 2
  let fl := w 17
  let mpOf (k : Option Work) : Vector Word 8 := match k with | some (.routine _ mp) => mp | _ => Vector.replicate 8 0
  { e with
    active := workOf (w 0) e.captured, pending := workOf (w 1) (mpOf e.pending), ix := pos % 2 ^ 16, row := pos / 2 ^ 16 % 2 ^ 16,
    sub := pos / 2 ^ 32 % 2 ^ 16, wait := pos / 2 ^ 48, koff := wordInt (w 3), roff := wordInt (w 4), lv0 := mlevelOf (from_ 5),
    lv1 := mlevelOf (from_ 10), load := loadOf e.load (from_ 15),
    work := { e.work with fmt := BankFmt.ofCode (fl % 4), poison := BitVec.ofNat 256 (rd 144 32) },
    vis := { e.vis with fmt := BankFmt.ofCode (fl / 4 % 4), poison := BitVec.ofNat 256 (rd 176 32) },
    bact := Fin.ofNat 2 (fl / 16), b0 := { e.b0 with poison := fl / 32 % 2 = 1 }, b1 := { e.b1 with poison := fl / 64 % 2 = 1 },
    done := fl / 2 ^ 8 % 2 = 1, fault := fl / 2 ^ 9 % 2 = 1, fcode := fl / 2 ^ 16 % 2 ^ 8, rout := fl / 2 ^ 24 % 2 ^ 8,
    mwix := fl / 2 ^ 32 % 2 ^ 16, fresh := if fl / 2 ^ 48 % 2 = 1 then some (fl / 2 ^ 49 % 2 ^ 8) else none }

/-! ### The replay buffer (R302, R312) -/

/-- The captured operands of a slot replay: the index tuple, then the other operand words; 24 words. -/
def Req.operandBytes (r : Req) : List Byte :=
  let ws := r.operandWords
  wordBytes ((List.range 24).map fun k => ws.getD k 0)
/-- The bundle image, 64 bytes. -/
def Core.replayImage (c : Core) : List Byte :=
  match c.replay with
  | some r => wordBytes ((List.range 8).map fun k => if k < c.lenAt r.addr / 8 then c.codeWord r.addr k else 0)
  | none => List.replicate 64 0

/-! ### Results in flight (R313) -/

/-- A scalar record's destination file, number and value; none for a vector or mask result. -/
def Wr.scalar : Wr → Option (Nat × Nat × Nat)
  | .x r k => some (0, r.val, k.toNat)
  | .a r k => some (1, r.val, k.toNat)
  | .p r b => some (2, r.val, boolBit b)
  | .mp r k => some (3, r.val, k.toNat)
  | _ => none
def Wr.ofScalar (file num val : Nat) : Wr :=
  match file with
  | 0 => .x (Fin.ofNat 64 num) (BitVec.ofNat 64 val)
  | 1 => .a (Fin.ofNat 16 num) (BitVec.ofNat 64 val)
  | 2 => .p (Fin.ofNat 16 num) (val % 2 = 1)
  | _ => .mp (Fin.ofNat 8 num) (BitVec.ofNat 64 val)
/-- The results in flight in the order of their ready cycles. -/
def Core.flights (c : Core) : List InFlight := c.inflight.mergeSort fun a b => decide (a.ready ≤ b.ready)
/-- A record's first 8 bytes: destination file, number, and the cycles left after the stop. -/
def Core.recordHead (c : Core) (file num ready : Nat) : List Byte := toBytes 1 file ++ toBytes 1 num ++ toBytes 6 (ready + 1 - c.cyc)
/-- The scalar and predicate records. -/
def Core.scalarRecords (c : Core) : List (List Byte) :=
  c.flights.filterMap fun f => f.wr.scalar.map fun r => c.recordHead r.1 r.2.1 f.ready ++ toBytes 8 r.2.2
/-- The headers and values of the vector and mask records. -/
def Core.vecRecords (c : Core) : List (List Byte × List Byte) :=
  c.flights.filterMap fun f => match f.wr with
    | .v r x => some (c.recordHead 0 r.val f.ready ++ toBytes 8 x.tag.code, toBytes 512 x.data.toNat)
    | .m r b => some (c.recordHead 1 r.val f.ready ++ toBytes 8 0, toBytes 64 b.toNat)
    | _ => none
/-- What PIPE holds, as pieces of the row: the counts, 64 scalar places and 48 header places, those in use after the records zero, and
the values. -/
def Core.pipe (c : Core) : List (Nat × List Byte) :=
  let ss := c.scalarRecords
  let vs := c.vecRecords
  let pad (n : Nat) (rs : List (List Byte)) : List Byte := ((List.range n).map fun k => rs.getD k (List.replicate 16 0)).flatten
  [(0xA000, toBytes 8 ss.length ++ toBytes 8 vs.length), (0xA020, pad 64 ss), (0xA800, pad 48 (vs.map (·.1)))] ++
    ((List.range vs.length).zip vs).map fun e => (0xB000 + 512 * e.1, e.2.2)
/-- The results in flight that PIPE holds. -/
def flightsOf (cyc : Nat) (rd : Nat → Nat → Nat) : List InFlight :=
  let ready (a : Nat) : Nat := cyc + rd (a + 2) 6 - 1
  ((List.range (min 64 (rd 0xA000 8))).map fun k =>
    let a := 0xA020 + 16 * k
    ⟨ready a, Wr.ofScalar (rd a 1) (rd (a + 1) 1) (rd (a + 8) 8)⟩) ++
  (List.range (min 48 (rd 0xA008 8))).map fun k =>
    let a := 0xA800 + 16 * k
    ⟨ready a, if rd a 1 = 0 then
        .v (Fin.ofNat 32 (rd (a + 1) 1)) ⟨BitVec.ofNat 4096 (rd (0xB000 + 512 * k) 512), Tag.ofCode (rd (a + 8) 2)⟩
      else .m (Fin.ofNat 8 (rd (a + 1) 1)) (BitVec.ofNat 512 (rd (0xB000 + 512 * k) 64))⟩

/-! ### A member's row -/

/-- The width in bytes of a bank's cells (R173). -/
def Bank.cellBytes (b : Bank) : Nat := match b.fmt with | .f64 => 8 | _ => 4
/-- The bytes of a bank: 64 KiB of values, then 32 KiB of index entries. -/
def Bank.image (b : Bank) (off : Nat) : List (Nat × List Byte) :=
  b.vals.map (fun e => (off + b.cellBytes * e.1, toBytes b.cellBytes e.2.toNat)) ++
  b.index.map (fun e => (off + 65536 + 2 * e.1, toBytes 2 e.2.toNat))
/-- A deferral queue entry in 24 bytes (R310). -/
def DeferEntry.bytes (e : DeferEntry) : List Byte :=
  toBytes 4 e.w0.toNat ++ toBytes 4 e.w1.toNat ++ toBytes 4 e.w2.toNat ++ toBytes 4 e.w3.toNat ++
    [BitVec.ofNat 8 e.lane, BitVec.ofNat 8 (boolBit e.poison)] ++ List.replicate 6 0
/-- The items of the row whose saved values may still change, or whose state the row holds only in part: each is read back from the
row only where its bytes are no longer those written. -/
def Core.items (c : Core) (operands : List Byte) : List (Nat × List Byte) :=
  [(0x12C0, c.streamBytes), (0x1300, c.callBytes)] ++
  (List.range 6).map (fun k => (0x1400 + 64 * k, c.loopBytes k)) ++
  (List.finRange 16).map (fun q => (0x1580 + 16 * q.val, c.slotBytes q)) ++
  (List.finRange 16).map (fun h => (0x1680 + 32 * h.val, (c.rh h).bytes)) ++
  (List.finRange 32).map (fun f => (0x1880 + 32 * f.val, (c.rf f).bytes)) ++
  (List.range 16).map (fun k => (0x1C80 + 16 * k, pushBytes c.pushMap[k]?)) ++
  [(0x1E00, c.eng.bytes), (0x2000, c.replayImage), (0x2040, operands)] ++ c.pipe
/-- The reserved bytes of the sections HDR, CORE and PIPE: offset and size. -/
def reservedParts : List (Nat × Nat) :=
  [(0x0040, 4032), (0x12B0, 16), (0x13C8, 56), (0x1DF8, 8), (0x1ED0, 304), (0x22C0, 64), (0x2380, 3200), (0xA010, 16), (0xA420, 992),
   (0xAB00, 1280)]
/-- What the snapshot engine writes of a member, as pieces of its row. Deferral entries that are still in flight stay beside the row
(DESIGN CHOICE, assumption log 18). -/
def Core.image (c : Core) (t : Task) (operands : List Byte) : List (Nat × List Byte) :=
  [(0, toBytes 64 (c.header t))] ++
  reservedParts.map (fun p => (p.1, List.replicate p.2 0)) ++ c.items operands ++
  wordsAt 0x1000 (c.x.toList.map BitVec.toNat) ++ wordsAt 0x1200 (c.a.toList.map BitVec.toNat) ++
  wordsAt 0x1280 [c.p.toNat, boolBit c.sbchk, c.cyc, c.bundles, c.clkstop, c.waits] ++
  wordsAt 0x1D80 (c.mp.toList.map BitVec.toNat) ++ wordsAt 0x1DC0 ((c.eng.captured.toList.take 7).map BitVec.toNat) ++
  [(0x2100, toBytes 448 (c.marks.toNat % 2 ^ 3584)),
   (0x2300, toBytes 128 ((c.tags.map fun e => 2 ^ e.1).sum))] ++
  c.tags.map (fun e => (0x3000 + 8 * e.1, toBytes 8 e.2.toNat)) ++
  (List.finRange 32).map (fun r => (0x5000 + 512 * r.val, toBytes 512 (c.rv r).data.toNat)) ++
  (List.finRange 32).map (fun r => (0x9000 + 2 * r.val, toBytes 2 (c.rv r).tag.code)) ++
  (List.finRange 8).map (fun r => (0x9100 + 64 * r.val, toBytes 64 (c.rm r).toNat)) ++
  [(0x11000, List.replicate 196608 0)] ++ c.eng.work.image 0x11000 ++ c.eng.vis.image 0x29000 ++
  [(0x41000, memBytes c.eng.b0.bytes 0 16384), (0x45000, memBytes c.eng.b1.bytes 0 16384)] ++
  (if c.eng.loaded then [(0x49000, List.replicate 65536 0)] ++ c.eng.store.map (fun e => (0x49000 + 16 * e.1, toBytes 16 e.2.toNat))
   else []) ++
  [(0x59000, c.scrBytes 0 c.scrlim)] ++
  ((List.range c.deferq.length).zip c.deferq).map (fun e => (0xC9000 + 24 * e.1, e.2.bytes))

/-! ### Reading a row back (R305, R309) -/

/-- The entries of a sparse map from a function, below a number. -/
def sparseOf {α : Type} [DecidableEq α] (d : α) (n : Nat) (f : Nat → α) : List (Nat × α) :=
  (List.range n).filterMap fun k => if f k = d then none else some (k, f k)
/-- A bank read back. -/
def Bank.ofImage (b : Bank) (rd : Nat → Nat → Nat) (off : Nat) : Bank :=
  { b with vals := sparseOf 0 (65536 / b.cellBytes) (fun k => BitVec.ofNat 64 (rd (off + b.cellBytes * k) b.cellBytes)),
           index := sparseOf 0 16384 (fun k => BitVec.ofNat 16 (rd (off + 65536 + 2 * k) 2)) }
/-- A deferral queue entry read back. -/
def DeferEntry.ofImage (rd : Nat → Nat → Nat) (a : Nat) : DeferEntry :=
  let w (k : Nat) : BitVec 32 := BitVec.ofNat 32 (rd (a + 4 * k) 4)
  ⟨rd (a + 16) 1, w 0, w 1, w 2, w 3, rd (a + 17) 1 % 2 = 1⟩
/-- The banks, stages, store and working parameters read back. -/
def Engine.ofImage (e : Engine) (rd : Nat → Nat → Nat) : Engine :=
  let mp := Vector.ofFn fun (i : Fin 8) => if i.val < 7 then BitVec.ofNat 64 (rd (0x1DC0 + 8 * i.val) 8) else e.captured.get i
  let active := match e.active with | some (.routine n _) => some (Work.routine n mp) | w => w
  let bytes (a : Nat) : Mem := memPut [] 0 (toBytes 16384 (rd a 16384))
  { e with active := active, work := e.work.ofImage rd 0x11000, vis := e.vis.ofImage rd 0x29000,
           b0 := { e.b0 with bytes := bytes 0x41000 }, b1 := { e.b1 with bytes := bytes 0x45000 },
           store := if e.loaded then sparseOf 0 4096 (fun k => BitVec.ofNat 128 (rd (0x49000 + 16 * k) 16)) else e.store }
/-- The counters and the task cycle that all that is timed follows. -/
def Core.ofCounts (c : Core) (rd : Nat → Nat → Nat) : Core :=
  let cyc := rd 0x1290 8
  let waits := rd 0x12A8 8
  let move (n : Nat) : Nat := n + cyc - c.cyc
  { c with cyc := cyc, bundles := rd 0x1298 8, clkstop := rd 0x12A0 8, waits := waits, nextIss := move c.nextIss, dueIss := move c.dueIss,
           inflight := c.inflight.map (fun f => { f with ready := move f.ready }),
           loads := c.loads.map (fun l => { l with ready := move l.ready, port := move l.port }), deferIn := c.deferIn.map (fun e => (move e.1, e.2)),
           port := c.port.map (fun j => { j with first := move j.first, deadline := move j.deadline }),
           fwait := c.fwait.map fun w => w + waits - c.waits }
/-- Whether the bytes of the item at an offset are no longer those written. -/
def rewritten (wrote : List (Nat × List Byte)) (rd : Nat → Nat → Nat) (a : Nat) : Bool :=
  match wrote.find? fun p => p.1 = a with
  | some p => decide (rd a p.2.length ≠ ofBytes p.2)
  | none => false
/-- The items whose bytes in the row are no longer those written are read back. -/
def Core.ofItems (c : Core) (wrote : List (Nat × List Byte)) (rd : Nat → Nat → Nat) : Core :=
  let new (a : Nat) : Bool := rewritten wrote rd a
  let from_ (a : Nat) : Nat → Nat → Nat := fun off n => rd (a + off) n
  let words (a : Nat) : Nat → Nat := fun k => rd (a + 8 * k) 8
  let c : Core := if new 0x12C0 = true then c.ofStream (words 0x12C0) else c
  let c : Core := if new 0x1300 = true then c.ofCalls (from_ 0x1300) else c
  let anyLoop := (List.range 6).any fun k => new (0x1400 + 64 * k)
  let c : Core := if anyLoop then { c with loops := (List.range 6).filterMap fun k => levelRead (words (0x1400 + 64 * k)) } else c
  let anyPush := (List.range 16).any fun k => new (0x1C80 + 16 * k)
  let push (k : Nat) : Option PushEntry := if new (0x1C80 + 16 * k) = true then pushOf (from_ (0x1C80 + 16 * k)) else c.pushMap[k]?
  let c : Core := if anyPush then { c with pushMap := (List.range 16).filterMap push } else c
  let old := c
  let c : Core := { c with
    q := Vector.ofFn fun i => if new (0x1580 + 16 * i.val) = true then old.ofSlot i (from_ (0x1580 + 16 * i.val)) else old.rq i
    h := Vector.ofFn fun i => if new (0x1680 + 32 * i.val) = true then (old.rh i).ofBytes (from_ (0x1680 + 32 * i.val)) else old.rh i
    f := Vector.ofFn fun i => if new (0x1880 + 32 * i.val) = true then (old.rf i).ofBytes (from_ (0x1880 + 32 * i.val)) else old.rf i }
  let c : Core := if new 0x1E00 = true then { c with eng := c.eng.ofBytes (from_ 0x1E00) } else c
  let image := if new 0x2000 = true then toBytes 64 (rd 0x2000 64) else []
  let ws := if new 0x2040 then (List.range 24).map (words 0x2040) else []
  let c : Core := { c with replay := c.replay.map fun r =>
    { r with image := if image = [] then r.image else image, words := if ws = [] || r.slotr.isNone then r.words else ws } }
  if wrote.any fun p => decide (0xA000 ≤ p.1) && new p.1 then { c with inflight := flightsOf c.cyc rd } else c
/-- A saved core restored from its row: every item of R310 to R313 is read from the bytes as they then stand; DEFN and the other RO
fields of the header are the hardware's (R7). -/
def Core.ofImage (c : Core) (wrote : List (Nat × List Byte)) (rd : Nat → Nat → Nat) : Core :=
  let w (a : Nat) : Word := BitVec.ofNat 64 (rd a 8)
  let c := (c.ofCounts rd).ofItems wrote rd
  let replay := c.replay.map fun r => { r with perf := BitVec.ofNat 7 (rd 0 64 / 2 ^ 19) }
  { c with
    replay := replay, x := Vector.ofFn (fun i => w (0x1000 + 8 * i.val)), a := Vector.ofFn (fun i => w (0x1200 + 8 * i.val)),
    p := BitVec.ofNat 16 (rd 0x1280 8), sbchk := rd 0x1288 8 % 2 = 1, mp := Vector.ofFn (fun i => w (0x1D80 + 8 * i.val)),
    marks := BitVec.ofNat 4096 (rd 0x2100 448),
    tags := (List.range 1024).filterMap (fun k => if rd 0x2300 128 / 2 ^ k % 2 = 1 then some (k, w (0x3000 + 8 * k)) else none),
    v := Vector.ofFn (fun i => ⟨BitVec.ofNat 4096 (rd (0x5000 + 512 * i.val) 512), Tag.ofCode (rd (0x9000 + 2 * i.val) 2)⟩),
    m := Vector.ofFn (fun i => BitVec.ofNat 512 (rd (0x9100 + 64 * i.val) 64)),
    eng := c.eng.ofImage rd, scratch := memPut [] 0 (toBytes c.scrlim (rd 0x59000 c.scrlim)),
    deferq := (List.range c.deferq.length).map (fun k => DeferEntry.ofImage rd (0xC9000 + 24 * k)) }
/-- R8: a snapshot with another layout version or a nonzero reserved field is rejected: the header's, those of the sections, of
CORECTL (R75), of the predicates' word, of the h-registers' and loop levels' places, of the furrow descriptors (R210) and of the tags
(R310). -/
def badImage (rd : Nat → Nat → Nat) : Bool :=
  let h := rd 0 64
  h % 256 ≠ 1 || h / 2 ^ 26 % 2 ^ 6 ≠ 0 || h / 2 ^ 40 % 2 ^ 24 ≠ 0 || h / 2 ^ 248 % 2 ^ 8 ≠ 0 || h / 2 ^ 480 ≠ 0 ||
  (reservedParts.any fun p => rd p.1 p.2 ≠ 0) || 2 ≤ rd 0x1288 8 || 2 ^ 16 ≤ rd 0x1280 8 ||
  ((List.range 6).any fun k => rd (0x1438 + 64 * k) 8 ≠ 0) || ((List.range 16).any fun k => rd (0x1690 + 32 * k) 16 ≠ 0) ||
  ((List.range 32).any fun k => 2 ^ 97 ≤ rd (0x1880 + 32 * k) 16) || (List.range 32).any fun k => 2 ^ 14 ≤ rd (0x9000 + 2 * k) 2

end Sys2Proof.Machine
end

