-- ==== Sys2Proof/Machine/Save.lean ====
section
/-! DEFINITION. Saving and resumption (R308 to R310); the end of RETIRE's wait (R105); the conversion of a SPAWNW wait (R288). -/
namespace Sys2Proof.Machine

/-! ### Rows of a save area (R310) -/

/-- The save area of a saved member. -/
def State.saveArea (s : State) (c : Core) : Option Obj := (s.plotOf c).bind fun p => s.objOf p.save
/-- Bytes of row k of a save area, little-endian. -/
def Obj.rowRead (o : Obj) (k off n : Nat) : Nat :=
  ofBytes ((List.range n).map fun j => o.byteOf (if o.live then 0 else o.curv) (921600 * k + off + j))
/-- Pieces written into row k. -/
def Obj.rowWrite (o : Obj) (k : Nat) (ps : List (Nat × List Byte)) : Obj :=
  ps.foldl (fun o p => o.putBytes (if o.live then 0 else o.curv)
    (((List.range p.2.length).map fun j => 921600 * k + p.1 + j).zip p.2)) o

/-! ### SNAPSHOT_SAVE (R308) -/

/-- A core whose furrows were bound to a core number by pushes of a push map follows it to the new number (R223, R309). -/
def Core.follow (map : List PushEntry) (old new : Nat) (d : Core) : Core :=
  let mine (code f : Nat) : Bool := map.any fun e => e.inst = code && e.furrow = f
  match d.task with
  | none => d
  | some u => { d with f := Vector.ofFn fun i =>
      let g := d.rf i
      if g.remote && g.pbnd && g.pcore = old && mine (u.inst * 8 + u.member) i.val then { g with pcore := new } else g }
/-- The furrows that a resumed member's pushes were bound to follow it to its new core. -/
def State.rebind (s : State) (c : Core) (new : Nat) : State :=
  let upd : Core → Core := Core.follow c.pushMap c.id new
  let keep (v : Saved) : Saved := { v with core := upd v.core }
  { s with saved := s.saved.map keep }.mapCores upd

/-- The replay buffer of a late fault: the bundle that issued the request, all performed but the faulting slot (R302). -/
def Req.replay (r : Req) : Replay := { addr := r.bundle, perf := ~~~ (perfBit r.slot), slotr := some r.id, emul := [], image := [], words := [] }
/-- A late fault found during the drain is recorded as at a stop: in the replay buffer, where that is empty (R302, R308; assumption log
102). One that was recorded before the stop of a member of a held gang stays recorded, and is delivered at the resumption (R301, R304). -/
def State.recordLate (s : State) (c : Core) : Core :=
  let before := c.late.take c.lateKeep
  match c.replay, c.late.drop c.lateKeep with
  | none, e :: rest => (match s.reqs.find? fun r => r.id = e.2 with
    | some r => (match r.phase with
      | .failed _ => { c with replay := some r.replay, late := before ++ rest }
      | _ => { c with late := before ++ rest })
    | none => c)
  | _, _ => c
/-- The captured operands of a core's slot replay. -/
def State.operandsOf (s : State) (c : Core) : List Byte :=
  match c.replay with
  | some ⟨_, _, some id, _, _, ws⟩ => (match s.reqs.find? fun r => r.id = id with
    | some r => if ws = [] then r.operandBytes else wordBytes ((List.range 24).map fun k => ws.getD k 0)
    | none => List.replicate 192 0)
  | _ => List.replicate 192 0
/-- The snapshot slots of the members of a task: none unless every member finds one (R310). -/
def State.slotsFor (s : State) (p : Plot) (n : Nat) : List Nat :=
  let free := s.freeSlots p
  if free.length < n then [] else free.take n
/-- One member saved: its row written, its core released. -/
def State.saveMember (s : State) (held : Bool) (c : Core) (slot : Option Nat) : State :=
  match c.task, s.plotOf c with
  | some t, some p =>
    let ops := s.operandsOf c
    let s := match slot, s.objOf p.save with
      | some k, some o => s.modObj o.home o.index fun o => o.rowWrite k (c.image t ops)
      | _, _ => s
    let v : Saved := ⟨{ c with frames := [] }, c.cause, held, dieOf c.id, BitVec.ofNat 64 c.stopTs, slot, c.items ops⟩
    { s with saved := s.saved ++ [v] }.modCoreAt c.id fun d => { Core.reset d.id with stage := d.stage }
  | _, _ => s
/-- The members of an instance are saved together; a task that is not held is a candidate again. -/
def State.saveTask (s : State) (core : Core) : State :=
  match core.task with
  | none => s
  | some t =>
    let ms := s.members t.inst
    let held := ms.any (·.cause.isSome)
    let slots := match s.plotOf core with | some p => s.slotsFor p ms.length | none => []
    let s := ((List.range ms.length).zip ms).foldl (fun s e => s.saveMember held e.2 slots[e.1]?) s
    let s := s.modChain t.plot fun p => p.sub 512 16 (gangSize t.shape)
    let die := dieOf core.id
    let known := s.disps.any fun d => d.die = die && d.cands.any fun c => c.plot = t.plot
    let ready := match s.plotAt t.plot with | some p => p.state = stActive | none => false
    if held || known || !ready then s.poke die else s.addCand die t.plot (s.source core.id)

/-- Members of a stopped gang that still run are asked to stop. -/
def State.stopOthers (s : State) (ms : List Core) : State :=
  (ms.filter fun d => (d.run = .running || d.run = .retiring) && !s.agenda.any fun e => e.instr = .preempt d.id).foldl
    (fun s d => s.after 0 0 (.preempt d.id)) s
/-- SNAPSHOT_SAVE: the member of lowest number of a stopped task waits for the drain of all members; the snapshots take
their bytes at 512 a cycle; then all are saved. -/
def execSnapshotSave (core : Nat) (s : State) : Out :=
  match s.coreAt core with
  | none => .next s
  | some c =>
    match c.task with
    | none => .next s
    | some t =>
      let ms := s.members t.inst
      let later := ms.any fun d => match d.task with | some u => decide (u.member < t.member) | none => false
      match c.run with
      | .draining =>
        if later then .next s
        else if ms.all fun d => d.run = .draining && s.drained d then
          let n := (ms.map fun d => (d.snapSize + 511) / 512).foldl max 1
          .next ((ms.foldl (fun s d => s.modCoreAt d.id fun d => { s.recordLate d with run := .saving }) s).after n 0 (.snapshotSave core))
        else .next ((s.stopOthers ms).again 0 (.snapshotSave core))
      | .saving => if later then .next s else .next (s.saveTask c)
      | _ => .next s

/-! ### TASK_RESUMPTION (R305, R309) -/

/-- The member of an instance that resumes next: the lowest one still saved. -/
def State.nextSaved (s : State) (inst : Nat) : Option Saved :=
  (s.saved.filter fun v => match v.core.task with | some t => t.inst = inst | none => false).foldl (fun b v => match b with
    | none => some v
    | some w => match v.core.task, w.core.task with
      | some t, some u => if t.member < u.member then some v else some w
      | _, _ => some w) none
/-- TASK_RESUMPTION: a member's row is read back onto a core; a row that R8 rejects terminates the domain with ILLEGAL. -/
def execTaskResumption (tinst core : Nat) (s : State) : Out :=
  match s.nextSaved tinst, s.coreAt core with
  | some v, some d =>
    let row : Option (Nat → Nat → Nat) := match v.slot, s.saveArea v.core with
      | some k, some o => some (o.rowRead k)
      | _, _ => none
    if (match row with | some rd => badImage rd | none => false) then
      -- the cores that COMMIT took for it are given back (R277)
      let s := match v.core.task with
        | some t => if (s.holding t.plot).contains t.inst then s else s.modChain t.plot fun q => q.sub 512 16 (gangSize t.shape)
        | none => s
      .next (s.deliver v.core (causeCode .illegal))
    else
      let c := match row with | some rd => v.core.ofImage v.wrote rd | none => v.core
      let s := { s with saved := s.saved.filter fun w => w ≠ v }.rebind v.core core
      let frames := d.frames.filter fun f => decide (c.scrlim ≤ 128 * f.frame)
      let live := { (c.follow v.core.pushMap v.core.id core).resumeRun with
        id := core, stage := d.stage, lastIss := s.cycle, overdue := false, frames := frames }
      .next ((s.modCoreAt core fun _ => live).leaveFenced core)
  | _, _ => .next s

/-! ### The end of RETIRE's wait (R105) -/

/-- Every result is written, the engine is quiescent, and every request of the task has been performed and landed. -/
def State.retireReady (s : State) (c : Core) : Bool :=
  c.run = .retiring && c.inflight = [] && c.endFx = [] && c.deferIn = [] && c.eng.active.isNone && c.eng.pending.isNone &&
  c.eng.load.isNone && c.late = [] && s.reqsOf (s.party c) = []
/-- RETIRE_COMPLETE: every handle closes, pins and grains are released, an unpublished version is abandoned; the core
returns to its dispatcher. -/
def execRetireComplete (core : Nat) (s : State) : Out :=
  match s.coreAt core with
  | some c => if s.retireReady c then .next (s.endMember c .retired) else .next s
  | none => .next s

/-! ### The conversion of a SPAWNW wait (R288) -/

/-- The four conditions of R288 on a die. -/
def State.spawnDeadlock (s : State) (die : Nat) : Bool :=
  let mine := s.cores.filter fun c => dieOf c.id = die && !s.fenced.contains c.id
  Config.poolEntries ≤ s.poolUsed die && mine ≠ [] && (mine.all fun c => c.run = .running && c.spawnW.isSome) &&
  !(s.disps.any fun d => d.die = die && (d.cands.any (s.admissible die) || match s.wanting d with
    | some p => (s.eligible die p none).isSome
    | none => false))
/-- SPAWNW_DEADLOCK_BREAK: the oldest waiter issues and lands FULL. -/
def execSpawnwDeadlockBreak (die : Nat) (s : State) : Out :=
  let waiting := s.cores.filter fun c => dieOf c.id = die && c.run = .running && c.spawnW.isSome && !c.spawnFull
  let first := waiting.foldl (fun (b : Option Core) c => match b with
    | none => some c
    | some d => if c.spawnW.getD 0 < d.spawnW.getD 0 ∨ (c.spawnW = d.spawnW ∧ c.id < d.id) then some c else some d) none
  match first with
  | some c => .next (s.modCoreAt c.id fun c => { c with spawnFull := true })
  | none => .next s

end Sys2Proof.Machine
end

