-- ==== Sys2Proof/Machine/Tiers.lean ====
section
/-! DEFINITION. Memory tiers and row management (R204, R208, R316 to R318, R320): resolving absent pages, eviction,
promotion, the moves they start, row activations and refresh management. -/
namespace Sys2Proof.Machine

/-! ### Pages and what holds them (R317) -/

/-- The versions that use a stored page. -/
def Obj.users (o : Obj) (p : Page) : List Ver :=
  o.vers.filter fun v => match o.pageAt v.num p.num with | some q => q.ver = p.ver | none => false
/-- A pin of the CURRENT version holds the page, or a pin of a RETAINED one. -/
def Obj.pinnedBy (o : Obj) (p : Page) (st : VerState) : Bool := (o.users p).any fun v => v.st = st && decide (0 < v.pins)
/-- A stored page that a freeze covers, or that is THAWING: of a VERSIONED object the page of CURV (R237). -/
def Obj.covered (o : Obj) (p : Page) : Bool :=
  (o.frz.any fun z => z.page = p.num && (decide (0 < z.count) || z.thawing)) &&
    (o.live || match o.pageAt o.curv p.num with | some q => q.ver = p.ver | none => false)
/-- The page may not move to the LPDDR tier at all (R317). -/
def Obj.stuck (o : Obj) (p : Page) : Bool :=
  o.pinnedBy p .current || (o.vers.any fun v => v.st = .pending && !o.live && v.num = p.ver) ||
  o.covered p || o.lines.any fun l => l.line / 1024 = p.num
/-- Class 1 or 2 of R317; none when the page is never evicted. -/
def Obj.evictClass (o : Obj) (p : Page) : Option Nat :=
  if o.stuck p then none else if o.pinnedBy p .retained then some 2 else some 1
/-- The ROOT a page belongs to uses no more than its guaranteed minimum. -/
def State.guarded (s : State) (p : Page) : Bool :=
  match s.plotAt (s.rootOf p.charge) with
  | some r => r.minhbm ≠ 0 && decide (r.hbmuse ≤ r.minhbm)
  | none => false
/-- Every stored page with its object. -/
def State.allPages (s : State) : List (Obj × Page) := (s.objs.map fun o => o.pages.map fun p => (o, p)).flatten
/-- The order in which pages are taken: age stamp, table index, page number. -/
def olderPage (a b : Obj × Page) : Bool :=
  decide (a.2.stamp < b.2.stamp) || (a.2.stamp = b.2.stamp && (decide (a.1.index < b.1.index) ||
    (a.1.index = b.1.index && decide (a.2.num < b.2.num))))
/-- The first page in that order. -/
def oldestPage (l : List (Obj × Page)) : Option (Obj × Page) :=
  l.foldl (fun b x => match b with | none => some x | some y => if olderPage x y then some x else some y) none
/-- The page an eviction takes from some pages: the oldest of class 1, else of class 2. -/
def State.victimPage (_s : State) (l : List (Obj × Page)) : Option (Obj × Page) :=
  let cls (k : Nat) := l.filter fun x => x.1.evictClass x.2 = some k
  match oldestPage (cls 1) with | some x => some x | none => oldestPage (cls 2)

/-! ### Moves (R208, R318) -/

def State.modPage (s : State) (p : PageRef) (f : Page → Page) : State :=
  s.modObj p.home p.index fun o => o.modPage p.ver p.page f
def State.pageOf (s : State) (p : PageRef) : Option Page :=
  (s.objAt p.home p.index).bind fun o => o.pages.find? fun q => q.ver = p.ver && q.num = p.page
/-- A move of a page to the LPDDR tier starts; a page of class 2 will be ABSENT there, with its intact copy (R353). -/
def State.startSpill (s : State) (o : Obj) (p : Page) : State :=
  let r : PageRef := ⟨o.home, o.index, p.ver, p.num⟩
  { s.modPage r (fun q => { q with moving := true, copy := decide (o.evictClass p = some 2) }) with lpddrUsed := s.lpddrUsed + 1 }.later 0 (.pageMoveComplete r)
/-- PAGE_MOVE_COMPLETE: the page is at its new place and the old one is free. A page whose lines were lost meanwhile is a POISON
page at its new place. -/
def execPageMoveComplete (r : PageRef) (s : State) : Out :=
  match s.pageOf r with
  | none => .next s
  | some p =>
    if !p.moving then .next s
    else
      let s := s.mlcDrop r.home r.index r.ver r.page
      let put (res : Residency) (q : Page) : Page :=
        if p.res = .poison then { q with moving := false, low := res ≠ .hbm } else { q with moving := false, res := res }
      match p.tier with
      | .lpddr => .next { s.modPage r (put .hbm) with lpddrUsed := s.lpddrUsed - 1 }
      | .hbm =>
        .next { s.modPage r (put (if p.copy then .absent else .lpddr)) with
          hbmUsed := updFirst (fun e => e.1 = p.die) (fun e => (e.1, e.2 - 1)) s.hbmUsed }
      | .peer => .next (s.modPage r (put .hbm))
      | _ => .next (s.modPage r fun q => { q with moving := false })
/-- PAGE_PROMOTION: a page in the LPDDR tier, or at a peer, starts its move to HBM when a die has room. -/
def execPagePromotion (r : PageRef) (s : State) : Out :=
  match s.pageOf r with
  | none => .next s
  | some p =>
    if !(p.tier = .lpddr || p.res = .peer) || p.moving then .next s
    else match ((if p.res = .peer then [] else [p.die]) ++ (List.range 8).filter (· ≠ p.die)).find? fun d => 0 < s.freeHbm d with
      | none => .next s
      | some d =>
        .next ((({ s with hbmUsed := bump d 1 s.hbmUsed }).modPage r fun q => { q with moving := true, die := d }).later 0
          (.pageMoveComplete r))

/-! ### PAGE_EVICTION (R317) -/

/-- Pages on their way out of a die. -/
def State.leaving (s : State) (die : Nat) : Nat :=
  (s.allPages.filter fun x => x.2.die = die && x.2.tier = .hbm && x.2.moving).length
/-- The eviction of a die's HBM has begun, or is due. -/
def State.evictionDue (s : State) : Option Nat :=
  (List.range 8).find? fun d => s.freeHbm d < 1024 && !s.agenda.any fun e => e.instr = .pageEviction d
/-- Room in the LPDDR tier: the oldest class 1 page there becomes ABSENT when an intact host source copy exists, which the
device knows (assumption log 4). -/
def State.lpddrRoom (s : State) : Option State :=
  if s.lpddrUsed < Config.lpddrPages then some s
  else match oldestPage (s.allPages.filter fun x => x.2.tier = .lpddr && !x.2.moving && x.1.evictClass x.2 = some 1) with
    | none => none
    | some x =>
      if s.choose then
        some { s.tick.modPage ⟨x.1.home, x.1.index, x.2.ver, x.2.num⟩ (fun q =>
            { q with res := .absent, source := true, lost := [], low := false }) with
          lpddrUsed := s.lpddrUsed - 1 }
      else none
/-- The tenant for which an eviction makes room: the one whose page was placed last, when it is known (assumption log 84). -/
def State.roomFor (s : State) : Nat := s.rootOf s.lastCharge
/-- PAGE_EVICTION: one page leaves a die's HBM; the next follows until 2,048 pages are free. A page of a tenant within its
guaranteed minimum makes room for that tenant only. -/
def execPageEviction (die : Nat) (s : State) : Out :=
  if 2048 ≤ s.freeHbm die + s.leaving die then .next s
  else
    match s.victimPage (s.allPages.filter fun x => x.2.die = die && x.2.tier = .hbm && !x.2.moving &&
        (!s.guarded x.2 || s.rootOf x.2.charge = s.roomFor)) with
    | none => .next s
    | some x =>
      match s.lpddrRoom with
      | none => .next s.tick
      | some s => .next ((s.startSpill x.1 x.2).later 0 (.pageEviction die))

/-! ### OBJ_MISSING_RESOLVE (R204) -/

/-- The versions of an object that a request reads or writes. -/
def Req.versOf (q : Req) (o : Obj) : List Nat :=
  (if q.home = o.home ∧ q.index = o.index then [o.verOf q.reg] else []) ++
  match q.op with
  | .copyo h i _ w => if h = o.home ∧ i = o.index then [if o.live then 0 else w.toNat] else []
  | _ => []
/-- The requests that wait for a page: those that touch it in a version whose page it is. -/
def State.waitFor (s : State) (r : PageRef) : List Req :=
  s.reqs.filter fun q => q.ahead_ && !(q.phase matches .failed _) && match s.objAt r.home r.index with
    | some o =>
      ((s.touches q).any fun x => x.1 = r.home && x.2.1 = r.index && (pagesOf x.2.2).contains r.page) &&
        (q.versOf o).any fun v => match o.pageAt v r.page with | some p => p.ver = r.ver | none => false
    | none => false
/-- Every page of a tenant is pinned or frozen. -/
def State.allHeld (s : State) (root : Nat) : Bool :=
  s.allPages.all fun x => s.rootOf x.2.charge ≠ root || x.1.evictClass x.2 ≠ some 1
/-- OBJ_MISSING_RESOLVE: the page is in the LPDDR tier in place when its copy lies there (R353), or comes back from another intact copy, or every line of it is lost when none exists (the device
knows which: assumption log 4); a full pool makes it wait, or fault when the tenant has nothing to give up. -/
def execObjMissingResolve (r : PageRef) (s : State) : Out :=
  match s.pageOf r with
  | none => .next s
  | some p =>
    if p.res ≠ .absent then .next s
    else if p.copy then .next (s.modPage r fun q => { q with res := .lpddr, copy := false, stamp := s.stamp })
    else match s.place p.die with
      | none =>
        if s.allHeld (s.rootOf p.charge) then
          .next (((s.waitFor r).foldl (fun s q => s.lateFail q .objMissing) s).mapCores fun c =>
            if c.tmplW = some (r, false) then { c with tmplW := some (r, true) } else c)
        else .next (s.later 0 (.objMissingResolve r))
      | some (res, d) =>
        if p.source || s.choose then .next ((s.tick.takePage res d).modPage r fun q => { q with res := res, die := d, stamp := s.stamp, source := false })
        else .next ((s.tick.takePage res d).modPage r fun q =>
          { q with res := .poison, low := res = .lpddr, die := d, stamp := s.stamp, lost := (List.range 512).map fun k => 512 * p.num + k })

/-! ### Row management (R320) -/

/-- The time an RFM blocks its bank: 350 ns for HBM4E, 280 ns for the LPDDR tier, by the controller's unit number. -/
def rfmTime (ctrl : Nat) : Nat := if 0x380 ≤ ctrl % 4096 ∧ ctrl % 4096 ≤ 0x38B then 280 else 350
def State.bankRows (s : State) (ctrl bank : Nat) : BankRows :=
  (s.rows.find? fun b => b.ctrl = ctrl && b.bank = bank).getD ⟨ctrl, bank, [], [], 0, 0, 0, [], []⟩
def State.setBank (s : State) (b : BankRows) : State :=
  { s with rows := (s.rows.filter fun c => !(c.ctrl = b.ctrl && c.bank = b.bank)) ++ [b] }
/-- The rows at distances 1 and 2 on either side of a row that exist in its bank (assumption log 107). -/
def refreshRows (ctrl row : Nat) : List Nat :=
  [row - 2, row - 1, row + 1, row + 2].eraseDups.filter fun r => r ≠ row && decide (r < Config.bankRows ctrl) &&
    decide (row ≤ r + 2) && decide (r ≤ row + 2)
/-- The RFM for the first waiting alert is issued: it refreshes the rows beside the alerting one and blocks the bank. -/
def State.issueRfm (s : State) (b : BankRows) : State :=
  let t := rfmTime b.ctrl
  (s.setBank { b with blocked := s.ts + t, rfms := b.rfms + 1, refreshed := refreshRows b.ctrl (b.alerts.headD 0) }).after
    (s.cyclesIn t) 0 (.rfmComplete b.ctrl b.bank)
/-- The window of the timestamp. -/
def State.windowNow (s : State) : Nat := s.ts / 32000000
/-- Every counter is 0 from the start of a window on (R320). -/
def State.openWindow (s : State) : State :=
  if s.window = s.windowNow then s
  else { s with window := s.windowNow, rows := s.rows.map fun b => { b with counts := [] } }
/-- One ACT is performed: the row's counter rises; at the threshold the row alerts, its counter is 0, and the RFM for the alert is
issued. -/
def State.activate (s : State) (ctrl bank row : Nat) : State :=
  let b := s.bankRows ctrl bank
  let n := countOf row b.counts + 1
  let rest := b.counts.filter fun e => e.1 ≠ row
  if n < Config.rowThreshold then s.setBank { b with counts := rest ++ [(row, n)] }
  else
    let b' := { b with counts := rest, alerts := b.alerts ++ [row], alerted := b.alerted + 1 }
    if b.alerts = [] then s.issueRfm b' else s.setBank b'
/-- ROW_ACTIVATION: an ACT to a row; to a blocked bank it waits in the controller's queue. -/
def execRowActivation (r : RowRef) (s : State) : Out :=
  let s := s.openWindow
  let b := s.bankRows r.ctrl r.bank
  if b.alerts = [] then .next (s.activate r.ctrl r.bank r.row)
  else .next (s.setBank { b with waiting := b.waiting ++ [r.row] })
/-- The ACTs that waited for a bank, in arrival order, up to one that blocks it again. -/
def State.serveActs (s : State) (ctrl bank : Nat) : List Nat → State
  | [] => s.setBank { s.bankRows ctrl bank with waiting := [] }
  | row :: rest =>
    if (s.bankRows ctrl bank).alerts = [] then (s.activate ctrl bank row).serveActs ctrl bank rest
    else s.setBank { s.bankRows ctrl bank with waiting := row :: rest }
/-- RFM_COMPLETE: the next alert's RFM follows, or the bank serves again. -/
def execRfmComplete (ctrl bank : Nat) (s : State) : Out :=
  let s := s.openWindow
  let b := s.bankRows ctrl bank
  let b := { b with alerts := b.alerts.tail, blocked := 0 }
  if b.alerts = [] then .next ((s.setBank b).serveActs ctrl bank b.waiting) else .next (s.issueRfm b)
/-- ACTIVATION_WINDOW_RESET: every counter returns to 0. -/
def execActivationWindowReset (s : State) : Out :=
  .next { s with window := s.windowNow, rows := s.rows.map fun b => { b with counts := [] } }

end Sys2Proof.Machine
end

