-- ==== Sys2Proof/Machine/Traps.lean ====
section
/-! DEFINITION. TRAP and BRK (R307), late faults (R301), the trap policy (R284, R304, R305), emulation (R306) and service
calls (R314, R315). -/
namespace Sys2Proof.Machine

/-! ### TRAP and BRK (R307) -/

def execTrap (a : Fin 64) (s : State) : Out := syl [.x a.val] (fun c => c.trapW .trapInsn (c.rx a)) s
/-- TARG is the bundle's address. -/
def execBrk (s : State) : Out := syl [] (fun c => c.trapW .break_ (BitVec.ofNat 64 c.iss.addr)) s

/-! ### Late faults (R301, R302) -/

/-- LATE_FAULT: the first recorded late fault of a core stops it at its bundle boundary; later ones stay recorded. An engine
wait's ORPHAN_WAIT leaves the replay buffer empty. -/
def execLateFault (core : Nat) (s : State) : Out :=
  match s.coreAt core with
  | none => .next s
  | some c =>
    match c.late with
    | [] => .next s
    | e :: rest =>
      let s := s.modCoreAt core fun c => { c with late := rest }
      if e.2 = 0 then .next (s.takeLate core .orphanWait none)
      else match s.reqs.find? fun r => r.id = e.2 with
        | some r => (match r.phase with
          | .failed k => .next (s.takeLate core k (some r.replay))
          | _ => .next s)
        | none => .next s

/-! ### The trap policy (R304) -/

/-- Whether the ROOT of a task holds a cause. -/
def State.holds (s : State) (t : Task) (k : Cause) : Bool :=
  match s.plotAt (s.rootOf t.plot) with
  | some r => r.policy.getLsbD (causeCode k) || (r.debug && (k = .break_ || k = .trapInsn))
  | none => false
/-- The KIND 0x02 entry of a trap, with the timestamp of the stop. -/
def State.journalTrap (s : State) (t : Task) (k : Cause) (targ : Word) (at_ : Nat) : State :=
  s.journalAt at_ t.plot 2 1 (causeCode k) noQueue (targ.toNat + t.inst % 2 ^ 32 * 2 ^ 64 + t.ix % 2 ^ 32 * 2 ^ 96)
/-- The faulting member's snapshot is written to a free slot of its save area, if its task's members could all find one (R304,
R310). -/
def State.faultSnapshot (s : State) (c : Core) (t : Task) : State :=
  match s.plotOf c with
  | none => s
  | some p =>
    match (s.slotsFor p (gangSize t.shape)).head?, s.objOf p.save with
    | some k, some o => s.modObj o.home o.index fun o => o.rowWrite k (c.image t (s.operandsOf c))
    | _, _ => s
/-- HOLD: the faulting member is saved with its cause, and every other member of its gang is stopped and saved with it. -/
def State.holdTask (s : State) (c : Core) (t : Task) : State :=
  let s := ((s.raiseCounts c).modCoreAt c.id fun c => { c with run := .draining }).after 0 0 (.snapshotSave c.id)
  ((s.members t.inst).filter fun d => d.id ≠ c.id).foldl (fun s d => s.after 0 0 (.preempt d.id)) s
/-- TRAP_POLICY: the object manager applies the policy of the ROOT to the trap message. -/
def execTrapPolicy (core : Nat) (s : State) : Out :=
  match s.coreAt core with
  | none => .next s
  | some c =>
    match c.run, c.cause, c.task with
    | .trapped, some k, some t =>
      -- a cancellation or termination that has reached the task takes effect, and the fault is discarded (R301)
      if s.endings.any fun e => e.on c then .next s
      else
      let s := s.journalTrap t k c.targ c.stopTs
      if s.holds t k then .next (s.holdTask c t) else .next ((s.faultSnapshot c t).deliver c (causeCode k))
    | _, _, _ => .next s

/-- EMULATION_DONE (R306): the system cores return the result; the replay issues with the emulated slot computed. A routine on T16
operands they first run to its end, with the core stopped (R175). -/
def execEmulationDone (core : Nat) (s : State) : Out :=
  .next (s.modCoreAt core fun c =>
    if c.run = .trapped && c.cause = some .formatEmulate then
      match c.emulatedCall with
      | some n => { c with run := .emulating, cause := none, eng := c.eng.give (.routine n c.mp) }
      | none => c.resumeRun
    else c)

/-! ### Service calls (R314, R315) -/

/-- The binding of a port of a task's ROOT. -/
def State.portBind (s : State) (p : Party) (port : Nat) : Option PortBind :=
  match s.plotAt (s.rootOf p.plot) with
  | some r => (r.ports.find? fun b => b.1 = port).map (·.2)
  | none => none
/-- A message appended to a ring of the host: OK, or BUSY when there is none or it is full. -/
def State.toRing (s : State) (r : Req) (pair : Option Nat) (msg : List Word) (ts : Word) : State :=
  match pair.bind fun n => s.mqWrite n msg r.party.plot r.party.inst ts.toNat with
  | some s => s.status r.id stOK 0
  | none => s.status r.id stBUSY 0
/-- Where a call goes: the object manager, a ring of the host, a service of the system cores, which may or may not reply, or
nowhere. -/
def State.svcRoute (s : State) (r : Req) : State :=
  match r.op with
  | .svc port msg ts =>
    if port = 0 then
      (match (msg.getD 0 0).toNat % 2 ^ 16 with
        | 1 => s.later r.id .svcAllocx
        | 2 => s.later r.id .svcSpill
        | _ => s.status r.id stINVALID 0)
    else if port = 1 then s.toRing r (s.portOne (s.rootOf r.party.plot)) msg ts
    else match s.portBind r.party port with
      | some (.ring n) => s.toRing r (some n) msg ts
      | some (.service n) => if s.choose then s.tick.answer r.id ⟨Config.serviceReply n msg, none⟩
        else s.tick.after (max 1 (r.issued + s.timeout r.party - s.cycle)) r.id .svcTimeout
      | none => s.lateFail r .svcFault
  | _ => s
/-- SVC. -/
def execSvc (port a : Fin 64) (due : Due) (s : State) : Out :=
  sylS ((List.range 8).map fun k => .x (xPlus a k).val) (fun s =>
    if s.core.qBusy due.q || s.yFull then s.held
    else
      let msg := (List.range 8).map fun k => s.core.rx (xPlus a k)
      let r := { s.mkReq (.svc port.val msg (BitVec.ofNat 64 s.ts)) 0 HReg.closed with q := some due.q, home := s.pkg }
      let s := s.modCore fun c => c.nameQ due r.id false none
      let s := { s with reqs := s.reqs ++ [r], nextReq := s.nextReq + 1 }.after (s.timeout r.party) r.id .svcTimeout
      if s.mustWait r then s.again r.id .svcAllocx else s.svcRoute r) s
/-- SVC_ALLOCX (R315): an ALLOC charged to the ROOT. A call that waits for an acquire of its task (R264), or is sent again after a
late fault, is routed first. -/
def execSvcAllocx (s : State) : Out :=
  match s.req with
  | none => .next s
  | some r =>
    match r.op, r.phase with
    | .svc port msg _, .sent =>
      if s.mustWait r then .next (s.again r.id .svcAllocx)
      else
      let w (k : Nat) : Word := msg.getD k 0
      if port = 0 ∧ (w 0).toNat % 2 ^ 16 = 1 then .next (s.allocAt r (w 1) (w 2) (w 3) (w 4) true) else .next (s.svcRoute r)
    | _, _ => .next s
/-- The pages of an object that SPILL moves. -/
def Obj.spillable (o : Obj) (p : Page) : Bool :=
  p.res = .hbm && !p.moving && !o.stuck p && !o.pinnedBy p .retained
/-- SVC_SPILL (R315): the pages of an object the task holds open go to the LPDDR tier. -/
def execSvcSpill (s : State) : Out :=
  match s.req with
  | none => .next s
  | some r =>
    match r.op, r.phase with
    | .svc _ msg _, .sent =>
      let h := msg.getD 1 0
      let held : Bool := match s.taskCore r.party with
        | some c => (List.finRange 16).any fun i => (c.rh i).opened && (c.rh i).handle = h
        | none => false
      (match s.objOf h with
        | some o =>
          if !held then .next (s.status r.id stSTALE 0)
          else
            let ps := (o.pages.filter o.spillable).take (Config.lpddrPages - s.lpddrUsed)
            .next ((ps.foldl (fun s p => s.startSpill o p) s).status r.id stOK 0)
        | none => .next (s.status r.id stSTALE 0))
    | _, _ => .next s
/-- SVC_TIMEOUT (R314): no reply has come within the plot's barrier timeout. -/
def execSvcTimeout (s : State) : Out :=
  match s.req with
  | none => .next s
  | some r =>
    match r.op, r.phase with
    | .svc _ _ _, .sent => .next (s.status r.id stTIMEOUT 0)
    | _, _ => .next s

end Sys2Proof.Machine
end

