-- ==== Sys2Proof/Machine/HostCmd.lean ====
section
/-! DEFINITION. The host commands (R274, R275, R304, R305, R310, R316, R331 to R337), each on the command in the latch. -/
namespace Sys2Proof.Machine

/-! ### Authority, arguments, results (R333, R334) -/

/-- An administrative pair. -/
def State.admin (s : State) (c : Command) : Bool := (s.pair c.pair).root = 0
/-- A pair may act on a plot: any plot for an administrative pair, one of its ROOT's subtree for a tenant pair. -/
def State.mayPlot (s : State) (c : Command) (plot : Nat) : Bool :=
  (s.plotAt plot).isSome && (s.admin c || s.rootOf plot = (s.pair c.pair).root)
/-- The rights of a pair on an object. -/
def State.pairRights (s : State) (c : Command) (o : Obj) : BitVec 7 := if s.admin c then 127 else s.rightsOf o (s.pair c.pair).root
/-- An argument beyond the named bits of A32 and W0 to W4 is not 0, or W5 is not aligned. -/
def badArgs (c : Command) (a w0 w1 w2 w3 w4 : Nat) : Bool :=
  2 ^ a ≤ c.a32.toNat || 2 ^ w0 ≤ c.w0.toNat || 2 ^ w1 ≤ c.w1.toNat || 2 ^ w2 ≤ c.w2.toNat || 2 ^ w3 ≤ c.w3.toNat ||
  2 ^ w4 ≤ c.w4.toNat || c.w5.toNat % 16 ≠ 0
/-- A host write is over. -/
def State.hostDone (s : State) (key : Nat) : State := { s with hostHeld := s.hostHeld.filter fun e => e.key ≠ key }
/-- A command ends: what it was held for is over; its result record, if it has an address for one, then its completion. -/
def State.ends (s : State) (c : Command) (status : Nat) (word : Nat) : State :=
  let s := s.hostDone c.seq
  let s := if c.w5 ≠ 0 ∧ c.w5.toNat % 16 = 0 then s.hostPut c.w5.toNat (toBytes 8 word ++ toBytes 8 0) else s
  s.complete c status
/-- The first refusal that holds ends the command; otherwise it acts. -/
def State.guardCmd (s : State) (c : Command) (ks : List (Bool × Nat)) (f : State → State) : Out :=
  match ks.find? (·.1) with
  | some k => .next (s.ends c k.2 0)
  | none => .next (f s)
/-- A command of a reserved opcode, or with a nonzero reserved field, is refused (R331, R332). -/
def State.refuseCommand (s : State) : State := s.ends s.cmd stINVALID 0

/-! ### Plots (R271 to R275, R284) -/

/-- PLOT_CREATE. -/
def execPlotCreate (s : State) : Out :=
  let c := s.cmd
  let d := BitVec.ofNat 2048 (memRead s.hostMem c.w0.toNat 256)
  let parent := s.plotAt c.plot.toNat
  s.guardCmd c [(badArgs c 0 64 0 0 0 0 || c.w0.toNat % 64 ≠ 0, stINVALID),
    (if c.plot = 0 then !s.admin c else !s.mayPlot c c.plot.toNat, stDENIED), (badDesc d parent false, stINVALID)] fun s =>
    let r := s.createPlot d parent none
    r.1.ends c stOK r.2
/-- PLOT_CLOSE: a GROUP or ROOT is DONE once its children have ended and the host has closed it. -/
def execPlotClose (s : State) : Out :=
  let c := s.cmd
  let kind := match s.plotAt c.plot.toNat with | some p => p.kind | none => 15
  s.guardCmd c [(badArgs c 0 0 0 0 0 0, stINVALID), (!s.mayPlot c c.plot.toNat, stDENIED),
    (kind ≠ kindGroup && kind ≠ kindRoot, stINVALID)] fun s =>
    ((s.modPlot c.plot.toNat fun p => { p with closed := true }).parentCheck 8 c.plot.toNat).ends c stOK 0
/-- The die with the most free cores, the lowest number on a tie. -/
def State.freest (s : State) : Nat :=
  let free (d : Nat) : Nat := ((List.range 48).filter fun k => s.coreFree (d * 48 + k)).length
  (List.range 8).foldl (fun b d => if free b < free d then d else b) 0
/-- The event source number of a pair's queue core (R326, R335). -/
def State.queueSource (s : State) (pair : Nat) : Nat := s.pkg * 2 ^ 15 + pair % 64 / 32 * 2 ^ 12 + 0x340 + pair % 32
/-- TASKSET_SUBMIT. -/
def execTasksetSubmit (s : State) : Out :=
  let c := s.cmd
  let die := c.w1.toNat
  match s.plotAt c.plot.toNat, s.objOf c.w0 with
  | some p, some o =>
    let t := o.template (if o.live then 0 else o.curv)
    let t := if c.a32 = 0 then t else setField t 928 32 c.a32.toNat
    s.guardCmd c [(badArgs c 32 64 4 0 0 0 || (8 ≤ die && die ≠ 15), stINVALID),
      (!s.mayPlot c p.id || !(s.pairRights c o).getLsbD rRead, stDENIED),
      (!o.templateShape || (p.kind ≠ kindRoot && p.kind ≠ kindGroup) || p.state ≠ stActive || field t 0 4 ≠ kindTaskset ||
        badDesc t (some p) false, stINVALID)] fun s =>
      let r := s.createPlot t (some p) none
      (r.1.addCand (if die = 15 then s.freest else die) r.2 (s.queueSource c.pair)).ends c stOK r.2
  | none, _ => s.guardCmd c [(badArgs c 32 64 4 0 0 0, stINVALID), (true, stDENIED)] id
  | _, none => s.guardCmd c [(badArgs c 32 64 4 0 0 0, stINVALID), (!s.mayPlot c c.plot.toNat, stDENIED), (true, stSTALE)] id
/-- POLICY_SET. -/
def execPolicySet (s : State) : Out :=
  let c := s.cmd
  let isRoot : Bool := match s.plotAt c.plot.toNat with | some p => p.kind = kindRoot | none => false
  s.guardCmd c [(badArgs c 0 27 0 0 0 0 || c.w0.getLsbD 0 || c.w0.getLsbD 6, stINVALID), (!s.mayPlot c c.plot.toNat, stDENIED),
    (!isRoot, stINVALID)] fun s =>
    (s.modPlot c.plot.toNat fun p => { p with policy := c.w0.setWidth 27 }).ends c stOK 0
/-- PORT_BIND. -/
def execPortBind (s : State) : Out :=
  let c := s.cmd
  let port := c.a32.toNat
  let isRoot : Bool := match s.plotAt c.plot.toNat with | some p => p.kind = kindRoot | none => false
  let w1 := if c.w0 = 1 then 10 else if c.w0 = 2 then 16 else 0
  s.guardCmd c [(badArgs c 6 2 w1 0 0 0 || port < 2 || c.w0 = 3, stINVALID), (!s.mayPlot c c.plot.toNat, stDENIED),
    (!isRoot, stINVALID)] fun s =>
    let bind : List (Nat × PortBind) :=
      if c.w0 = 1 then [(port, .ring c.w1.toNat)] else if c.w0 = 2 then [(port, .service c.w1.toNat)] else []
    (s.modPlot c.plot.toNat fun p => { p with ports := (p.ports.filter fun b => b.1 ≠ port) ++ bind }).ends c stOK 0
/-- DOMAIN_TERMINATE: the plot and its subtree are terminated. -/
def execDomainTerminate (s : State) : Out :=
  let c := s.cmd
  s.guardCmd c [(badArgs c 0 0 0 0 0 0, stINVALID), (!s.mayPlot c c.plot.toNat, stDENIED)] fun s =>
    let on : Bool := match s.plotAt c.plot.toNat with | some p => decide (p.state ≤ 1) | none => false
    (if on then s.terminate c.plot.toNat 0 else s).ends c stOK 0
/-- DEBUG_ATTACH. -/
def execDebugAttach (s : State) : Out :=
  let c := s.cmd
  let isRoot : Bool := match s.plotAt c.plot.toNat with | some p => p.kind = kindRoot | none => false
  s.guardCmd c [(badArgs c 1 0 0 0 0 0, stINVALID), (!s.mayPlot c c.plot.toNat, stDENIED), (!isRoot, stINVALID)] fun s =>
    (s.modPlot c.plot.toNat fun p => { p with debug := c.a32.getLsbD 0 }).ends c stOK 0
/-- The bytes of the shared pool: the HBM of the package but for the reserved areas, the overflow areas of its synchronisation engines
among them (R316). -/
def State.poolBytes (s : State) : Nat :=
  ((List.range 8).map fun d => Config.pagesPerDie - Config.reservedPages d - countOf d s.overflow).sum * Config.pageBytes
/-- MINHBM_SET: refused when the guaranteed minima would exceed the pool (R316). -/
def execMinhbmSet (s : State) : Out :=
  let c := s.cmd
  let isRoot : Bool := match s.plotAt c.plot.toNat with | some p => p.kind = kindRoot | none => false
  let others := ((s.plots.filter fun p => p.kind = kindRoot && p.id ≠ c.plot.toNat).map (·.minhbm)).sum
  s.guardCmd c [(badArgs c 0 48 0 0 0 0, stINVALID), (!s.admin c || !s.mayPlot c c.plot.toNat, stDENIED),
    (!isRoot || s.poolBytes < others + c.w0.toNat, stINVALID)] fun s =>
    (s.modPlot c.plot.toNat fun p => p.set 448 48 c.w0.toNat).ends c stOK 0

/-! ### Host accesses to object bytes (R317 to R319) -/

/-- A command that must wait is tried again in the next cycle. -/
def State.waitCommand (s : State) (c : Command) (i : Instr) : State := { s with cmdWait := s.cmdWait ++ [c] }.again c.seq i
/-- Whether a host write, known by its key, must be held at some pages of a version: one moves, or what was held there before it
goes first (R238, R318). -/
def State.hostMustHold (s : State) (key : Nat) (o : Obj) (v : Nat) (ns : List Nat) : Bool :=
  let arr := match s.hostHeld.find? fun e => e.key = key with | some e => e.arr | none => 0
  (ns.any fun n => o.movingAt v n) || s.behindHeld 0 arr o.home o.index ns
/-- A host write that is held takes its place in arrival order, once. -/
def State.hostHold (s : State) (key : Nat) (o : Obj) (ns : List Nat) : State :=
  if s.hostHeld.any fun e => e.key = key then s
  else { s with hostHeld := s.hostHeld ++ [⟨s.nextReq, o.home, o.index, ns, key⟩], nextReq := s.nextReq + 1 }
/-- An access from outside the dies to bytes of a version: it stamps their pages, and passes through the slices of the dies whose HBM
holds them (R317, R319). -/
def State.hostTouch (s : State) (o : Obj) (v : Nat) (read : Bool) (bs : List Nat) : State :=
  ((pagesOf bs).foldl (fun s n => s.touchPage o.home o.index v read n) s).mlcTouch true none o.home o.index v bs

/-! ### Held tasks and snapshots (R304, R305, R310) -/

/-- The saved members of an instance of a TASKSET. -/
def State.savedOf (s : State) (plot inst : Nat) : List Saved :=
  s.saved.filter fun v => match v.core.task with | some t => t.plot = plot && t.inst = inst | none => false
/-- TASK_RESUME: a held task may be resumed by the dispatcher, all of its members together. -/
def execTaskResume (s : State) : Out :=
  let c := s.cmd
  let plot := c.plot.toNat
  let mine := s.savedOf plot c.w0.toNat
  s.guardCmd c [(badArgs c 0 32 0 0 0 0, stINVALID), (!s.mayPlot c plot, stDENIED), (mine = [], stSTALE),
    (!mine.any (·.held), stBUSY)] fun s =>
    let free (v : Saved) : Saved := if mine.contains v then { v with held := false } else v
    let s := { s with saved := s.saved.map free }
    let s := match mine.head? with
      | some v => if s.disps.any fun d => d.die = v.die && d.cands.any fun k => k.plot = plot then s.poke v.die
          else s.addCand v.die plot (s.queueSource c.pair)
      | none => s
    s.ends c stOK 0
/-- The snapshot row a command names, and the refusals of SNAP_READ and SNAP_WRITE. The access waits for ABSENT pages of the row, a
write for moving ones too. -/
def State.snapGuard (s : State) (write : Bool) (i : Instr) (f : Obj → Nat → State → State) : Out :=
  let c := s.cmd
  let plot := c.plot.toNat
  let inst := c.w0.toNat % 2 ^ 32
  let v := (s.savedOf plot inst).find? fun v => match v.core.task with | some t => t.member = c.w0.toNat / 2 ^ 32 | none => false
  let row : Option (Obj × Nat) := v.bind fun v => match v.slot, s.saveArea v.core with
    | some k, some o => some (o, k)
    | _, _ => none
  let held : Bool := match v with | some v => v.held | none => false
  let frozen : Bool := match row with | some r => r.1.rowFrozen r.2 | none => false
  s.guardCmd c [(badArgs c 1 35 64 64 64 0 || 921600 < c.w1.toNat + c.w2.toNat, stINVALID), (!s.mayPlot c plot, stDENIED),
    (row.isNone, stSTALE), (write && (!held || frozen), stBUSY)] fun s =>
    match row with
    | some (o, k) =>
      let bs := (List.range c.w2.toNat).map (921600 * k + c.w1.toNat + ·)
      let ns := pagesOf bs
      (match s.missing o (if o.live then 0 else o.curv) ns with
        | some s => s.waitCommand c i
        | none =>
          if write && s.hostMustHold c.seq o 0 ns then (s.hostHold c.seq o ns).waitCommand c i
          else ((f o k s).hostTouch o (if o.live then 0 else o.curv) (!write) bs).ends c stOK 0)
    | none => s
/-- SNAP_READ: bytes of a snapshot row to host memory. -/
def execSnapRead (s : State) : Out :=
  s.snapGuard false .snapRead fun o k s => s.hostPut s.cmd.w3.toNat (toBytes s.cmd.w2.toNat (o.rowRead k s.cmd.w1.toNat s.cmd.w2.toNat))
/-- What a write of bytes from an offset leaves in a snapshot row: of the header's first 64 bytes, the RO bits keep their
value (R7, R311). -/
def Obj.snapBytes (o : Obj) (k off : Nat) (bs : List Byte) : List Byte :=
  ((List.range bs.length).zip bs).map fun e =>
    let a := off + e.1
    if 64 ≤ a then e.2
    else
      let old := BitVec.ofNat 8 (o.rowRead k a 1)
      let rw := BitVec.ofNat 8 (headerRw a)
      (e.2 &&& rw) ||| (old &&& ~~~ rw)
/-- SNAP_WRITE: bytes of a held task's snapshot row from host memory. -/
def execSnapWrite (s : State) : Out :=
  s.snapGuard true .snapWrite fun o k s =>
    s.modObj o.home o.index fun o =>
      o.rowWrite k [(s.cmd.w1.toNat, o.snapBytes k s.cmd.w1.toNat (memBytes s.hostMem s.cmd.w3.toNat s.cmd.w2.toNat))]

/-! ### The journal (R338) -/

/-- JOURNAL_READ: entries from a sequence number on, oldest first. -/
def execJournalRead (s : State) : Out :=
  let c := s.cmd
  let oldest := match s.journal with | e :: _ => e.1 | [] => s.nextSeq
  s.guardCmd c [(badArgs c 0 64 64 0 64 0 || c.plot ≠ 0 || c.w1 = 0 || 65536 < c.w1.toNat || c.w3.toNat % 64 ≠ 0, stINVALID),
    (c.w0.toNat < oldest, stSTALE)] fun s =>
    let es := s.journal.filter fun e => decide (c.w0.toNat ≤ e.1) && decide (e.1 < c.w0.toNat + c.w1.toNat)
    (s.hostPut c.w3.toNat ((es.map fun e => toBytes 64 e.2.toNat).flatten)).ends c stOK es.length

/-! ### Objects (R202, R204, R218, R219, R233, R316, R333, R336) -/

/-- OBJ_CREATE. -/
def execObjCreate (s : State) : Out :=
  let c := s.cmd
  let ownr := c.w4.toNat % 128
  let tenr := c.w4.toNat / 128
  let shared := c.w0.getLsbD 19
  s.guardCmd c [(badArgs c 0 64 64 64 64 14 || (shared && (!s.cxl || !c.w0.getLsbD 17)), stINVALID),
    (!s.mayPlot c c.plot.toNat, stDENIED)] fun s =>
    match s.create c.w0.toNat c.w1.toNat c.w2.toNat c.w3.toNat c.plot.toNat 0 c.plot.toNat ownr tenr none s.cxl with
    | .ok (s, h) => s.ends c stOK h.toNat
    | .error k => s.ends c k 0
/-- OBJ_FREE: the pair needs ADMIN. -/
def execObjFree (s : State) : Out :=
  let c := s.cmd
  let o := s.objOf c.w0
  let may : Bool := match o with | some o => (s.pairRights c o).getLsbD rAdmin | none => true
  s.guardCmd c [(badArgs c 0 64 0 0 0 0 || c.plot ≠ 0, stINVALID), (!may, stDENIED), (o.isNone, stSTALE)] fun s =>
    match o with
    | some o => (s.freeObj o.home o.index).ends c stOK 0
    | none => s

/-- A byte number of a TILED object that no element's byte has (R202). -/
def Obj.padding (o : Obj) (n : Nat) : Bool :=
  o.tiled &&
  let r := o.rank
  let rb := packedBytes o.fmt o.streamLen
  let ct := o.tileCols
  let rt := (o.dim (r - 2) + 31) / 32
  let t := n / 8192
  !(decide (t / ct % rt * 32 + n % 8192 / 256 < o.dim (r - 2)) && decide (t % ct * 256 + n % 256 < rb))
/-- Bytes of a version written by the host, by byte number: bytes beyond the object and padding stay, a poisoned line is expanded as
zeros before the merge, lines wholly written are clean (R324). -/
def Obj.hostPairs (o : Obj) (v : Nat) (bs : List (Nat × Byte)) : Obj :=
  let ps := bs.filter fun p => decide (p.1 < o.size) && !o.padding p.1
  if o.pages.all fun p => p.res ≠ .poison then o.putBytes v ps
  else
    let ls := linesOf (ps.map (·.1))
    let whole := ls.filter fun l => (List.range 128).all fun j => bs.any fun p => p.1 = 128 * l + j
    ((o.expandLost v ls).putBytes v ps).markLines v [] whole
/-- The same for bytes one after the other. -/
def Obj.hostBytes (o : Obj) (v first : Nat) (bs : List Byte) : Obj := o.hostPairs v (((List.range bs.length).map (first + ·)).zip bs)
/-- OBJ_WRITE of a LIVE object. -/
def State.hostWriteLive (s : State) (c : Command) (o : Obj) (bs : List Nat) (data : List Byte) : State :=
  let ns := pagesOf bs
  if (o.grains.any fun g => bs.any fun b => b / 512 = g.g) || ns.any fun n => o.frozen n || o.thawing n then s.ends c stBUSY 0
  else match s.missing o 0 ns with
    | some s => s.waitCommand c .objWrite
    | none =>
      match s.granuleWait (.command c.seq) o bs with
      | some s => s.waitCommand c .objWrite
      | none =>
        if s.hostMustHold c.seq o 0 ns then (s.hostHold c.seq o ns).waitCommand c .objWrite
        else
          let s := s.modObj o.home o.index fun o => o.hostBytes 0 c.w1.toNat data
          ((s.hostTouch o 0 false bs).touchLines o.home o.index bs).ends c stOK 0
/-- A shadow page takes the lost lines of the page it copies, in its own tier. -/
def Obj.inheritLost (o : Obj) (v : Nat) (p : Page) : Page :=
  match o.pageAt v p.num with
  | some q => p.poisonedAs q
  | none => p
/-- OBJ_WRITE of a VERSIONED object: OPEN.W, the bytes and PUBL by one party, with no pending version left. -/
def State.hostPublish (s : State) (c : Command) (o : Obj) (bs : List Nat) (data : List Byte) : State :=
  let v := o.curv + 1
  let ns := pagesOf bs
  if o.pwrt ≠ 0 ∨ ns.any fun n => o.frozen n || o.thawing n then s.ends c stBUSY 0
  else if o.curv = lastVersion then s.ends c stINVALID 0
  else if s.overBudget o.ownp ns.length then s.ends c stQUOTA 0
  else match s.missing o o.curv ns with
    | some s => s.waitCommand c .objWrite
    | none =>
      if s.hostMustHold c.seq o o.curv ns then (s.hostHold c.seq o ns).waitCommand c .objWrite
      else match s.newPages v o.ownp 0 ns with
      | none => s.ends c stNOMEM 0
      | some (s, ps) =>
        let ps := ps.map (o.inheritLost o.curv)
        let old := match o.verAt o.curv with | some x => x.data | none => []
        let s := (s.charge o.ownp ps.length).modObj o.home o.index fun o =>
          let o := { o with pages := o.pages ++ ps, vers := o.vers ++ [Ver.mk v .pending 0 old none] }
          (o.hostBytes v c.w1.toNat data).publish v
        let s := s.hostTouch o v false bs
        ((s.sweepVers o.home o.index).wakeSubs o.home o.index).ends c stOK v
/-- OBJ_WRITE. -/
def execObjWrite (s : State) : Out :=
  let c := s.cmd
  let n := c.w2.toNat
  match s.objOf c.w0 with
  | none => s.guardCmd c [(badArgs c 0 64 64 64 64 0 || c.plot ≠ 0, stINVALID), (true, stSTALE)] id
  | some o =>
    let r := s.pairRights c o
    s.guardCmd c [(badArgs c 0 64 64 64 64 0 || c.plot ≠ 0 || n = 0 || 2 ^ 32 < n, stINVALID),
      (!r.getLsbD rWrite || (!o.live && !r.getLsbD rPublish), stDENIED), (o.size < c.w1.toNat + n, stINVALID)] fun s =>
      let data := memBytes s.hostMem c.w3.toNat n
      let bs := (List.range n).map (c.w1.toNat + ·)
      if o.live then s.hostWriteLive c o bs data else s.hostPublish c o bs data
/-- The byte OBJ_READ copies. -/
def Obj.hostByte (o : Obj) (ctr v n : Nat) : Byte :=
  if o.padding n then 0 else if o.poisoned v n then Config.lostByte ctr n else o.byteOf v n
/-- A version that may be read: CURRENT or RETAINED. -/
def Obj.readable (o : Obj) (v : Nat) : Bool := match o.verAt v with | some x => x.st ≠ .pending | none => false
/-- A version of an object pinned once (R336). -/
def Obj.pinVer (o : Obj) (v : Nat) : Obj :=
  if v = o.curv then (o.modVer v fun x => { x with pins := x.pins + 1 }).setE 832 32 (o.pinc + 1)
  else (o.modVer v fun x => { x with pins := x.pins + 1 }).setE 864 32 (field o.entry 864 32 + 1)
/-- The version that a waiting OBJ_READ has pinned. -/
def State.pinOfCmd (s : State) (c : Command) : Option Nat := (s.cmdPins.find? fun p => p.1 = c.seq).map (·.2.2.2)
/-- OBJ_READ of a VERSIONED object that must wait pins the version it reads, once (R333). -/
def State.pinCmd (s : State) (c : Command) (o : Obj) (v : Nat) : State :=
  if o.live || (s.pinOfCmd c).isSome then s
  else { s.modObj o.home o.index fun o => o.pinVer v with cmdPins := s.cmdPins ++ [(c.seq, o.home, o.index, v)] }
/-- The pin is released once the bytes are in host memory. -/
def State.unpinCmd (s : State) (c : Command) : State :=
  match s.cmdPins.find? fun p => p.1 = c.seq with
  | some p => { s with cmdPins := s.cmdPins.filter fun q => q.1 ≠ c.seq }.unpinVer p.2.1 p.2.2.1 p.2.2.2
  | none => s
/-- OBJ_READ. -/
def execObjRead (s : State) : Out :=
  let c := s.cmd
  let n := c.w2.toNat
  match s.objOf c.w0 with
  | none => s.guardCmd c [(badArgs c 0 64 64 64 64 32 || c.plot ≠ 0, stINVALID), (true, stSTALE)] id
  | some o =>
    let v := match s.pinOfCmd c with
      | some v => v
      | none => if o.live then 0 else if c.w4.toNat = 2 ^ 32 - 1 then o.curv else c.w4.toNat
    s.guardCmd c [(badArgs c 0 64 64 64 64 32 || c.plot ≠ 0 || n = 0 || 2 ^ 32 < n, stINVALID),
      (!(s.pairRights c o).getLsbD rRead, stDENIED), (o.size < c.w1.toNat + n, stINVALID), (!o.readable v, stSTALE)] fun s =>
      let bs := (List.range n).map (c.w1.toNat + ·)
      let ns := pagesOf bs
      match s.missing o v ns with
      | some s => (s.pinCmd c o v).waitCommand c .objRead
      | none =>
        match s.granuleWait (.command c.seq) o bs with
        | some s => (s.pinCmd c o v).waitCommand c .objRead
        | none =>
          let s := (s.hostTouch o v true bs).touchLines o.home o.index bs
          (((s.hostPut c.w3.toNat (bs.map (o.hostByte s.freeCtr v))).tick).unpinCmd c).ends c stOK v

/-- An aperture unmapped: its pin is released. -/
def State.unmap (s : State) (n : Nat) : State :=
  match s.apertures.find? fun a => a.n = n with
  | none => s
  | some a =>
    let s := { s with apertures := s.apertures.filter fun b => b.n ≠ n }
    match s.objOf a.handle with
    | some o => if o.live then s else s.unpinVer o.home o.index a.ver.toNat
    | none => s
/-- APERTURE_SET: a version is pinned before the aperture's old mapping is given up. -/
def execApertureSet (s : State) : Out :=
  let c := s.cmd
  let n := c.a32.toNat
  let w := c.w2.getLsbD 0
  let foreign : Bool := match s.apertures.find? fun a => a.n = n with
    | some a => !s.admin c && a.root ≠ (s.pair c.pair).root
    | none => false
  let bad : Bool := badArgs c 10 64 64 64 0 0 || c.plot ≠ 0 || c.w2.toNat / 2 % 2 ^ 31 ≠ 0
  if c.w0 = 0 then s.guardCmd c [(bad, stINVALID), (foreign, stDENIED)] fun s => (s.unmap n).ends c stOK 0
  else match s.objOf c.w0 with
    | none => s.guardCmd c [(bad, stINVALID), (foreign, stDENIED), (true, stSTALE)] id
    | some o =>
      let r := s.pairRights c o
      let ver := c.w2.toNat / 2 ^ 32
      let v := if o.live then 0 else if ver = 2 ^ 32 - 1 then o.curv else ver
      let full : Bool := !o.live && (if v = o.curv then o.pinc else field o.entry 864 32) = 2 ^ 32 - 1
      s.guardCmd c [(bad || c.w1.toNat % 4096 ≠ 0 || (w && !o.live) || o.hostsh, stINVALID),
        (foreign || !r.getLsbD rRead || (w && !r.getLsbD rWrite), stDENIED), (!o.readable v, stSTALE), (full, stBUSY)] fun s =>
        let s := (if o.live then s else s.modObj o.home o.index fun o => o.pinVer v).unmap n
        let a : Aperture := ⟨n, c.w0, c.w1.toNat, w, BitVec.ofNat 32 v, (s.pair c.pair).root⟩
        { s with apertures := s.apertures ++ [a] }.ends c stOK 0

end Sys2Proof.Machine
end

