-- ==== Sys2Proof/Machine/Links.lean ====
section
/-! DEFINITION. Apertures (R336, R337), host-shared granules (R329), the links between packages (R340 to R342) and the
correction of the timestamp (R327). -/
namespace Sys2Proof.Machine

/-! ### Apertures (R336) -/

def State.aperture (s : State) (n : Nat) : Option Aperture := s.apertures.find? fun a => a.n = n
/-- The object an aperture maps; none when its handle has gone stale. -/
def State.mapped (s : State) (a : Aperture) : Option Obj := s.objOf a.handle
/-- A byte of a mapped object as the host reads it: 0 beyond the object, 0xFF from a poisoned line. -/
def Obj.barByte (o : Obj) (v n : Nat) : Byte :=
  if o.size ≤ n then 0 else if o.poisoned v n then 0xFF else if o.padding n then 0 else o.byteOf v n
/-- HOST_BAR2_READ: a host read of an aperture, or of the registers in BAR0
(assumption log 110). -/
def execHostBar2Read (at_ : HostAddr) (n : Nat) (s : State) : Out :=
  match at_ with
  | .bar0 off => .next { s with answers := s.answers ++ [HostAnswer.mk ((List.range n).map fun k => s.bar0Byte (off + k)) false false] }
  | .bar2 off =>
  match s.aperture (off / 4194304) with
  | none => .next { s with answers := s.answers ++ [⟨[], false, true⟩] }
  | some a =>
    match s.mapped a with
    | none => .next ({ s with answers := s.answers ++ [HostAnswer.mk ((List.range n).map (Config.lostByte s.freeCtr)) false false] }.tick)
    | some o =>
      let v := a.ver.toNat
      let bs := (List.range n).map (a.start + off % 4194304 + ·)
      let mine := bs.filter (· < o.size)
      match s.missing o v (pagesOf mine) with
      | some s => .next (s.again 0 (.hostBar2Read (.bar2 off) n))
      | none =>
        let bad := mine.any (o.poisoned v)
        let s := (s.hostTouch o v true mine).touchLines o.home o.index mine
        .next { s with answers := s.answers ++ [⟨bs.map (o.barByte v), bad, false⟩] }
/-- One discarded write: its aperture's count and an error entry of the host port (R336, R338). -/
def State.discard (s : State) (n : Nat) : State :=
  let root := match s.aperture n with | some a => a.root | none => 0
  let s := if countOf n s.discards + 1 < 2 ^ 64 then { s with discards := bump n 1 s.discards } else s
  s.journalAdd root 4 1 0 noQueue (s.pkg * 2 ^ 15 + 0x3D0 + n * 2 ^ 32)
/-- The number by which a write of BAR2 is known among the held host writes, by its offset; no command and no granule has one as great. -/
def barKey (off : Nat) : Nat := 2 ^ 160 + off
/-- HOST_BAR2_WRITE: performed at the home, or discarded. A write to a page that moves or is absent waits. -/
def execHostBar2Write (off : Nat) (data : List Byte) (s : State) : Out :=
  let n := off / 4194304
  match s.aperture n with
  | none => .next ((s.hostDone (barKey off)).discard n)
  | some a =>
    match s.mapped a with
    | none => .next ((s.hostDone (barKey off)).discard n)
    | some o =>
      let first := a.start + off % 4194304
      let len := min data.length (o.size - first)
      let bs := (List.range len).map (first + ·)
      let ns := pagesOf bs
      if !a.write || !o.live || len = 0 || (o.grains.any fun g => bs.any fun b => b / 512 = g.g) ||
         ns.any fun k => o.frozen k || o.thawing k then .next ((s.hostDone (barKey off)).discard n)
      else match s.missing o 0 ns with
        | some s => .next (s.again 0 (.hostBar2Write off data))
        | none =>
          if s.hostMustHold (barKey off) o 0 ns then .next ((s.hostHold (barKey off) o ns).again 0 (.hostBar2Write off data))
          else
            let s := (s.hostDone (barKey off)).modObj o.home o.index fun o => o.hostBytes 0 first (data.take len)
            let s := (s.hostTouch o 0 false bs).touchLines o.home o.index bs
            .next (if len < data.length then s.discard n else s)

/-! ### Host-shared granules (R328, R329) -/

/-- The least time a granule keeps an owner, in nanoseconds. -/
def tenureNs : Nat := 2000
/-- The lines of a granule leave the device's caches, and held lines of it are written back. -/
def State.dropGranule (s : State) (g : GranuleRef) : State :=
  let keep (f : OFrame) : Bool := !(f.home = g.home && f.index = g.index && f.line / 16384 = g.granule)
  let s := s.mapCores fun c => { c with frames := c.frames.filter keep }
  let s := { s with mlc := s.mlc.filter fun m => !(m.home = g.home && m.index = g.index && m.line / 16384 = g.granule) }
  s.modObj g.home g.index fun o => { o with lines := o.lines.filter fun l => !(l.plain && l.line / 32768 = g.granule) }
/-- The first byte number of a granule. -/
def GranuleRef.first (g : GranuleRef) : Nat := 2097152 * g.granule
/-- A load of the host under its ownership: the bytes as it holds them, dirty or from the home; 0 beyond the object, 0xFF from a
poisoned line. -/
def State.hostLoad (s : State) (g : GranuleRef) (off n : Nat) : HostAnswer :=
  let x := s.granuleAt g
  match s.objAt g.home g.index with
  | none => ⟨[], false, true⟩
  | some o =>
    let bs := (List.range n).map (GranuleRef.first g + off + ·)
    let dirty (b : Nat) : Option Byte := (x.dirty.find? fun c => c.1 = b).map (·.2)
    ⟨bs.map fun b => match dirty b with | some v => v | none => o.barByte 0 b,
     bs.any fun b => (dirty b).isNone && decide (b < o.size) && o.poisoned 0 b, false⟩
/-- The pages of the host's dirty lines of a granule. -/
def Granule.dirtyPages (x : Granule) : List Nat := pagesOf (x.dirty.map (·.1))
/-- The number by which the write-back of a granule is known among the held host writes; no command has one as great. -/
def GranuleRef.key (g : GranuleRef) : Nat := 2 ^ 64 + ((g.home * 2 ^ 32 + g.index) * 2 ^ 32 + g.granule)
/-- The host's dirty lines of a granule are written back at the home. -/
def State.hostWriteBack (s : State) (x : Granule) : State :=
  match s.objAt x.at_.home x.at_.index with
  | none => s
  | some o => ((s.hostDone (GranuleRef.key x.at_)).modObj o.home o.index fun o => o.hostPairs 0 x.dirty).hostTouch o 0 false (x.dirty.map (·.1))
/-- What the write-back of a granule waits for: ABSENT pages, and those that move (R204, R318). -/
def State.writeBackWait (s : State) (x : Granule) : Option State :=
  match s.objAt x.at_.home x.at_.index with
  | none => none
  | some o =>
    match s.missing o 0 x.dirtyPages with
    | some s => some s
    | none => if x.dirty ≠ [] && s.hostMustHold (GranuleRef.key x.at_) o 0 x.dirtyPages then some (s.hostHold (GranuleRef.key x.at_) o x.dirtyPages) else none
/-- Bytes that the host holds dirty, with more of them written, by byte number. -/
def putDirty (m : List Host.Cell) (a : Nat) (bs : List Byte) : List Host.Cell :=
  m.filter (fun c => !(decide (a ≤ c.1) && decide (c.1 < a + bs.length))) ++ ((List.range bs.length).map (a + ·)).zip bs
/-- A host access under the host's ownership; no freeze and no grain keeps it back (assumption log 88). -/
def State.hostAccess (s : State) (g : GranuleRef) : GranuleAccess → State
  | .device _ => s
  | .command _ => s
  | .load off n =>
    let bs := (List.range n).map (GranuleRef.first g + off + ·)
    let s := match s.objAt g.home g.index with
      | some o => s.hostTouch o 0 true (bs.filter fun b => decide (b < o.size) && !(s.granuleAt g).dirty.any fun c => c.1 = b)
      | none => s
    { s with answers := s.answers ++ [s.hostLoad g off n] }
  | .store off data =>
    let x := s.granuleAt g
    s.setGranule { x with dirty := putDirty x.dirty (GranuleRef.first g + off) data }
/-- An ownership transfer starts, once the owner has had its tenure. -/
def State.startTransfer (s : State) (g : GranuleRef) : State :=
  let x := s.granuleAt g
  if x.since ≠ 0 ∧ s.ts < x.since + tenureNs then s.after (s.cyclesIn (x.since + tenureNs - s.ts) + 1) 0 (.granuleTenureExpiry g)
  else
    let s := s.setGranule { x with moving := true }
    (if x.accel then s.dropGranule g else s).later 0 (.granuleTransferDone g)
/-- The accesses held at a granule are served in arrival order, up to one by the non-owner, which starts the reverse transfer. -/
def State.serveGranule (s : State) (g : GranuleRef) : List GranuleAccess → State
  | [] => s.setGranule { s.granuleAt g with queue := [] }
  | a :: rest =>
    if GranuleAccess.host a ≠ (s.granuleAt g).accel then (s.hostAccess g a).serveGranule g rest
    else (s.setGranule { s.granuleAt g with queue := a :: rest }).startTransfer g
/-- GRANULE_TRANSFER: an access to a granule. The owner's is performed; the non-owner's is held and starts the transfer; while a transfer
runs every access is held. -/
def execGranuleTransfer (g : GranuleRef) (a : GranuleAccess) (s : State) : Out :=
  let x := s.granuleAt g
  let shared : Bool := match s.objAt g.home g.index with | some o => o.valid && o.hostsh | none => false
  if !s.cxl || !shared then .next s
  else if x.queue.contains a && !GranuleAccess.host a then .next s
  else if x.moving then .next (s.setGranule { x with queue := x.queue ++ [a] })
  else if GranuleAccess.host a ≠ x.accel then .next (s.hostAccess g a)
  else .next ((s.setGranule { x with queue := x.queue ++ [a] }).startTransfer g)
/-- GRANULE_TRANSFER_DONE: the owner changes, with the host's dirty lines written back first when it was the host; then the accesses
held meanwhile are served. -/
def execGranuleTransferDone (g : GranuleRef) (s : State) : Out :=
  let x := s.granuleAt g
  if !x.moving then .next s
  else match if x.accel then none else s.writeBackWait x with
  | some s => .next (s.again 0 (.granuleTransferDone g))
  | none =>
    let s := if x.accel then s else s.hostWriteBack x
    let y : Granule := { x with accel := !x.accel, since := s.ts, moving := false, dirty := [] }
    .next ((s.setGranule y).serveGranule g x.queue)
/-- GRANULE_TENURE_EXPIRY: a held access may start the transfer. -/
def execGranuleTenureExpiry (g : GranuleRef) (s : State) : Out :=
  let x := s.granuleAt g
  if x.moving || x.queue = [] then .next s else .next (s.serveGranule g x.queue)

/-! ### Links (R340 to R342) -/

/-- A synchronising request of another package's party. -/
def State.foreign (s : State) (op : AtomOp) (ord : Ord) (scope : Scope) (handle : Word) (n : Nat) (x cmp : Word) (who : Party)
    (req : Nat) : State :=
  let h : HReg := ⟨handle, true, true, 127, 0, none⟩
  let r := { s.mkReq (.atom op ord x cmp) 0 h with party := who, core := 0, scope := scope, n := n, bundle := req }
  s.send r .syncAccessPerform
/-- A participant of another package joins a collective. -/
def State.foreignJoin (s : State) (src home index : Nat) (origin : List Nat) (kind : CollKind) (data : List Byte)
    (marks : List Bool) : State :=
  match s.objAt home index with
  | none => s
  | some o =>
    let j : Joined := ⟨o.peerRank src, 0, data, marks⟩
    let mine (k : Coll) : Bool := k.home = home && k.index = index && k.origin = origin && k.kind = kind
    match s.colls.find? mine with
    | some k =>
      let s := s.modColl k.id fun (k : Coll) => { k with joined := k.joined ++ [j] }
      if k.joined.length + 1 = o.shn then s.later k.id .collComplete else s
    | none => { s with nextReq := s.nextReq + 1, colls := s.colls ++ [Coll.mk s.nextReq home index origin kind [j]] }
/-- A peer reads lines of a version (R237, R325): the home sets the peer's bits for the FROZEN pages before the data leaves, and sends
the lines, compressed where the peer has advertised the format. A read of an ABSENT page waits in arrival order, and `seq` names it
(R204, R353). -/
def State.peerRead (s : State) (src seq : Nat) (handle : Word) (ver : BitVec 32) (lines : List Nat) : State :=
  let mine (h : HeldRead) : Bool := h.src = src && h.seq = seq
  let served (s : State) : State := { s with heldReads := s.heldReads.filter fun h => !mine h }
  match s.objOf handle with
  | none => served s
  | some o =>
    let v := if o.live then 0 else ver.toNat
    let format : Bool := s.peers.any fun p => p.pkg = src && p.lines
    let ns := (lines.map (· / 512)).eraseDups
    let arr := match s.heldReads.find? mine with | some h => h.arr | none => 0
    match (s.missing o v ns).orElse fun _ => if s.behindAbsent 0 arr o.home o.index ns then some s else none with
    | some s =>
      let s := if arr ≠ 0 then s
        else { s with heldReads := s.heldReads ++ [⟨src, seq, o.home, o.index, v, ns, s.nextReq⟩], nextReq := s.nextReq + 1 }
      s.again 0 (.linkMessageReceive src seq (.read handle ver lines))
    | none =>
      let bs := (lines.map fun l => (List.range 128).map (128 * l + ·)).flatten
      let s := (served s).hostTouch o v true bs
      (ns.filter fun n => (o.pageAt v n).isSome).foldl (fun s n => (s.formCasts o v [n] (s.placeOf src)).sendPeer src
        (.lines ⟨o.home, o.index, v, n⟩ ((lines.filter fun l => l / 512 = n).map fun l => o.sentLine v l format))) s
/-- Lines that a peer sent of a page that it holds: those that expand are the page's bytes; one whose image fails to expand is delivered
poisoned to the requests that it serves, and changes no other byte (R204, R325). -/
def State.linesCame (s : State) (r : PageRef) (ls : List SentLine) : State :=
  match s.objAt r.home r.index with
  | none => s
  | some o =>
    let there : Bool := match o.pageAt r.ver r.page with | some p => p.res = .peer | none => false
    if !there then s
    else
      let good := (ls.filterMap fun l => (expandLine l.tag l.image).map fun bs => (List.range 128).map (128 * l.line + ·) |>.zip bs).flatten
      let bad := (ls.filter fun l => (expandLine l.tag l.image).isNone).map (·.line)
      let o1 := o.putBytes r.ver good
      let o2 := o1.markLines r.ver bad []
      let s := s.modObj r.home r.index fun _ => o1
      let serve (q : Req) : Req := match q.phase with
        | .filling _ _ =>
          if q.home = r.home && q.index = r.index && o.verOf q.reg = r.ver && (pagesOf (q.bytes o)).contains r.page then
            let d := q.readTile o2 r.ver
            { q with phase := .filling d.1 d.2 }
          else q
        | _ => q
      { s with reqs := s.reqs.map serve }
/-- What a message does. -/
def State.receive (s : State) (src seq : Nat) : LinkBody → State
  | .atom op ord scope h n x cmp pkg die inst mem plot req => s.foreign op ord scope h n x cmp ⟨pkg, die, inst, mem, plot⟩ req
  | .reply req w => (match s.reqs.find? fun r => r.id = req with
    | some r => (match r.phase with
      | .sent => s.answer req ⟨w, none⟩
      | _ => s)
    | none => s)
  | .collJoin home index origin kind data marks => s.foreignJoin src home index origin kind data marks
  | .hello b => s.modPeer src fun p => { p with lines := b }
  | .read h ver ls => s.peerRead src seq h ver ls
  | .lines r ls => s.linesCame r ls
  | .castAck p place => s.packageAck src p place
  | .invalidate p => s.after 0 0 (.castInvalidate p .here)
  | .ack n => s.modPeer src fun p => { p with unacked := p.unacked.filter fun m => m.seq ≠ n }
/-- An acknowledgement is not itself a numbered message. -/
def isAck : LinkBody → Bool
  | .ack _ => true
  | _ => false
/-- A message that has not been performed yet and may be now: in its rack the next one of its channel, numbers of other channels
between them; across racks the next one of its sender (R340, R341). -/
def State.inOrder (s : State) (p : Peer) (seq : Nat) (body : LinkBody) : Bool :=
  let n := p.recvd.get (s.chanOf p.pkg body)
  if s.sameRack p.pkg then decide (n ≤ seq) else seq = n
/-- LINK_MESSAGE_RECEIVE: a message is performed once, in the order of its channel or of its sender, and acknowledged; one that has been
performed before is acknowledged again, one that comes too early is dropped and comes again. A read that waits here is looked at
again. Nothing comes when no port runs (R343). -/
def execLinkMessageReceive (src seq : Nat) (body : LinkBody) (s : State) : Out :=
  if s.portTo src = none then .next s
  else
    let s := s.meet src
    match s.peers.find? fun p => p.pkg = src with
    | none => .next s
    | some p =>
      let c := s.chanOf src body
      if isAck body then .next ((s.modPeer src fun p => { p with lost := false }).receive src seq body)
      else if s.heldReads.any fun h => h.src = src && h.seq = seq then .next (s.receive src seq body)
      else if s.inOrder p seq body then
        .next (((s.modPeer src fun p => { p with recvd := setAt p.recvd c (seq + 1), lost := false }).putPacket src seq (.ack seq)).receive src seq
          body)
      else if seq < p.recvd.get c then .next (s.putPacket src seq (.ack seq))
      else .next s
/-- The time without acknowledgement after which a peer is unreachable (R342). -/
def unreachableNs : Nat := 1000000
/-- LINK_RETRANSMIT: a message that is not acknowledged is sent again, and once more after 8,000 ns; a peer that has not been reached for
1,000,000 ns is unreachable (R341, R342). -/
def execLinkRetransmit (dst seq : Nat) (s : State) : Out :=
  match s.peers.find? fun p => p.pkg = dst with
  | none => .next s
  | some p =>
    match p.unacked.find? fun m => m.seq = seq with
    | none => .next s
    | some m =>
      let s := (s.putPacket dst seq m.body).after (s.cyclesIn 8000) 0 (.linkRetransmit dst seq)
      .next (if !p.lost && decide (m.since + unreachableNs ≤ s.ts) then s.later 0 (.peerUnreachable dst) else s)
/-- The pages that lie at a package which cannot be reached. -/
def Obj.losePeer (o : Obj) (pkg : Nat) : Obj :=
  { o with pages := o.pages.map fun p => if p.res = .peer && p.die = pkg then { p with res := .absent } else p }
/-- PEER_UNREACHABLE: pages there are to be resolved; synchronising accesses there wait (R342). -/
def execPeerUnreachable (pkg : Nat) (s : State) : Out :=
  .next { s.modPeer pkg (fun p => { p with lost := true }) with objs := s.objs.map fun o => o.losePeer pkg }

/-! ### The timestamp (R327) -/

/-- TIMESTAMP_CORRECTION: the count is slewed, by at most 100 parts per million. -/
def execTimestampCorrection (ppm : Int) (s : State) : Out := .next { s with slew := max (-100) (min 100 ppm), slewAcc := 0 }

end Sys2Proof.Machine
end

