-- ==== Sys2Proof/Machine/BringUp.lean ====
section
/-! DEFINITION. Errors, sparing and fencing (R343, R344), power-on, the fallow state and reset (R345, R346), firmware and
attestation (R347), power and management (R348, R349). -/
namespace Sys2Proof.Machine

/-! ### Errors (R343, R344) -/

/-- A KIND 0x04 entry: the event source number, then the resource index (R338). -/
def State.journalError (s : State) (plot cause source index : Nat) : State :=
  s.journalAdd plot 4 1 cause noQueue (source % 2 ^ 32 + index * 2 ^ 32)
/-- The event source number of a link port (R326): Swigal ports 0 to 17, nine on each I/O die, then the two Ethernet ports
(assumption log 115). -/
def State.portSource (s : State) (port : Nat) : Nat :=
  if port < 18 then s.pkg * 2 ^ 15 + port / 9 * 2 ^ 12 + 0x3A0 + port % 9 else s.pkg * 2 ^ 15 + (port - 18) * 2 ^ 12 + 0x3C0
/-- The source number and the index that name a resource. -/
def State.resourceName (s : State) : Resource → Nat × Nat
  | .sramRow u b r => (u, b * 2 ^ 32 + r)
  | .dramRow u b r _ => (u, b * 2 ^ 32 + r)
  | .lane p l => (s.portSource p, l)
  | .coreUnit c => (s.source c, 0)
/-- The resources that the package has: lanes of 18 Swigal and 2 Ethernet ports of 16 lanes, 384 cores (R1, R340). -/
def Resource.exists_ : Resource → Bool
  | .lane p l => p < 20 && l < 16
  | .coreUnit c => c < 384
  | _ => true
/-- The window of corrected errors, in nanoseconds. -/
def errorWindow : Nat := 86400000000000
/-- Two resources are rows of one bank. -/
def sameBank : Resource → Resource → Bool
  | .sramRow u b _, .sramRow v c _ => u = v && b = c
  | .dramRow u b _ _, .dramRow v c _ _ => u = v && b = c
  | _, _ => false
/-- The same row, lane or core; where a row's page lay is no part of its name. -/
def sameResource : Resource → Resource → Bool
  | .sramRow u b r, .sramRow v c q => u = v && b = c && r = q
  | .dramRow u b r _, .dramRow v c q _ => u = v && b = c && r = q
  | .lane p l, .lane q m => p = q && l = m
  | .coreUnit c, .coreUnit d => c = d
  | _, _ => false
/-- The spare rows used in a resource's bank. -/
def State.sparesUsed (s : State) (r : Resource) : Nat := ((s.errors.filter fun e => sameBank e.res r).map (·.spares)).sum
/-- A core fenced from dispatch; a running task is pre-empted. -/
def State.fence (s : State) (core : Nat) : State :=
  let s := if s.fenced.contains core then s else { s with fenced := s.fenced ++ [core] }
  match s.coreAt core with
  | some c => (match c.task with
    | some t => (s.members t.inst).foldl (fun s d => s.after 0 0 (.preempt d.id)) s
    | none => s)
  | none => s
/-- A 64 KiB range of a memory controller goes out of use: its place counts as taken for good. -/
def State.takeRange (s : State) (ctrl : Nat) : State :=
  if 0x380 ≤ ctrl % 4096 ∧ ctrl % 4096 ≤ 0x38B then { s with lpddrUsed := s.lpddrUsed + 1 }
  else { s with hbmUsed := bump (ctrl / 4096 % 8) 1 s.hbmUsed }
/-- The page that lies in a range now, in a tier of this package. -/
def State.liesThere (s : State) (p : PageRef) : Option Page :=
  match s.pageOf p with
  | some q => (match q.tier with | .hbm => some q | .lpddr => some q | _ => none)
  | none => none
/-- A range may be retired: no page lies there, or one that does not move and finds another place. -/
def State.mayRetire (s : State) (p : PageRef) : Bool :=
  match s.liesThere p with
  | none => true
  | some q => !q.moving && (s.place q.die).isSome
/-- The page of a 64 KiB range that is retired moves off, and the range stays out of use; until the page can move it waits. -/
def State.retireRange (s : State) (ctrl : Nat) (p : PageRef) : State :=
  match s.liesThere p with
  | none => s.takeRange ctrl
  | some q =>
    match if q.moving then none else s.place q.die with
    | some (res, d) => ((s.takePage res d).mlcDrop p.home p.index p.ver p.page).modPage p fun q =>
        { q with res := if q.res = .poison then .poison else res, low := q.res = .poison && res = .lpddr, die := d }
    | none => { s with retiring := s.retiring ++ [(ctrl, p)] }
/-- A range that waited is retired. -/
def State.retireNow (s : State) (e : Nat × PageRef) : State := { s with retiring := s.retiring.erase e }.retireRange e.1 e.2
/-- A way of a die's memory-side cache slice is fenced: what its sets hold beyond the ways left goes, least recently used first. -/
def State.fenceMlc (s : State) (die : Nat) : State :=
  let s := { s with ways := bump die 1 s.ways }
  let later (m : MlcLine) : Nat := (s.mlc.filter fun k =>
    k.die = die && mlcSet k.index k.line = mlcSet m.index m.line && decide (m.used < k.used)).length
  { s with mlc := s.mlc.filter fun m => m.die ≠ die || decide (later m < s.mlcWays die) }
/-- A way of a die's synchronisation engine is fenced: the lines beyond the entries left are displaced, least recently used first. -/
def State.fenceSync (s : State) (die : Nat) : State :=
  let s := { s with ways := bump (8 + die) 1 s.ways }
  let inside := (s.engineLines die).filter fun x => !x.2.out
  let leave := ((inside.filter fun x => !s.lineStays x.1 x.2).mergeSort fun a b => decide (a.2.used ≤ b.2.used)).take
    (inside.length - s.syncEntries die)
  leave.foldl (fun s x => s.displace die x.1 x.2) s
def State.modError (s : State) (r : Resource) (f : ErrCount → ErrCount) : State :=
  { s with errors := updFirst (fun e => sameResource e.res r) f s.errors }
/-- A lasting fault. -/
def State.lasting (s : State) (r : Resource) : State :=
  match r with
  | .sramRow u _ _ =>
    if s.sparesUsed r < 2 then s.modError r fun e => { e with times := [], spares := e.spares + 1 }
    else
      let s := s.modError r fun e => { e with times := [], gone := true }
      if u % 4096 < 0x180 then s.fence (u % 4096)
      else if u % 4096 = 0x220 then s.fenceMlc (u / 4096 % 8)
      else if u % 4096 = 0x200 then s.fenceSync (u / 4096 % 8)
      else s
  | .dramRow u _ _ p =>
    if s.sparesUsed r < 8 then s.modError r fun e => { e with times := [], spares := e.spares + 1 }
    else (s.modError r fun e => { e with times := [], gone := true }).retireRange u p
  | .lane _ _ => s.modError r fun e => { e with times := [], gone := true }
  | .coreUnit c => (s.modError r fun e => { e with times := [], gone := true }).fence c
/-- CORRECTED_ERROR: the third one of a resource within the window makes the fault lasting. -/
def execCorrectedError (r : Resource) (s : State) : Out :=
  if Resource.exists_ r = false then .next s
  else
  let n := s.resourceName r
  let s := s.journalError 0 0 n.1 n.2
  let s := if s.errors.any fun e => sameResource e.res r then s else { s with errors := s.errors ++ [⟨r, [], 0, false⟩] }
  let now := s.ts
  let s := s.modError r fun e => { e with times := e.times.filter (fun t => decide (now < t + errorWindow)) ++ [now] }
  match s.errors.find? fun e => sameResource e.res r with
  | some e => if 3 ≤ e.times.length ∧ e.gone = false then .next (s.lasting r) else .next s
  | none => .next s
/-- The compute dies, the memories and everything in them go off (R345). -/
def State.powerDown (s : State) (reason unit test : Nat) : State :=
  let off (c : Core) : Core := Core.reset c.id
  { s.mapCores off with power := .fallow, reason := reason, unit := unit, test := test, reqs := [], colls := [], objs := [], heldReads := [], endings := [], retiring := [],
                        hbmUsed := [], lpddrUsed := 0, localCasts := [], saved := [], granules := [], apertures := [], agenda := [],
                        cmdWait := [], hostHeld := [], cmdPins := [], told := [], overflow := [], mlc := [], rows := [],
                        disps := (List.range 8).map fun d => ⟨d, [], [], [], 0, 0⟩ }
/-- UNCORRECTABLE_ERROR, by where it lies (R344). Whether a line has an intact copy the device knows (assumption log 4). -/
def execUncorrectableError (p : ErrorPlace) (s : State) : Out :=
  match p with
  | .line r line =>
    if s.choose then .next s.tick
    else .next (s.tick.modPage r fun q => q.mark [line] [])
  | .scratch core line => .next (s.modCoreAt core fun c => { c with marks := setMark c.marks line true })
  | .coreRegs core =>
    let s := s.fence core
    match s.coreAt core with
    | some c => .next (s.deliver c (causeCode .poison))
    | none => .next s
  | .cleanCache => .next s
  | .dirtyTenant root => .next (s.terminate root (causeCode .poison))
  | .dirtyKernel io core =>
    let s := ((s.plots.filter fun q => q.kind = kindRoot && decide (q.state ≤ 1)).map (·.id)).foldl
      (fun s r => s.terminate r (causeCode .poison)) s
    .next (s.powerDown 4 (s.pkg * 2 ^ 15 + io % 2 * 2 ^ 12 + 0x300 + core % 4) 0)

/-! ### Power-on, the fallow state, reset (R345, R346) -/

/-- An image is signed with one of the three parameter sets, and its signature verifies (R347). -/
def FwImage.good (f : FwImage) : Bool := (match f.set with | .other _ => false | _ => true) && Config.signatureOk f
/-- What keeps compute from starting: an image that does not verify, or a failed self-test (R345, R347). -/
def State.bootFailure (s : State) : Option (Nat × Nat × Nat) :=
  let t := Config.selfTest s.freeCtr
  if s.firmware.any fun f => !FwImage.good f then some (1, s.pkg * 2 ^ 15 + 0x3E0, 0)
  else if t.1 ≠ 0 then some (2, t.2.2, t.2.1)
  else none
/-- The compute cores of the package: 384, in order (R1, R15). -/
def coreIds : List Nat := List.range 384
/-- POWER_ON: compute starts, or the package enters the fallow state. The host port's mode is a strap. -/
def execPowerOn (s : State) : Out :=
  if s.power ≠ .starting then .next s
  else match s.bootFailure with
    | some f => .next (s.tick.powerDown f.1 f.2.1 f.2.2)
    | none =>
      let s := { s.tick with power := .running, reason := 0, unit := 0, test := 0, cxl := Config.cxlStrap,
                             core := Core.reset 0, behind := [], ahead := (coreIds.drop 1).map Core.reset }
      .next ((s.peers.map (·.pkg)).foldl (fun s k => s.sendPeer k (.hello true)) (s.journalAdd 0 5 1 0 noQueue 0))
/-- RESET: every state that does not outlast a reset is at its reset value; staged firmware takes effect (R349), host
administration is off (R334), the timestamp runs on (R327). -/
def execReset (s : State) : Out :=
  .next { State.reset with cycle := s.cycle, ts := s.ts, tsPhase := s.tsPhase, freeCtr := s.freeCtr, pkg := s.pkg,
                           inbox := s.inbox, agenda := [⟨s.cycle, 0, .powerOn⟩], hostMem := s.hostMem,
                           window := s.window, token := s.token,
                           peers := s.peers.map fun p => ⟨p.pkg, 0, [], Vector.replicate 5 0, false, false⟩,
                           firmware := s.staged.getD s.firmware }
/-- THERMAL_THROTTLE: a die at 105 degrees runs slower; no result changes (R348). -/
def execThermalThrottle (die : Nat) (s : State) : Out :=
  .next { s with throttled := if s.throttled.contains die then s.throttled else s.throttled ++ [die] }
/-- THERMAL_TRIP: a die at 115 degrees trips the package into the fallow state with REASON 3; UNIT names the die by its
dispatcher (assumption log 89). -/
def execThermalTrip (die : Nat) (s : State) : Out := .next (s.powerDown 3 (s.pkg * 2 ^ 15 + die % 8 * 2 ^ 12 + 0x210) 0)

/-! ### Management (R334, R347 to R349) -/

/-- POWER_CAP_SET: a cap from 1,200 W to 3,400 W; any other is not accepted. -/
def execPowerCapSet (watts : Nat) (s : State) : Out :=
  .next (if 1200 ≤ watts ∧ watts ≤ 3400 then { s with powerCap := watts } else s)
/-- HOST_ADMIN_PERMIT. -/
def execHostAdminPermit (on : Bool) (s : State) : Out := .next { s with adminOk := on }
/-- FIRMWARE_UPDATE: takes effect at the next reset. -/
def execFirmwareUpdate (image : List FwImage) (s : State) : Out := .next { s with staged := some image }
/-- ATTESTATION_REPORT: the nonce, the measurement of each running image and the identity, signed with the identity key. -/
def execAttestationReport (nonce : BitVec 256) (s : State) : Out :=
  let body := toBytes 32 nonce.toNat ++ (s.firmware.map fun f => sha256 f.bytes).flatten ++ Config.identity
  .next { s with reports := s.reports ++ [body ++ Config.signature body] }

end Sys2Proof.Machine
end

