-- ==== Sys2Proof/Machine/Matrix.lean ====
section
/-! DEFINITION. The M slot (R175 to R181): MCALL, MLOAD, MABORT, MSWAP, MACRD, MACWR, MACCLR, MPSET, MPGET, MSTAT. -/
namespace Sys2Proof.Machine

/-! ### Engine work (R175, R178, R181) -/

/-- The captured parameters: mp0 to mp6. -/
def Core.geo (c : Core) : Geo := ⟨c.mp⟩
/-- MCALL n. When its bundle is reissued after FORMAT_EMULATE, the system cores have run the routine, and MCALL is performed whatever
fault the routine left; captured values that R175's last check refuses were not run, and trap then (R302, R306; assumption log 6). -/
def execMcall (n : Fin 256) (s : State) : Out :=
  syl [] (fun c =>
    if !c.iss.emul && (c.eng.fault || c.eng.pending.isSome) then c.trap .microFault
    else match c.geo.cause c.iss.emul with
      | some k => c.trap k
      | none => if c.iss.emul then c else c.modE fun e => e.give (.routine n c.mp)) s
/-- MLOAD fN, xA. FURROW_CONFIG comes before MICRO_FAULT (DESIGN CHOICE, assumption log 99). -/
def execMload (f : Fin 32) (a : Fin 64) (s : State) : Out :=
  syl [.x a.val] (fun c =>
    let r := c.rf f
    let n := r.slotsz / 16
    if !r.init then c.trap .furrowConfig
    else if c.eng.fault || c.eng.pending.isSome || !r.mayConsume endM || 2048 < r.slotsz || 4096 < (c.rx a).toNat + n then
      c.trap .microFault
    else (c.modF f fun r => { r with cons := endM }).modE fun e =>
      { e.give (.load f (c.rx a).toNat n 0) with loaded := true }) s
/-- MABORT: at the end of its cycle all work is discarded, FAULT clear and DONE set. -/
def execMabort (s : State) : Out := syl [] (fun c => c.fx .mabort) s
/-- MSWAP: held until the engine is quiescent; the banks exchange roles. -/
def execMswap (s : State) : Out :=
  syl [] (fun c =>
    let e := c.eng
    if e.active.isSome || e.pending.isSome then c.hold
    else if e.fault then c.trap .microFault
    else c.modE fun e => { e with work := e.vis, vis := e.work }) s

/-! ### Moves between the visible bank and vector registers (R179) -/

def mp7Fmt (w : Word) : Fmt := BitVec.ofNat 5 w.toNat
def mp7Scale (w : Word) : BitVec 8 := BitVec.ofNat 8 (w.toNat / 2 ^ 5)
def mp7Sel (w : Word) : Bool := w.getLsbD 13
def mp7Acc (w : Word) : Fmt := BitVec.ofNat 5 (w.toNat / 2 ^ 14)
/-- The first row and the number of rows that a move covers, for elements of w bytes. -/
def Bank.moved (b : Bank) (sel : Bool) (row w : Nat) : Nat × Nat :=
  if sel then (row / 4 * 4, 4)
  else if b.fmt = .f64 then (row % 128, 1)
  else if w = 8 then (row, 1)
  else (row / 2 * 2, 2)
/-- Whether any of some rows is poisoned. -/
def Bank.badRows (b : Bank) (r : Nat × Nat) : Bool := (List.range r.2).any fun k => b.poison.getLsbD (r.1 + k)
/-- The format N16. -/
def fmtN16 : Fmt := 4
/-- MACRD.rm vD, row. -/
def execMacrd (rm : Rm) (d : Fin 32) (row : Fin 256) (s : State) : Out :=
  syl [.mp 7] (fun c =>
    let b := c.eng.vis
    let m := c.rmp 7
    let f := mp7Fmt m
    let k := fmtKind f
    if mp7Sel m then
      let r := b.moved true row.val 2
      let el (e : Nat) : Nat := (sparseGet (0 : BitVec 16) b.index (64 * r.1 + e)).toNat
      c.wv (c.lat 4) d ⟨mkImage 2 256 el, ⟨fmtN16, 0, b.badRows r⟩⟩
    else match fmtCause (isReserved f) (f = fmtRaw || f = fmtPoison || (!k.scaled && mp7Scale m ≠ 0)) (k = .flt .t16 && !c.iss.emul) with
      | some x => c.trap x
      | none =>
        let r := b.moved false row.val k.bytes
        let el (e : Nat) : Nat :=
          if e < 64 * r.2 then convertVal k rm (mp7Scale m).toInt (valOf b.fmt.kind 0 (b.cell (r.1 + e / 64) (e % 64))) else 0
        c.wv (c.lat 4) d ⟨mkImage k.bytes (elems k.bytes) el, ⟨f, mp7Scale m, b.badRows r⟩⟩) s
/-- The rows that a move writes take the register's poison bit. -/
def Bank.markRows (b : Bank) (r : Nat × Nat) (bad : Bool) : Bank :=
  { b with poison := (List.range r.2).foldl (fun (p : BitVec 256) k =>
      if bad then p ||| (1#256 <<< (r.1 + k)) else p &&& ~~~(1#256 <<< (r.1 + k))) b.poison }
/-- The visible bank with elements of a register written. -/
def Bank.takeElems (b : Bank) (r : Nat × Nat) (n : Nat) (el : Nat → Nat) : Bank :=
  (List.range n).foldl (fun b e => { b with vals := sparseSet 0 b.vals (64 * r.1 + e) (BitVec.ofNat 64 (el e)) }) b
def Bank.takeIndex (b : Bank) (r : Nat × Nat) (el : Nat → Nat) : Bank :=
  (List.range 256).foldl (fun b e => { b with index := sparseSet 0 b.index (64 * r.1 + e) (BitVec.ofNat 16 (el e)) }) b
/-- MACWR.rm row, vA. -/
def execMacwr (rm : Rm) (a : Fin 32) (row : Fin 256) (s : State) : Out :=
  syl [.v a.val, .mp 7] (fun c =>
    let v := c.rv a
    let b := c.eng.vis
    let sel := mp7Sel (c.rmp 7)
    let mismatch := if sel then v.tag.fmt ≠ fmtN16 else v.tag.fmt = fmtRaw
    match vCause v.isPoison v.reserved (mismatch || Tag.badScale v.tag) (!sel && v.t16 && !c.iss.emul) with
    | some x => c.trap x
    | none =>
      let r := b.moved sel row.val v.w
      let b' := if sel then b.takeIndex r v.bits
        else b.takeElems r (64 * r.2) fun e => convertVal b.fmt.kind rm 0 (v.val e)
      c.modE fun e => { e with vis := b'.markRows r v.tag.poison }) s
/-- The bank format that ACCFMT names. -/
def accFmt (f : Fmt) : Option BankFmt :=
  if f = 5 then some .i32 else if f = fmtF32 then some .f32 else if f = fmtF64 then some .f64 else none
/-- MACCLR. -/
def execMacclr (s : State) : Out :=
  syl [.mp 7] (fun c => match accFmt (mp7Acc (c.rmp 7)) with
    | none => c.trap .formatMismatch
    | some f => c.modE fun e => { e with vis := Bank.cleared f 0 }) s

/-! ### Parameter registers and status (R172, R177, R180) -/

def execMpset (p : Fin 8) (a : Fin 64) (s : State) : Out := syl [.x a.val] (fun c => c.wmp 1 p (c.rx a)) s
/-- The bits of mp[P] outside its reserved fields (R172). -/
def mpBits (p : Fin 8) : Nat :=
  match p.val with
  | 0 => 52 | 2 => 44 | 3 => 32 | 7 => 19 | _ => 64
/-- MPGET: mp[P], whose reserved fields read 0 (R7, R172, R177; assumption log 97). -/
def execMpget (d : Fin 64) (p : Fin 8) (s : State) : Out :=
  syl [.mp p.val] (fun c => c.wx 1 d (zeroExt (mpBits p) (c.rmp p).toNat)) s
def bankCode : BankFmt → Nat
  | .i32 => 0 | .f32 => 1 | .f64 => 2
/-- MSTAT's word; of an index beyond 4,095 MWIX keeps the low 12 bits (DESIGN CHOICE, assumption log 96). -/
def Engine.status (e : Engine) : Word :=
  BitVec.ofNat 64 (e.bact.val * 2 ^ 11 + bankCode e.work.fmt * 2 ^ 12 + bankCode e.vis.fmt * 2 ^ 14 + boolBit e.done * 2 ^ 16 +
    boolBit e.fault * 2 ^ 17 + boolBit e.active.isSome * 2 ^ 18 + boolBit e.pending.isSome * 2 ^ 19 + e.fcode % 256 * 2 ^ 20 +
    e.mwix % 4096 * 2 ^ 28 + e.rout % 256 * 2 ^ 40)
def execMstat (d : Fin 64) (s : State) : Out := syl [] (fun c => c.wx 1 d c.eng.status) s

end Sys2Proof.Machine
end

