-- ==== Sys2Proof/Machine/ScalarFloat.lean ====
section
/-! DEFINITION. The scalar float instructions (R87 to R89). No operand value traps or sets a flag. -/
namespace Sys2Proof.Machine

/-- The F32 or F64 value an x-register holds (R70, R87). -/
def xVal (f : FloatFmt) (x : Word) : FVal := f.decode (x.toNat % 2 ^ (8 * f.bytes))
/-- RoundTo to the low bits of an x-register, the rest 0 (R87). -/
def xCode (f : FloatFmt) (rm : Rm) (y : Exact) : Word := BitVec.ofNat 64 (roundTo f rm 0 y)

/-- A float syllable of two operands (R87). -/
def sf2 (f : FloatFmt) (rm : Rm) (lat : Nat) (g : FVal → FVal → Exact) (d a b : Fin 64) (s : State) : Out :=
  syl [.x a.val, .x b.val] (fun c => c.wx lat d (xCode f rm (g (xVal f (c.rx a)) (xVal f (c.rx b))))) s
/-- SFMA (R87). -/
def sfMa (f : FloatFmt) (rm : Rm) (d a b k : Fin 64) (s : State) : Out :=
  syl [.x a.val, .x b.val, .x k.val] (fun c =>
    c.wx 4 d (xCode f rm (fmaExact rm (xVal f (c.rx a)) (xVal f (c.rx b)) (xVal f (c.rx k))))) s
/-- SFSQRT (R87). -/
def sfSqrt (f : FloatFmt) (rm : Rm) (d a : Fin 64) (s : State) : Out :=
  syl [.x a.val] (fun c => c.wx 16 d (xCode f rm (sqrtExact (xVal f (c.rx a))))) s
/-- SFCMP (R88). -/
def sfCmp (f : FloatFmt) (k : FCond) (d : Fin 16) (a b : Fin 64) (s : State) : Out :=
  syl [.x a.val, .x b.val] (fun c => c.wp 2 d (fcondHolds k (cmpVal (xVal f (c.rx a)) (xVal f (c.rx b))))) s

def addExact (rm : Rm) (a b : FVal) : Exact := sumVals rm [a, b]
def subExact (rm : Rm) (a b : FVal) : Exact := sumVals rm [a, b.negate]
def mulExact (a b : FVal) : Exact := .ofVal (mulVal a b)

def execSfaddF32 (rm : Rm) (d a b : Fin 64) (s : State) : Out := sf2 .f32 rm 4 (addExact rm) d a b s
def execSfsubF32 (rm : Rm) (d a b : Fin 64) (s : State) : Out := sf2 .f32 rm 4 (subExact rm) d a b s
def execSfmulF32 (rm : Rm) (d a b : Fin 64) (s : State) : Out := sf2 .f32 rm 4 mulExact d a b s
def execSfmaF32 (rm : Rm) (d a b k : Fin 64) (s : State) : Out := sfMa .f32 rm d a b k s
def execSfdivF32 (rm : Rm) (d a b : Fin 64) (s : State) : Out := sf2 .f32 rm 16 divExact d a b s
def execSfsqrtF32 (rm : Rm) (d a : Fin 64) (s : State) : Out := sfSqrt .f32 rm d a s
def execSfcmpF32 (k : FCond) (d : Fin 16) (a b : Fin 64) (s : State) : Out := sfCmp .f32 k d a b s
def execSfaddF64 (rm : Rm) (d a b : Fin 64) (s : State) : Out := sf2 .f64 rm 4 (addExact rm) d a b s
def execSfsubF64 (rm : Rm) (d a b : Fin 64) (s : State) : Out := sf2 .f64 rm 4 (subExact rm) d a b s
def execSfmulF64 (rm : Rm) (d a b : Fin 64) (s : State) : Out := sf2 .f64 rm 4 mulExact d a b s
def execSfmaF64 (rm : Rm) (d a b k : Fin 64) (s : State) : Out := sfMa .f64 rm d a b k s
def execSfdivF64 (rm : Rm) (d a b : Fin 64) (s : State) : Out := sf2 .f64 rm 16 divExact d a b s
def execSfsqrtF64 (rm : Rm) (d a : Fin 64) (s : State) : Out := sfSqrt .f64 rm d a s
def execSfcmpF64 (k : FCond) (d : Fin 16) (a b : Fin 64) (s : State) : Out := sfCmp .f64 k d a b s

/-- The eight formats SFCVT converts between (R89). -/
def sfcvtFmt (f : Fmt) : Bool :=
  match fmtKind f with
  | .int _ n => 4 ≤ n
  | .flt .f16 => true | .flt .bf16 => true | .flt .f32 => true | .flt .f64 => true
  | _ => false

/-- The result of SFCVT in x[D]: I32 sign-extended, everything else with upper bits 0 (R89). -/
def sfcvt (rm : Rm) (src dst : Fmt) (x : Word) : Word :=
  let code := convertCode (fmtKind src) (fmtKind dst) rm 0 x.toNat
  match fmtKind dst with
  | .int true 4 => signExt 32 code
  | _ => BitVec.ofNat 64 code

/-- SFCVT (R89): any other code traps FORMAT_MISMATCH at issue. -/
def execSfcvt (rm : Rm) (d a : Fin 64) (src dst : Fmt) (s : State) : Out :=
  syl [.x a.val] (fun c =>
    if sfcvtFmt src && sfcvtFmt dst then c.wx 4 d (sfcvt rm src dst (c.rx a)) else c.trap .formatMismatch) s

end Sys2Proof.Machine
end

