-- ==== Sys2Proof/Machine/VectorData.lean ====
section
/-! DEFINITION. Vector data movement, reductions, scans, the random-bits and deferral queues and hashing (R152 to
R166, R168). -/
namespace Sys2Proof.Machine

/-! ### Contiguous scratch access (R154) -/

/-- The causes that concern the register of a VLD or VLDF: under a mask the code POISON and a reserved tag (R131). -/
def loadCause (c : Core) (k : MaskOp) (d : Fin 32) : Option Cause :=
  let v := c.rv d
  vCause (k ≠ .all && v.isPoison) v.reserved (Tag.badScale v.tag) false
/-- The tag a load leaves: D's code and scale, RAW for a register tagged POISON (R154). -/
def loadTag (t : Tag) : Tag := if t.fmt = fmtPoison then ⟨fmtRaw, 0, false⟩ else { t with poison := false }

/-- The register that a load of n bytes at an address gives: elements by the mask, the poison bit by the marks of the
lines that hold active elements (R153, R154). -/
def loaded (c : Core) (k : MaskOp) (d : Fin 32) (addr : Nat) : VReg :=
  let t := loadTag (c.rv d).tag
  let w := (fmtKind t.fmt).bytes
  let es := elemsOf t.fmt (c.scrBytes addr (accessSize t.fmt))
  let el (i : Nat) : Nat := es.getD i 0
  let mark := (List.range (elems w)).any fun i =>
    active c k w i && (let p := elemPlace t.fmt i; c.anyMark (addr + p.1) p.2)
  ⟨maskedImage c k d w el, { t with poison := mark || (MaskOp.merges k && (c.rv d).tag.poison) }⟩

/-- The bytes a store of register `v` leaves, as pieces: each active element by its value, each inactive one by `off`
(none keeps its bytes). For T6 the fields that share a byte with a written one are written back (R154). -/
def storePieces (c : Core) (v : VReg) (addr : Nat) (act : Nat → Bool) (off : Option Nat) : List EndEffect :=
  let n := elems v.w
  let old := elemsOf v.tag.fmt (c.scrBytes addr (accessSize v.tag.fmt))
  let es := (List.range n).map fun i => if act i then v.bits i else match off with | some z => z | none => old.getD i 0
  let bytes := bytesOf v.tag.fmt es
  if off.isSome || (List.range n).all act then [.bytes addr bytes]
  else ((List.range n).filter act).map fun i =>
    let p := elemPlace v.tag.fmt i
    .bytes (addr + p.1) ((bytes.drop p.1).take p.2)

/-- The poison marks that the written pieces leave (R153): set by a poisoned register in every line it writes a byte of;
a clean one clears a line it writes wholly when `clear` allows. -/
def markPieces (poison clear : Bool) (ps : List EndEffect) : List EndEffect :=
  let spans := ps.filterMap fun e => match e with | .bytes a d => some (a, d.length) | _ => none
  let lines := ((spans.map fun p => if p.2 = 0 then [] else
    (List.range ((p.1 + p.2 - 1) / 128 - p.1 / 128 + 1)).map (p.1 / 128 + ·)).flatten).eraseDups
  if poison then lines.map fun l => .mark l true
  else if clear then
    (lines.filter fun l => (List.range 128).all fun j =>
      spans.any fun p => decide (p.1 ≤ 128 * l + j) && decide (128 * l + j < p.1 + p.2)).map fun l => .mark l false
  else []

/-- Whether a 32-byte aligned access of n bytes lies in [0, S) (R154). -/
def Core.inScratchV (c : Core) (addr n : Nat) : Bool := addr % 32 = 0 && addr + n ≤ c.scrlim

/-- VLD (R154). It reads v[D] in the sense of R38 only where it merges (DESIGN CHOICE, assumption log 93). -/
def execVld (d : Fin 32) (base : Fin 16) (ofs : BitVec 19) (k : MaskOp) (s : State) : Out :=
  syl (.a base.val :: maskSrcs k d) (fun c =>
    let n := accessSize (c.rv d).tag.fmt
    let addr := effAddr c base ofs
    match loadCause c k d with
    | some q => c.trap q
    | none =>
      if c.inScratchV addr n = false then c.trap .scratchBounds
      else (c.wv 6 d (loaded c k d addr)).portAdd false (granulesOf addr n)) s

/-- VST (R154): a carrying instruction that writes no register. -/
def execVst (d : Fin 32) (base : Fin 16) (ofs : BitVec 19) (k : MaskOp) (s : State) : Out :=
  syl (.a base.val :: .v d.val :: (match k with | .all => [] | .mask m _ => [.m m.val])) (fun c =>
    let v := c.rv d
    let n := accessSize v.tag.fmt
    let addr := effAddr c base ofs
    match carryCause [v] false with
    | some q => c.trap q
    | none =>
      if c.inScratchV addr n = false then c.trap .scratchBounds
      else
        let off := match k with | .mask _ true => some 0 | _ => none
        let ps := storePieces c v addr (active c k v.w) off
        (((ps ++ markPieces v.tag.poison true ps).foldl Core.fx c)).portAdd false (granulesOf addr n)) s

/-! ### Furrow access (R155, R156) -/

/-- The frame of VLDF and VSTF: the transfer's own causes and waits hold whatever the guard; the register's causes only
under a true guard, tested once the transfer can proceed, or before FURROW_CONFIG (R156, R168). -/
def furrowSyl (srcs : List Reg) (cause : Core → Option Cause) (bad : Core → Bool) (ready : Core → Bool)
    (live : Bool) (body : Core → Core) (s : State) : Out :=
  .next (s.modCore fun c =>
    let own := if c.short [.p c.iss.gp.val] then some .stallShort else if c.iss.guard = false then none
      else if c.short srcs then some .stallShort else cause c
    if bad c then c.trap (match own with | some q => q | none => .furrowConfig)
    else if ready c = false then c.furrowHold live
    else match own with
      | some q => c.trap q
      | none => body c.done)

/-- VLDF (R155): reads n bytes at the read cursor and pops the slot at its end. -/
def execVldf (d i : Fin 32) (k : MaskOp) (s : State) : Out :=
  let live := s.prodLive s.core (s.core.rf i) true
  furrowSyl (maskSrcs k d) (fun c => loadCause c k d)
    (fun c => let f := c.rf i; !f.mayConsume endV || f.slotsz % accessSize (c.rv d).tag.fmt ≠ 0)
    (fun c => decide (0 < (c.rf i).filled)) live
    (fun c =>
      let f := c.rf i
      let n := accessSize (c.rv d).tag.fmt
      let addr := f.slotAt f.head + f.vrd
      let c := (if c.iss.guard then c.wv 6 d (loaded c k d addr) else c).portAdd false (granulesOf addr n)
      let last := f.slotsz ≤ f.vrd + n
      let c := c.modF i fun f => { f with cons := endV, vrd := if last then 0 else f.vrd + n }
      if last then c.popSlots i 1 else c) s

/-- VSTF (R155): claims a slot when its cursor is 0, writes n bytes, and pushes the slot at its end. -/
def execVstf (i d : Fin 32) (k : Option (Fin 8)) (s : State) : Out :=
  let live := s.consLive s.core (s.core.rf i) true
  furrowSyl (.v d.val :: maskSrcO k) (fun c => carryCause [c.rv d] false)
    (fun c => let f := c.rf i; !f.mayProduce endV || f.slotsz % accessSize (c.rv d).tag.fmt ≠ 0)
    (fun c => decide ((c.rf i).vwr ≠ 0 ∨ 0 < (c.rf i).free)) live
    (fun c =>
      let v := c.rv d
      let n := accessSize v.tag.fmt
      let f := c.rf i
      let slot := if f.vwr = 0 then f.tail else f.after f.tail (f.count - 1)
      let addr := f.slotAt slot + f.vwr
      let c := if f.vwr = 0 then c.claimSlots i 1 else c
      let ps := if c.iss.guard then storePieces c v addr (activeO c k v.w) (some 0)
        else [.bytes addr (List.replicate n 0)]
      let c := ((ps ++ markPieces v.tag.poison true ps).foldl Core.fx c).portAdd false (granulesOf addr n)
      let last := f.slotsz ≤ f.vwr + n
      let c := c.modF i fun f => { f with prod := endV, vwr := if last then 0 else f.vwr + n }
      if last then c.fx (.fill i 1) else c) s

/-! ### Gather and scatter (R157) -/

def gBytes : GSize → Nat
  | .b => 1 | .h => 2 | .w => 4 | .d => 8
def gElems : GSize → Nat
  | .d => 64 | _ => 128

/-- The causes of a gather or scatter that its registers give (R157): the offsets are interpreted, the data carried. Where the
data register is no source (`src` false: a VGATH without merge), its format is only that of the destination; a VGATH that merges into
a register tagged POISON raises POISON (R131; assumption log 66). -/
def gatherCause (c : Core) (w : Nat) (src : Bool) (data offs : Fin 32) : Option Cause :=
  let vd := c.rv data
  let va := c.rv offs
  vCause (va.marked || (src && vd.isPoison)) (va.reserved || (src && vd.reserved))
    (va.tag.fmt ≠ fmtN32 || Tag.badScale va.tag || vd.isPoison || vd.reserved || vd.w ≠ w || Tag.badScale vd.tag) false
/-- The active offsets of a gather or scatter. -/
def activeOffs (va : VReg) (n : Nat) (act : Nat → Bool) : List (Nat × Nat) :=
  ((List.range n).filter act).map fun i => (i, va.bits i)
def offsBad (c : Core) (w : Nat) (os : List (Nat × Nat)) : Bool := os.any fun o => o.2 % w ≠ 0 || c.scrlim < o.2 + w

/-- VGATH (R157). -/
def execVgath (sz : GSize) (d a : Fin 32) (k : MaskOp) (s : State) : Out :=
  syl (.v a.val :: maskSrcs k d) (fun c =>
    let w := gBytes sz
    let n := gElems sz
    let va := c.rv a
    match gatherCause c w (MaskOp.merges k) d a with
    | some q => c.trap q
    | none =>
      let os := activeOffs va n (active c k w)
      if offsBad c w os then c.trap .scratchBounds
      else
        let old := (c.rv d).data
        let el (i : Nat) : Nat :=
          if n ≤ i then 0 else if active c k w i then memRead c.scratch (va.bits i) w
          else if MaskOp.merges k then bitsAt old w i else 0
        let mark := os.any fun o => c.anyMark o.2 w
        (c.wv 10 d ⟨mkImage w (elems w) el,
          { (c.rv d).tag with poison := mark || (MaskOp.merges k && (c.rv d).tag.poison) }⟩).portAdd true
            (os.map fun o => o.2 / 32)) s

/-- VSCAT (R157): ascending elements, so the higher index remains; only a poisoned register changes marks (R153). -/
def execVscat (sz : GSize) (a b : Fin 32) (k : Option (Fin 8)) (s : State) : Out :=
  syl (.v a.val :: .v b.val :: maskSrcO k) (fun c =>
    let w := gBytes sz
    let va := c.rv a
    let vb := c.rv b
    match gatherCause c w true b a with
    | some q => c.trap q
    | none =>
      let os := activeOffs va (gElems sz) (activeO c k w)
      if offsBad c w os then c.trap .scratchBounds
      else
        let ps : List EndEffect := os.map fun o => .bytes o.2 (toBytes w (vb.bits o.1))
        ((ps ++ markPieces vb.tag.poison false ps).foldl Core.fx c).portAdd true (os.map fun o => o.2 / 32)) s

/-! ### Lane movement (R158, R161) -/

/-- The N format of an element size (R158). -/
def nFmt (w : Nat) : Fmt := if w = 1 then 2 else if w = 2 then 4 else if w = 8 then 8 else 6

/-- VPERM and VXCL (R158): carrying for A, interpreting for the indices B. -/
def laneMove (lat : Nat) (src : Nat → Nat → Nat → Nat) (d a b : Fin 32) (s : State) : Out :=
  vsyl [.v a.val, .v b.val]
    (fun c =>
      let va := c.rv a
      let vb := c.rv b
      vCause (va.isPoison || vb.marked) (va.reserved || vb.reserved)
        (vb.tag.fmt ≠ nFmt va.w || Tag.badScale va.tag || Tag.badScale vb.tag) false)
    (fun c =>
      let va := c.rv a
      let vb := c.rv b
      c.writeV lat .all d va.tag va.w fun i => va.bits (src va.w i (vb.bits i))) s
def execVperm (d a b : Fin 32) (s : State) : Out :=
  laneMove 2 (fun w i x => let ec := 64 / w; i / ec * ec + x % ec) d a b s
def execVxcl (d a b : Fin 32) (s : State) : Out := laneMove 6 (fun w _ x => x % elems w) d a b s

/-- VIOTA (R161). -/
def execViota (d : Fin 32) (s : State) : Out :=
  syl [] (fun c => c.wv 2 d ⟨mkImage 4 128 id, ⟨fmtN32, 0, false⟩⟩) s

/-- VTOS (R161): it reads any format as bits, but no reserved tag and no scale that R109 forbids. -/
def execVtos (d : Fin 32) (a : Fin 32) (lane : Fin 128) (s : State) : Out :=
  vsyl [.v a.val] (fun c => vCause (c.rv a).marked (c.rv a).reserved (Tag.badScale (c.rv a).tag) false)
    (fun c =>
      let v := c.rv a
      c.wx 3 (Fin.ofNat 64 d.val)
        (BitVec.ofNat 64 (if v.w = 8 then bitsAt v.data 8 (lane.val / 2) else v.lane lane.val))) s

/-! ### Reductions and scans (R159, R160) -/

/-- The best of the active elements by R140's order, as (index, value): the lowest index wins a tie; the first NaN wins
over every number. -/
def bestElem (lo : Bool) : List (Nat × FVal) → Option (Nat × FVal)
  | [] => none
  | x :: r =>
    match bestElem lo r with
    | none => some x
    | some y =>
      if x.2 = .nan then some x
      else if y.2 = .nan then some y
      else match orderZ x.2 y.2 with
        | some .lt => some (if lo then x else y)
        | some .gt => some (if lo then y else x)
        | _ => some x

/-- The result of .MIN or .MAX with no active element (R159): the format's largest or smallest value. -/
def emptyBest (k : FmtKind) (lo : Bool) : Nat :=
  match k with
  | .int s n => wrapInt n (if lo then intMax s n else intMin s n)
  | .flt f => if f.tapered then f.code (!lo) f.maxMag else f.infCode (!lo)
  | _ => 0

/-- SUM, MIN or MAX over active elements (R159), as an element under A's tag. -/
def reduceElem (op : VScanOp) (rm : Rm) (v : VReg) (is : List Nat) : Nat :=
  match op with
  | .sum => enc v rm (is.map v.int).sum (sumVals rm (is.map v.val))
  | .min | .max =>
    match bestElem (op = .min) (is.map fun i => (i, v.val i)) with
    | none => emptyBest v.kind (op = .min)
    | some (i, x) => match v.kind with
      | .flt f => if x = .nan then f.nanCode else v.kind.clean (v.bits i)
      | _ => v.bits i

/-- The causes of VRED and VSCAN: interpreting instructions of one source. -/
def oneCause (c : Core) (accept : FmtKind → Bool) (a : Fin 32) : Option Cause :=
  let va := c.rv a
  vCause va.marked va.reserved (Tag.badScale va.tag || !accept va.kind) (va.t16 && !c.iss.emul)

/-- VRED (R159). -/
def execVred (op : VRedOp) (rm : Rm) (d a : Fin 32) (k : Option (Fin 8)) (s : State) : Out :=
  vsyl (.v a.val :: maskSrcO k) (fun c => oneCause c anyNumber a)
    (fun c =>
      let va := c.rv a
      let is := (List.range (elems va.w)).filter (activeO c k va.w)
      let arg (lo : Bool) : Nat := match bestElem lo (is.map fun i => (i, va.val i)) with
        | some x => x.1
        | none => 0xFFFFFFFF
      let r : Nat × Tag := match op with
        | .sum => (reduceElem .sum rm va is, resultTag va)
        | .min => (reduceElem .min rm va is, resultTag va)
        | .max => (reduceElem .max rm va is, resultTag va)
        | .argmax => (arg false, ⟨fmtN32, 0, false⟩)
        | .argmin => (arg true, ⟨fmtN32, 0, false⟩)
      let w := (fmtKind r.2.fmt).bytes
      c.writeV 8 .all d r.2 w fun i => if i = 0 then r.1 else 0) s

/-- VSCAN (R160): inclusive prefixes over the active elements. -/
def execVscan (op : VScanOp) (rm : Rm) (d a : Fin 32) (k : MaskOp) (s : State) : Out :=
  vsyl (vSrcs a [] k d) (fun c => interpCause c anyNumber a [] k d)
    (fun c =>
      let va := c.rv a
      c.writeV 8 k d (resultTag va) va.w fun i =>
        reduceElem op rm va ((List.range (i + 1)).filter (active c k va.w))) s

/-! ### The random-bits queue (R162, R163) -/

/-- Philox-4×32 with r rounds left. -/
def philox : Nat → Nat → Nat → Nat × Nat × Nat × Nat → Nat × Nat × Nat × Nat
  | 0, _, _, c => c
  | r + 1, k0, k1, (c0, c1, c2, c3) =>
    let p0 := 0xD2511F53 * c0
    let p1 := 0xCD9E8D57 * c2
    philox r ((k0 + 0x9E3779B9) % 2 ^ 32) ((k1 + 0xBB67AE85) % 2 ^ 32)
      ((p1 / 2 ^ 32) ^^^ c1 ^^^ k0, p1 % 2 ^ 32, (p0 / 2 ^ 32) ^^^ c3 ^^^ k1, p0 % 2 ^ 32)
/-- Vector n of the stream of a key (R162). -/
def randVector (k0 k1 n : Nat) : VBits :=
  BitVec.ofNat 4096 (packElems 4 (((List.range 32).map fun j =>
    let m := 32 * n + j
    let w := philox 10 k0 k1 (m % 2 ^ 32, m / 2 ^ 32 % 2 ^ 32, 0, 0)
    [w.1, w.2.1, w.2.2.1, w.2.2.2]).flatten))

/-- VRAND (R163). -/
def execVrand (d : Fin 32) (s : State) : Out :=
  syl [] (fun c =>
    let key := match c.task with | some t => (t.ix % 2 ^ 32, t.seed % 2 ^ 32) | none => (0, 0)
    { (c.wv 2 d ⟨randVector key.1 key.2 c.randN, ⟨fmtN32, 0, false⟩⟩) with randN := c.randN + 1 }) s

/-! ### The deferral queue (R164, R165) -/

/-- VDEFER (R164). -/
def execVdefer (m : Fin 8) (vs : List (Fin 32)) (s : State) : Out :=
  syl (.m m.val :: vs.map fun r => .v r.val) (fun c =>
    let regs := vs.map c.rv
    let lanes := (List.range 128).filter fun l => (c.rm m).getLsbD (4 * l)
    if regs.any VReg.isPoison then c.trap .poison
    else if regs.any VReg.reserved then c.trap .formatReserved
    else if regs.any (fun v => Tag.badScale v.tag) then c.trap .formatMismatch
    else if Config.deferEntries < c.deferq.length + c.deferIn.length + lanes.length then c.trap .deferFull
    else
      let word (l j : Nat) : BitVec 32 := match regs[j]? with | some v => BitVec.ofNat 32 (v.lane l) | none => 0
      let p := regs.any (·.tag.poison)
      { c with deferIn := c.deferIn ++ lanes.map fun l => (c.cyc + 4, ⟨l, word l 0, word l 1, word l 2, word l 3, p⟩) }) s

/-- A value word of an entry. -/
def DeferEntry.word (e : DeferEntry) (j : Nat) : Nat :=
  (match j with | 0 => e.w0 | 1 => e.w1 | 2 => e.w2 | _ => e.w3).toNat

/-- VDRAIN (R165). -/
def execVdrain (d : Fin 32) (m : Fin 8) (n : Fin 4) (s : State) : Out :=
  syl [] (fun c =>
    let es := c.deferq.take 128
    let p := es.any (·.poison)
    let image (f : DeferEntry → Nat) : VBits := BitVec.ofNat 4096 (packElems 4 (es.map f))
    let c := { c with deferq := c.deferq.drop 128 }
    let c := c.wv 4 d ⟨image (·.lane), ⟨fmtN32, 0, p⟩⟩
    let c := (List.range (n.val + 1)).foldl (fun c j =>
      c.wv 4 (Fin.ofNat 32 (d.val + 1 + j)) ⟨image (·.word j), ⟨fmtRaw, 0, p⟩⟩) c
    c.wm 4 m (BitVec.ofNat 512 (2 ^ (4 * es.length) - 1))) s

/-! ### Hashing (R166) -/

/-- One bit of the CRC, most significant bit first. -/
def crcBit (r : Word) (b : Bool) : Word :=
  let top := r.getLsbD 63 != b
  if top then (r <<< 1) ^^^ 0x42F0E1EBA9EA3693#64 else r <<< 1
/-- One byte of the CRC. -/
def crcByte (r : Word) (b : Nat) : Word := [7, 6, 5, 4, 3, 2, 1, 0].foldl (fun r k => crcBit r (b.testBit k)) r

/-- VHASH (R166): D is a source. -/
def execVhash (d a : Fin 32) (k : Option (Fin 8)) (s : State) : Out :=
  vsyl (.v a.val :: .v d.val :: maskSrcO k)
    (fun c =>
      let va := c.rv a
      let vd := c.rv d
      vCause (va.marked || vd.marked) (va.reserved || vd.reserved)
        (Tag.badScale va.tag || vd.tag.fmt ≠ fmtN64 || vd.tag.scale ≠ 0) false)
    (fun c =>
      let va := c.rv a
      let bytes := (((List.range (elems va.w)).filter (activeO c k va.w)).map fun i =>
        (List.range va.w).map fun j => va.bits i / 256 ^ j % 256).flatten
      let r := bytes.foldl crcByte (BitVec.ofNat 64 (bitsAt (c.rv d).data 8 0))
      c.wv 8 d ⟨r.setWidth 4096, ⟨fmtN64, 0, false⟩⟩) s

end Sys2Proof.Machine
end

