-- ==== Sys2Proof/Machine/VectorFn.lean ====
section
/-! DEFINITION. The functions: VRCP and VRSQ (R138) and VEXP to VCOS (R167), within R122 to R124 and R358. The exact value of
a function is given by a comparison: exactly for VRCP and VRSQ, and for the others by an interval that holds it. -/
namespace Sys2Proof.Machine

/-! ### The result within its bound (R122, R123, R124, R358) -/

/-- A dyadic b × 2^u plus or minus m × 2^e, as a sign and a magnitude: the bound's end on one side of a result. -/
def addDy (neg : Bool) (m : Nat) (e : Int) (down : Bool) (b : Nat) (u : Int) : Int × Int :=
  sumDy [(neg, m, e), (down, b, u)]
/-- Whether the exact value, of the given sign and magnitude, may be at most `x` × 2^g. -/
def mayLe (neg : Bool) (cmp : Nat → Int → Ordering) (x : Int × Int) : Bool :=
  if neg then 0 ≤ x.1 || cmp x.1.natAbs x.2 != .lt else 0 < x.1 && cmp x.1.natAbs x.2 != .gt
/-- Whether the exact value may be at least `x` × 2^g. -/
def mayGe (neg : Bool) (cmp : Nat → Int → Ordering) (x : Int × Int) : Bool :=
  if neg then x.1 < 0 && cmp x.1.natAbs x.2 != .gt else x.1 ≤ 0 || cmp x.1.natAbs x.2 != .lt

/-- The magnitude code at or below the exact value. -/
def floorMag (f : FloatFmt) (cmp : Nat → Int → Ordering) : Nat :=
  findMag (fun k => k ≤ f.maxMag && cmp (f.magVal k).1 (f.magVal k).2 != .lt) f.mBits 0

/-- Whether a code keeps the bound of `b` half Ulps and the direction of the mode (R122, R123); a zero keeps the sign of the
exact value (R119). -/
def fnAllowed (f : FloatFmt) (b : Nat) (rm : Rm) (neg : Bool) (cmp : Nat → Int → Ordering) (code : Nat) : Bool :=
  match f.decode code with
  | .fin n m e =>
    let u := (f.magVal (floorMag f cmp)).2 - 1
    let r : Int × Int := (if n then -(m : Int) else m, e)
    (m ≠ 0 || n = neg) && mayLe neg cmp (addDy n m e false b u) && mayGe neg cmp (addDy n m e true b u) &&
      match rm with
      | .rup => mayLe neg cmp r
      | .rdn => mayGe neg cmp r
      | .rtz => mayGe false cmp (m, e)
      | _ => true
  | _ => false

/-- The powers of two, by exponent, that a non-decreasing function takes exactly, or none for a function that is not
non-decreasing (R124). -/
abbrev Pins := Option (Int → Bool)

/-- The magnitude codes of the exact value's sign that a non-decreasing function may give: those that keep the bound, but none
below what an operand on the near side of the binade must give (R124). -/
def steps (f : FloatFmt) (b : Nat) (rm : Rm) (pins : Int → Bool) (neg : Bool) (cmp : Nat → Int → Ordering) : List Nat :=
  let k := floorMag f cmp
  let base := k / 2 ^ f.fBits * 2 ^ f.fBits
  let v := f.magVal base
  let least := if base = 0 then 0 else if pins ((v.1.log2 : Int) + v.2) then base else base - b / 2
  ((List.range (2 * b + 4)).map (k - b + ·)).filter fun c =>
    least ≤ c && c ≤ f.maxMag && fnAllowed f b rm neg cmp (f.code neg c)
/-- The fixed result of a non-decreasing function among its codes (R124, R358): for each code, a free operand from which on, away
from zero, the result is at least that code; so a larger operand never has a smaller result. -/
def stepped (at_ : Nat → Nat) (ord : Nat) : List Nat → Option Nat
  | [] => none
  | c :: cs => some (cs.foldl (fun r c => if at_ c ≤ ord then c else r) c)
/-- The place of a code among the codes of a format in the order of their values. -/
def FloatFmt.place (f : FloatFmt) (code : Nat) : Nat :=
  let m := code % 2 ^ f.mBits
  if code / 2 ^ f.mBits % 2 = 1 then 2 ^ f.mBits - m else 2 ^ f.mBits + m

/-- What is free in a function's fixed results (R358): the result of an operand, and for a non-decreasing function the operand at
which each result code is reached. -/
structure FnFree where
  result : Nat → Nat
  reach  : Nat → Nat

/-- The fixed result of a function for a nonzero real (R123, R124, R358): exact where the value is representable (`sharp`
tells that the comparison decides it), R117's beyond the range, else the free result that R358 fixes within the bound. -/
def boundedMag (f : FloatFmt) (b : Nat) (rm : Rm) (pins : Pins) (free : FnFree) (x : Nat) (sharp neg : Bool)
    (cmp : Nat → Int → Ordering) : Nat :=
  let top := f.magVal f.maxMag
  let k := floorMag f cmp
  let given := free.result x % 2 ^ (8 * f.bytes)
  if cmp top.1 top.2 = .gt then f.code neg (overflow f rm neg cmp)
  else if sharp && k ≠ 0 && cmp (f.magVal k).1 (f.magVal k).2 = .eq then f.code neg k
  else match pins with
    | some p =>
      let ord := if neg then 2 ^ (f.mBits + 1) - f.place x else f.place x
      (match stepped (fun c => free.reach (f.code neg c)) ord (steps f b rm p neg cmp) with
        | some c => f.code neg c
        | none => f.code neg (roundMag f rm neg cmp))
    | none => if fnAllowed f b rm neg cmp given then given else f.code neg (roundMag f rm neg cmp)

/-- A function's exact value, and whether its comparison decides equality. -/
structure FnValue where
  sharp : Bool
  value : Exact

/-- The result of a function in a format, for the operand code `x`: correctly rounded in T16, else within the bound (R123, R167). -/
def fnResult (f : FloatFmt) (b : Nat) (rm : Rm) (pins : Pins) (free : FnFree) (x : Nat) (v : FnValue) : Nat :=
  match v.value with
  | .num neg cmp => if f = .t16 then roundTo f rm 0 v.value else boundedMag f b rm pins free x v.sharp neg cmp
  | y => roundTo f rm 0 y

/-! ### Intervals in fixed point -/

/-- An interval of magnitudes: every value strictly between lo × 2^e and hi × 2^e. -/
structure Between where
  lo : Nat
  hi : Nat
  e : Int

/-- The order of a value of the interval, which no m × 2^e equals, against m × 2^e; equal where the interval leaves it
open. -/
def Between.cmp (v : Between) (m : Nat) (e : Int) : Ordering :=
  if cmpDy m e v.lo v.e != .gt then .gt else if cmpDy m e v.hi v.e != .lt then .lt else .eq
def Between.value (v : Between) (neg : Bool) : FnValue := ⟨false, .num neg v.cmp⟩
def sharpDy (neg : Bool) (m : Nat) (e : Int) : FnValue := ⟨true, .dy neg m e⟩
def sharpOf (x : Exact) : FnValue := ⟨true, x⟩

/-- The interval of those at least, or at most, m × 2^e. -/
def Between.atLeast (v : Between) (m : Nat) (e : Int) : Between :=
  if cmpDy v.lo v.e m e = .lt then
    if e ≤ v.e then ⟨m, v.hi * 2 ^ (v.e - e).toNat, e⟩ else ⟨m * 2 ^ (e - v.e).toNat, v.hi, v.e⟩ else v
def Between.atMost (v : Between) (m : Nat) (e : Int) : Between :=
  if cmpDy v.hi v.e m e = .gt then
    if e ≤ v.e then ⟨v.lo * 2 ^ (v.e - e).toNat, m, e⟩ else ⟨v.lo, m * 2 ^ (e - v.e).toNat, v.e⟩ else v

/-- The bits after the point in fixed point, and the error allowed for, in its last place. -/
def fixBits : Nat := 256
def fixSlack : Nat := 2 ^ 32
def around (x : Nat) (slack : Nat) (e : Int) : Between := ⟨x - slack, x + slack, e⟩
/-- m × 2^e in fixed point of `p` bits, rounded down. -/
def fixed (p m : Nat) (e : Int) : Nat :=
  if 0 ≤ e + (p : Int) then m * 2 ^ (e + (p : Int)).toNat else m / 2 ^ (-(e + (p : Int))).toNat

/-- 1 / (1 + v). -/
def Between.recipSucc (v : Between) : Between :=
  let add (x : Nat) : Nat := if 0 ≤ v.e then x * 2 ^ v.e.toNat + 1 else x + 2 ^ (-v.e).toNat
  let e : Int := min v.e 0
  let lo := add v.lo
  let hi := add v.hi
  let q := hi.log2 + fixBits
  ⟨2 ^ q / hi, 2 ^ q / lo + 1, -e - (q : Int)⟩

/-- The terms t, t × x / 1, t × x² / 2!, … in fixed point, summed. -/
def expTerms (x : Nat) : Nat → Nat → Nat → Nat
  | 0, _, _ => 0
  | fuel + 1, n, t => t + expTerms x fuel (n + 1) (t * x / (2 ^ fixBits * (n + 1)))
/-- t - t × y / ((n+1)(n+2)) + …: sine from t = x, n = 1, and cosine from t = 1, n = 0. -/
def trigTerms (y : Nat) : Nat → Nat → Nat → Int
  | 0, _, _ => 0
  | fuel + 1, n, t => (t : Int) - trigTerms y fuel (n + 2) (t * y / (2 ^ fixBits * ((n + 1) * (n + 2))))
/-- t + t × y / 3 + …: the inverse hyperbolic tangent. -/
def atanhTerms (y : Nat) : Nat → Nat → Nat → Nat
  | 0, _, _ => 0
  | fuel + 1, n, t => t / n + atanhTerms y fuel (n + 2) (t * y / 2 ^ fixBits)
/-- t - t × y / (1 × 3) …: the error function's series without its factor. -/
def erfTerms (y : Nat) : Nat → Nat → Nat → Int
  | 0, _, _ => 0
  | fuel + 1, n, t => (t / (2 * n + 1) : Nat) - erfTerms y fuel (n + 1) (t * y / (2 ^ fixBits * (n + 1)))
/-- t - t / (3 d²) + …: the arctangent of 1 / d. -/
def atanTerms (d : Nat) : Nat → Nat → Nat → Int
  | 0, _, _ => 0
  | fuel + 1, n, t => (t / n : Nat) - atanTerms d fuel (n + 2) (t / (d * d))

/-- ln 2 and π in fixed point. -/
def ln2Fix : Nat := 2 * atanhTerms (2 ^ fixBits / 9) 90 1 (2 ^ fixBits / 3)
def piFix (p : Nat) : Nat :=
  (16 * atanTerms 5 (p / 4) 1 (2 ^ p / 5) - 4 * atanTerms 239 (p / 4) 1 (2 ^ p / 239)).toNat

/-- e^x for x in fixed point, beyond ±2000 an interval beyond every format. -/
def expFix (x : Int) : Between :=
  if 2000 * 2 ^ fixBits < x then ⟨1, 2, 2800⟩
  else if x < -(2000 * 2 ^ fixBits) then ⟨0, 1, -2800⟩
  else
    let k := x / ln2Fix
    around (expTerms (x - k * ln2Fix).toNat 60 0 (2 ^ fixBits)) fixSlack (k - fixBits)
def signedFix (neg : Bool) (m : Nat) (e : Int) : Int :=
  if neg then -(fixed fixBits m e : Int) else fixed fixBits m e
/-- Whether m × 2^e is below 2^-60. -/
def tiny (m : Nat) (e : Int) : Bool := cmpDy m e 1 (-60) = .lt
/-- Just below m × 2^e, for a function whose value at a tiny x is x less at most x³. -/
def belowTiny (m : Nat) (e : Int) : Between := ⟨m * (2 ^ 118 - 1), m * 2 ^ 118, e - 118⟩

/-! ### The functions of a nonzero finite operand -/

/-- e^x, on the side of 1 that the sign of x gives. -/
def expBetween (neg : Bool) (x : Int) : Between :=
  if neg then (expFix x).atMost 1 0 else (expFix x).atLeast 1 0
def vexpReal (neg : Bool) (m : Nat) (e : Int) : FnValue :=
  let big := cmpDy m e 1 12 = .gt
  (expBetween neg (if big then (if neg then -(2001 * 2 ^ fixBits) else 2001 * 2 ^ fixBits) else signedFix neg m e)).value
    false
/-- Whether m × 2^e is an integer. -/
def isInteger (m : Nat) (e : Int) : Bool := 0 ≤ e || m % 2 ^ (-e).toNat = 0
/-- 2^x: exact at an integer; an x beyond ±4096 is as ±4096, beyond every format. -/
def vexp2Real (neg : Bool) (m : Nat) (e : Int) : FnValue :=
  let x : Int := if cmpDy m e 1 12 = .gt then (if neg then -4096 else 4096) * 2 ^ fixBits else signedFix neg m e
  if isInteger m e then sharpDy false 1 (x / 2 ^ fixBits)
  else (expBetween neg (x * ln2Fix / 2 ^ fixBits)).value false
/-- ln x in fixed point. -/
def lnFix (m : Nat) (e : Int) : Int :=
  let k := m.log2
  let t := (m - 2 ^ k) * 2 ^ fixBits / (m + 2 ^ k)
  2 * (atanhTerms (t * t / 2 ^ fixBits) 90 1 t : Nat) + ((k : Int) + e) * ln2Fix
def isPow2 (m : Nat) : Bool := m = 2 ^ m.log2
def vlogReal (neg : Bool) (m : Nat) (e : Int) : FnValue :=
  if neg then sharpOf .nan
  else if isPow2 m && (m.log2 : Int) + e = 0 then sharpOf (.zero false)
  else
    let v := lnFix m e
    (around v.natAbs fixSlack (-fixBits)).value (v < 0)
def vlog2Real (neg : Bool) (m : Nat) (e : Int) : FnValue :=
  if neg then sharpOf .nan
  else if isPow2 m then
    let n := (m.log2 : Int) + e
    sharpDy (n < 0) n.natAbs 0
  else
    let v := lnFix m e
    (around (v.natAbs * 2 ^ fixBits / ln2Fix) (2 * fixSlack) (-fixBits)).value (v < 0)
/-- tanh x = 1 - 2 / (1 + e^2x). -/
def vtanhReal (neg : Bool) (m : Nat) (e : Int) : FnValue :=
  if tiny m e then (belowTiny m e).value neg
  else
    let x : Int := if cmpDy m e 1 12 = .gt then 2 ^ 12 * 2 ^ fixBits else fixed fixBits m e
    let q := (expFix (2 * x)).recipSucc
    let one := 2 ^ (-q.e).toNat
    (Between.mk (one - 2 * q.hi) (one - 2 * q.lo) q.e).value neg
/-- 1 / (1 + e^-x), on the side of a half that the sign of x gives, and below 1. -/
def vsigmReal (neg : Bool) (m : Nat) (e : Int) : FnValue :=
  let x : Int := if cmpDy m e 1 12 = .gt then (if neg then -(2 ^ 12) else 2 ^ 12) * 2 ^ fixBits else signedFix neg m e
  let v := (expFix (-x)).recipSucc
  (if neg then v.atMost 1 (-1) else (v.atLeast 1 (-1)).atMost 1 0).value false
/-- erf x, from its series below 6.5. -/
def verfReal (neg : Bool) (m : Nat) (e : Int) : FnValue :=
  let rootPi := (piFix fixBits * 2 ^ fixBits).sqrt
  let scaled (t : Nat) : Nat := 2 * t * 2 ^ fixBits / rootPi
  if tiny m e then
    let c := scaled (2 ^ fixBits)
    (Between.mk (m * (c - 2 ^ 140)) (m * (c + fixSlack)) (e - fixBits)).value neg
  else if cmpDy m e 13 (-1) != .lt then (Between.mk (2 ^ 64 - 1) (2 ^ 64) (-64)).value neg
  else
    let x := fixed fixBits m e
    ((around (scaled (erfTerms (x * x / 2 ^ fixBits) 220 0 x).toNat) (2 ^ 100) (-fixBits)).atMost 1 0).value neg
/-- The quarter turns in x and what is left of it, in fixed point; π to the bits that x's size asks for (R123). -/
def quarters (m : Nat) (e : Int) : Nat × Nat :=
  let p := 320 + ((m.log2 : Int) + e + 1).toNat
  let x := fixed p m e
  let h := piFix (p + 1) / 4
  (x / h, (x % h) / 2 ^ (p - fixBits))
def sinFix (r : Nat) : Int := trigTerms (r * r / 2 ^ fixBits) 60 1 r
def cosFix (r : Nat) : Int := trigTerms (r * r / 2 ^ fixBits) 60 0 (2 ^ fixBits)
/-- The sine of n quarter turns and r, negated or not. -/
def turned (neg : Bool) (n r : Nat) : FnValue :=
  let v := if n % 2 = 0 then sinFix r else cosFix r
  ((around v.natAbs fixSlack (-fixBits)).atMost 1 0).value (neg != (2 ≤ n % 4))
def vsinReal (neg : Bool) (m : Nat) (e : Int) : FnValue :=
  if tiny m e then (belowTiny m e).value neg
  else let q := quarters m e; turned neg q.1 q.2
def vcosReal (_ : Bool) (m : Nat) (e : Int) : FnValue :=
  if tiny m e then (Between.mk (2 ^ 118 - 1) (2 ^ 118) (-118)).value false
  else let q := quarters m e; turned false (q.1 + 1) q.2
def vrcpReal (neg : Bool) (m : Nat) (e : Int) : FnValue := sharpOf (divExact (.fin false 1 0) (.fin neg m e))
/-- 1/√x against y: 1 against y² × x. -/
def vrsqReal (neg : Bool) (m : Nat) (e : Int) : FnValue :=
  if neg then sharpOf .nan else sharpOf (.num false fun x g => cmpDy 1 0 (x * x * m) (2 * g + e))

/-! ### Special operands (R124) -/

/-- A function by its results at -∞, at +∞ and at ±0, and by its value elsewhere. -/
def fnValue (minus plus : Exact) (zero : Bool → Exact) (real : Bool → Nat → Int → FnValue) (v : FVal) : FnValue :=
  match v with
  | .nan => sharpOf .nan
  | .inf n => sharpOf (if n then minus else plus)
  | .fin n m e => if m = 0 then sharpOf (zero n) else real n m e
def oneX : Exact := .dy false 1 0
def minusOneX : Exact := .dy true 1 0

/-! ### The instructions -/

/-- The formats of R167, and of VRCP and VRSQ (R138). -/
def fnFormats (k : FmtKind) : Bool := k = .flt .f32 || k = .flt .f64 || k = .flt .t16
def rcpFormats (k : FmtKind) : Bool := k = .flt .f32
def fnLat (k : FmtKind) : Nat := if k = .flt .f64 then 24 else 12

/-- A function instruction: number `fn`, its formats, its latency, its bound in half Ulps, the powers of two it pins if it is non-
decreasing, and its exact value. -/
def function (fn : Nat) (accept : FmtKind → Bool) (lat : FmtKind → Nat) (b : Nat) (pins : Pins) (value : FVal → FnValue) (rm : Rm)
    (d a : Fin 32) (k : MaskOp)
    (s : State) : Out :=
  interp accept lat (fun c i =>
    let va := c.rv a
    match va.kind with
    | .flt f =>
      let free : FnFree := ⟨Config.function fn rm.code va.tag.fmt.toNat, Config.functionReach fn rm.code va.tag.fmt.toNat⟩
      fnResult f b rm pins free (va.bits i) (value (va.val i))
    | _ => 0) d a [] k s

def execVrcp (rm : Rm) (d a : Fin 32) (k : MaskOp) (s : State) : Out :=
  function 0x07 rcpFormats (fun _ => 6) 2 none (fnValue (.zero true) (.zero false) .inf vrcpReal) rm d a k s
def execVrsq (rm : Rm) (d a : Fin 32) (k : MaskOp) (s : State) : Out :=
  function 0x08 rcpFormats (fun _ => 6) 2 none (fnValue .nan (.zero false) .inf vrsqReal) rm d a k s
def execVexp (rm : Rm) (d a : Fin 32) (k : MaskOp) (s : State) : Out :=
  function 0x50 fnFormats fnLat 2 (some fun k => k = 0) (fnValue (.zero false) (.inf false) (fun _ => oneX) vexpReal) rm d a k s
def execVexp2 (rm : Rm) (d a : Fin 32) (k : MaskOp) (s : State) : Out :=
  function 0x51 fnFormats fnLat 2 (some fun _ => true) (fnValue (.zero false) (.inf false) (fun _ => oneX) vexp2Real) rm d a k s
def execVlog (rm : Rm) (d a : Fin 32) (k : MaskOp) (s : State) : Out :=
  function 0x52 fnFormats fnLat 2 (some fun _ => false) (fnValue .nan (.inf false) (fun _ => .inf true) vlogReal) rm d a k s
def execVlog2 (rm : Rm) (d a : Fin 32) (k : MaskOp) (s : State) : Out :=
  function 0x53 fnFormats fnLat 2 (some fun k => 0 ≤ k) (fnValue .nan (.inf false) (fun _ => .inf true) vlog2Real) rm d a k s
def execVtanh (rm : Rm) (d a : Fin 32) (k : MaskOp) (s : State) : Out :=
  function 0x54 fnFormats fnLat 4 (some fun _ => false) (fnValue minusOneX oneX .zero vtanhReal) rm d a k s
def execVsigm (rm : Rm) (d a : Fin 32) (k : MaskOp) (s : State) : Out :=
  function 0x55 fnFormats fnLat 4 (some fun k => k = -1) (fnValue (.zero false) oneX (fun _ => .dy false 1 (-1)) vsigmReal) rm d a k s
def execVerf (rm : Rm) (d a : Fin 32) (k : MaskOp) (s : State) : Out :=
  function 0x56 fnFormats fnLat 4 (some fun _ => false) (fnValue minusOneX oneX .zero verfReal) rm d a k s
def execVsin (rm : Rm) (d a : Fin 32) (k : MaskOp) (s : State) : Out :=
  function 0x57 fnFormats fnLat 3 none (fnValue .nan .nan .zero vsinReal) rm d a k s
def execVcos (rm : Rm) (d a : Fin 32) (k : MaskOp) (s : State) : Out :=
  function 0x58 fnFormats fnLat 3 none (fnValue .nan .nan (fun _ => oneX) vcosReal) rm d a k s

end Sys2Proof.Machine
end

