-- ==== Sys2Proof/Machine/Dispatch.lean ====
section
/-! DEFINITION. The dispatch: one arm per constructor of Instr. -/
namespace Sys2Proof.Machine

/-- One step of the device: the meaning of the row. -/
def exec (i : Instr) (s : State) : Host.Outcome State Fault Refusal :=
  match i with
  | .add d a b => Sys2Proof.Machine.execAdd d a b s
  | .sub d a b => Sys2Proof.Machine.execSub d a b s
  | .mul d a b => Sys2Proof.Machine.execMul d a b s
  | .mulh d a b => Sys2Proof.Machine.execMulh d a b s
  | .mulhn d a b => Sys2Proof.Machine.execMulhn d a b s
  | .div d a b => Sys2Proof.Machine.execDiv d a b s
  | .divn d a b => Sys2Proof.Machine.execDivn d a b s
  | .rem d a b => Sys2Proof.Machine.execRem d a b s
  | .remn d a b => Sys2Proof.Machine.execRemn d a b s
  | .min d a b => Sys2Proof.Machine.execMin d a b s
  | .max d a b => Sys2Proof.Machine.execMax d a b s
  | .minn d a b => Sys2Proof.Machine.execMinn d a b s
  | .maxn d a b => Sys2Proof.Machine.execMaxn d a b s
  | .and d a b => Sys2Proof.Machine.execAnd d a b s
  | .or d a b => Sys2Proof.Machine.execOr d a b s
  | .xor d a b => Sys2Proof.Machine.execXor d a b s
  | .andn d a b => Sys2Proof.Machine.execAndn d a b s
  | .shl d a b => Sys2Proof.Machine.execShl d a b s
  | .shr d a b => Sys2Proof.Machine.execShr d a b s
  | .sra d a b => Sys2Proof.Machine.execSra d a b s
  | .rotl d a b => Sys2Proof.Machine.execRotl d a b s
  | .clz d a => Sys2Proof.Machine.execClz d a s
  | .ctz d a => Sys2Proof.Machine.execCtz d a s
  | .popc d a => Sys2Proof.Machine.execPopc d a s
  | .cmp c d a b => Sys2Proof.Machine.execCmp c d a b s
  | .sel d a b c => Sys2Proof.Machine.execSel d a b c s
  | .movi d imm => Sys2Proof.Machine.execMovi d imm s
  | .movl d limm => Sys2Proof.Machine.execMovl d limm s
  | .addi d a imm => Sys2Proof.Machine.execAddi d a imm s
  | .andi d a imm => Sys2Proof.Machine.execAndi d a imm s
  | .ori d a imm => Sys2Proof.Machine.execOri d a imm s
  | .xori d a imm => Sys2Proof.Machine.execXori d a imm s
  | .shli d a k => Sys2Proof.Machine.execShli d a k s
  | .shri d a k => Sys2Proof.Machine.execShri d a k s
  | .srai d a k => Sys2Proof.Machine.execSrai d a k s
  | .cmpi c d a imm => Sys2Proof.Machine.execCmpi c d a imm s
  | .aadd d a imm => Sys2Proof.Machine.execAadd d a imm s
  | .amovAX d a => Sys2Proof.Machine.execAmovAX d a s
  | .amovXA d a => Sys2Proof.Machine.execAmovXA d a s
  | .csrrd d csr => Sys2Proof.Machine.execCsrrd d csr s
  | .csrwr csr a => Sys2Proof.Machine.execCsrwr csr a s
  | .pand d a b => Sys2Proof.Machine.execPand d a b s
  | .por d a b => Sys2Proof.Machine.execPor d a b s
  | .pxor d a b => Sys2Proof.Machine.execPxor d a b s
  | .pnot d a => Sys2Proof.Machine.execPnot d a s
  | .lds sz d base ofs => Sys2Proof.Machine.execLds sz d base ofs s
  | .sts sz d base ofs => Sys2Proof.Machine.execSts sz d base ofs s
  | .sfaddF32 rm d a b => Sys2Proof.Machine.execSfaddF32 rm d a b s
  | .sfsubF32 rm d a b => Sys2Proof.Machine.execSfsubF32 rm d a b s
  | .sfmulF32 rm d a b => Sys2Proof.Machine.execSfmulF32 rm d a b s
  | .sfmaF32 rm d a b c => Sys2Proof.Machine.execSfmaF32 rm d a b c s
  | .sfdivF32 rm d a b => Sys2Proof.Machine.execSfdivF32 rm d a b s
  | .sfsqrtF32 rm d a => Sys2Proof.Machine.execSfsqrtF32 rm d a s
  | .sfcmpF32 c d a b => Sys2Proof.Machine.execSfcmpF32 c d a b s
  | .sfaddF64 rm d a b => Sys2Proof.Machine.execSfaddF64 rm d a b s
  | .sfsubF64 rm d a b => Sys2Proof.Machine.execSfsubF64 rm d a b s
  | .sfmulF64 rm d a b => Sys2Proof.Machine.execSfmulF64 rm d a b s
  | .sfmaF64 rm d a b c => Sys2Proof.Machine.execSfmaF64 rm d a b c s
  | .sfdivF64 rm d a b => Sys2Proof.Machine.execSfdivF64 rm d a b s
  | .sfsqrtF64 rm d a => Sys2Proof.Machine.execSfsqrtF64 rm d a s
  | .sfcmpF64 c d a b => Sys2Proof.Machine.execSfcmpF64 c d a b s
  | .sfcvt rm d a src dst => Sys2Proof.Machine.execSfcvt rm d a src dst s
  | .tlook d a => Sys2Proof.Machine.execTlook d a s
  | .tset a b => Sys2Proof.Machine.execTset a b s
  | .tinv a => Sys2Proof.Machine.execTinv a s
  | .br src disp hint => Sys2Proof.Machine.execBr src disp hint s
  | .jmp disp => Sys2Proof.Machine.execJmp disp s
  | .jmpx a => Sys2Proof.Machine.execJmpx a s
  | .call disp => Sys2Proof.Machine.execCall disp s
  | .loop limm disp => Sys2Proof.Machine.execLoop limm disp s
  | .loopx a disp => Sys2Proof.Machine.execLoopx a disp s
  | .lbreak n disp => Sys2Proof.Machine.execLbreak n disp s
  | .retireComplete core => Sys2Proof.Machine.execRetireComplete core s
  | .vadd rm d a b k => Sys2Proof.Machine.execVadd rm d a b k s
  | .vsub rm d a b k => Sys2Proof.Machine.execVsub rm d a b k s
  | .vmul rm d a b k => Sys2Proof.Machine.execVmul rm d a b k s
  | .vdiv rm d a b k => Sys2Proof.Machine.execVdiv rm d a b k s
  | .vsqrt rm d a k => Sys2Proof.Machine.execVsqrt rm d a k s
  | .vrcp rm d a k => Sys2Proof.Machine.execVrcp rm d a k s
  | .vrsq rm d a k => Sys2Proof.Machine.execVrsq rm d a k s
  | .vmin d a b k => Sys2Proof.Machine.execVmin d a b k s
  | .vmax d a b k => Sys2Proof.Machine.execVmax d a b k s
  | .vabs d a k => Sys2Proof.Machine.execVabs d a k s
  | .vneg d a k => Sys2Proof.Machine.execVneg d a k s
  | .vcps d a b k => Sys2Proof.Machine.execVcps d a b k s
  | .vcmp c d a b k => Sys2Proof.Machine.execVcmp c d a b k s
  | .vclass d a set => Sys2Proof.Machine.execVclass d a set s
  | .vsel d a b m => Sys2Proof.Machine.execVsel d a b m s
  | .vfma rm d a b c k => Sys2Proof.Machine.execVfma rm d a b c k s
  | .vfms rm d a b c k => Sys2Proof.Machine.execVfms rm d a b c k s
  | .vfnma rm d a b c k => Sys2Proof.Machine.execVfnma rm d a b c k s
  | .vand d a b k => Sys2Proof.Machine.execVand d a b k s
  | .vor d a b k => Sys2Proof.Machine.execVor d a b k s
  | .vxor d a b k => Sys2Proof.Machine.execVxor d a b k s
  | .vnot d a k => Sys2Proof.Machine.execVnot d a k s
  | .vshl d a b k => Sys2Proof.Machine.execVshl d a b k s
  | .vshr d a b k => Sys2Proof.Machine.execVshr d a b k s
  | .vsra d a b k => Sys2Proof.Machine.execVsra d a b k s
  | .vcvt rm d a fmt k => Sys2Proof.Machine.execVcvt rm d a fmt k s
  | .vscale rm d a b k => Sys2Proof.Machine.execVscale rm d a b k s
  | .vtag d a fmt scale poison => Sys2Proof.Machine.execVtag d a fmt scale poison s
  | .vmov d a k => Sys2Proof.Machine.execVmov d a k s
  | .vmovi d imm fmt => Sys2Proof.Machine.execVmovi d imm fmt s
  | .vbcast d a n => Sys2Proof.Machine.execVbcast d a n s
  | .vld d base ofs k => Sys2Proof.Machine.execVld d base ofs k s
  | .vst d base ofs k => Sys2Proof.Machine.execVst d base ofs k s
  | .vldf d f k => Sys2Proof.Machine.execVldf d f k s
  | .vstf f d k => Sys2Proof.Machine.execVstf f d k s
  | .vgath sz d a k => Sys2Proof.Machine.execVgath sz d a k s
  | .vscat sz a b k => Sys2Proof.Machine.execVscat sz a b k s
  | .vperm d a b => Sys2Proof.Machine.execVperm d a b s
  | .vxcl d a b => Sys2Proof.Machine.execVxcl d a b s
  | .vred op rm d a k => Sys2Proof.Machine.execVred op rm d a k s
  | .vscan op rm d a k => Sys2Proof.Machine.execVscan op rm d a k s
  | .viota d => Sys2Proof.Machine.execViota d s
  | .vtos d a lane => Sys2Proof.Machine.execVtos d a lane s
  | .vrand d => Sys2Proof.Machine.execVrand d s
  | .vdefer m vs => Sys2Proof.Machine.execVdefer m vs s
  | .vdrain d m c => Sys2Proof.Machine.execVdrain d m c s
  | .vhash d a k => Sys2Proof.Machine.execVhash d a k s
  | .vexp rm d a k => Sys2Proof.Machine.execVexp rm d a k s
  | .vexp2 rm d a k => Sys2Proof.Machine.execVexp2 rm d a k s
  | .vlog rm d a k => Sys2Proof.Machine.execVlog rm d a k s
  | .vlog2 rm d a k => Sys2Proof.Machine.execVlog2 rm d a k s
  | .vtanh rm d a k => Sys2Proof.Machine.execVtanh rm d a k s
  | .vsigm rm d a k => Sys2Proof.Machine.execVsigm rm d a k s
  | .verf rm d a k => Sys2Proof.Machine.execVerf rm d a k s
  | .vsin rm d a k => Sys2Proof.Machine.execVsin rm d a k s
  | .vcos rm d a k => Sys2Proof.Machine.execVcos rm d a k s
  | .mcall n => Sys2Proof.Machine.execMcall n s
  | .macrd rm d row => Sys2Proof.Machine.execMacrd rm d row s
  | .macwr rm a row => Sys2Proof.Machine.execMacwr rm a row s
  | .mpset p a => Sys2Proof.Machine.execMpset p a s
  | .mpget d p => Sys2Proof.Machine.execMpget d p s
  | .mstat d => Sys2Proof.Machine.execMstat d s
  | .mload f a => Sys2Proof.Machine.execMload f a s
  | .zero fill => Sys2Proof.Machine.execZero fill s
  | .bld skip bix stg src => Sys2Proof.Machine.execBld skip bix stg src s
  | .bsel stg => Sys2Proof.Machine.execBsel stg s
  | .mloopOpen l => Sys2Proof.Machine.execMloopOpen l s
  | .mloopClose lvl => Sys2Proof.Machine.execMloopClose lvl s
  | .mad c => Sys2Proof.Machine.execMad c s
  | .ada c => Sys2Proof.Machine.execAda c s
  | .mxp c => Sys2Proof.Machine.execMxp c s
  | .mnp c => Sys2Proof.Machine.execMnp c s
  | .openH w h t due => Sys2Proof.Machine.execOpenH w h t due s
  | .close h => Sys2Proof.Machine.execClose h s
  | .info q h due => Sys2Proof.Machine.execInfo q h due s
  | .alloc t due => Sys2Proof.Machine.execAlloc t due s
  | .free h => Sys2Proof.Machine.execFree h s
  | .fetch mod x f => Sys2Proof.Machine.execFetch mod x f s
  | .store noalloc x f => Sys2Proof.Machine.execStore noalloc x f s
  | .gather x f => Sys2Proof.Machine.execGather x f s
  | .scatter x f => Sys2Proof.Machine.execScatter x f s
  | .pushr f t => Sys2Proof.Machine.execPushr f t s
  | .pushSlotReturn producer dest f => Sys2Proof.Machine.execPushSlotReturn producer dest f s
  | .pushDestEnded tinst => Sys2Proof.Machine.execPushDestEnded tinst s
  | .pref x => Sys2Proof.Machine.execPref x s
  | .copyo x src due => Sys2Proof.Machine.execCopyo x src due s
  | .coll kind x f due => Sys2Proof.Machine.execColl kind x f due s
  | .publ h due => Sys2Proof.Machine.execPubl h due s
  | .subsc h t due => Sys2Proof.Machine.execSubsc h t due s
  | .pin h due => Sys2Proof.Machine.execPin h due s
  | .unpin h => Sys2Proof.Machine.execUnpin h s
  | .freeze x due => Sys2Proof.Machine.execFreeze x due s
  | .thaw x due => Sys2Proof.Machine.execThaw x due s
  | .thawt q => Sys2Proof.Machine.execThawt q s
  | .grant x due => Sys2Proof.Machine.execGrant x due s
  | .castInvalidate p place => Sys2Proof.Machine.execCastInvalidate p place s
  | .thawAck p place => Sys2Proof.Machine.execThawAck p place s
  | .thawCompleteMsg core token => Sys2Proof.Machine.execThawCompleteMsg core token s
  | .atom op ord scope h a due => Sys2Proof.Machine.execAtom op ord scope h a due s
  | .red op rel scope h a => Sys2Proof.Machine.execRed op rel scope h a s
  | .ldsync acq scope h a due => Sys2Proof.Machine.execLdsync acq scope h a due s
  | .stsync rel scope h a => Sys2Proof.Machine.execStsync rel scope h a s
  | .barinit scope h a => Sys2Proof.Machine.execBarinit scope h a s
  | .barr scope h => Sys2Proof.Machine.execBarr scope h s
  | .barw scope h due => Sys2Proof.Machine.execBarw scope h due s
  | .barrierParentArrival child => Sys2Proof.Machine.execBarrierParentArrival child s
  | .barrierChildFlip child => Sys2Proof.Machine.execBarrierChildFlip child s
  | .finit f => Sys2Proof.Machine.execFinit f s
  | .fpush f a => Sys2Proof.Machine.execFpush f a s
  | .fpop f a => Sys2Proof.Machine.execFpop f a s
  | .fwait f a => Sys2Proof.Machine.execFwait f a s
  | .orphanCheck core => Sys2Proof.Machine.execOrphanCheck core s
  | .qclr d q => Sys2Proof.Machine.execQclr d q s
  | .tstamp due => Sys2Proof.Machine.execTstamp due s
  | .spawn h a due => Sys2Proof.Machine.execSpawn h a due s
  | .spawnw h a due => Sys2Proof.Machine.execSpawnw h a due s
  | .spawnwDeadlockBreak die => Sys2Proof.Machine.execSpawnwDeadlockBreak die s
  | .sow h a due => Sys2Proof.Machine.execSow h a due s
  | .bpost h a => Sys2Proof.Machine.execBpost h a s
  | .siblingEndMsg plot => Sys2Proof.Machine.execSiblingEndMsg plot s
  | .siblingCancel plot => Sys2Proof.Machine.execSiblingCancel plot s
  | .releaseListApply plot => Sys2Proof.Machine.execReleaseListApply plot s
  | .bread h due => Sys2Proof.Machine.execBread h due s
  | .plotrd a due => Sys2Proof.Machine.execPlotrd a due s
  | .trap a => Sys2Proof.Machine.execTrap a s
  | .svc port a due => Sys2Proof.Machine.execSvc port a due s
  | .lateFault core => Sys2Proof.Machine.execLateFault core s
  | .trapPolicy core => Sys2Proof.Machine.execTrapPolicy core s
  | .emulationDone core => Sys2Proof.Machine.execEmulationDone core s
  | .preempt core => Sys2Proof.Machine.execPreempt core s
  | .snapshotSave core => Sys2Proof.Machine.execSnapshotSave core s
  | .taskResumption tinst core => Sys2Proof.Machine.execTaskResumption tinst core s
  | .dispatchSelect die => Sys2Proof.Machine.execDispatchSelect die s
  | .reserve die adm => Sys2Proof.Machine.execReserve die adm s
  | .commit die adm => Sys2Proof.Machine.execCommit die adm s
  | .backoffExpiry die plot => Sys2Proof.Machine.execBackoffExpiry die plot s
  | .taskStart core plot ix tinst member => Sys2Proof.Machine.execTaskStart core plot ix tinst member s
  | .taskOverdue core => Sys2Proof.Machine.execTaskOverdue core s
  | .objMissingResolve p => Sys2Proof.Machine.execObjMissingResolve p s
  | .pageEviction die => Sys2Proof.Machine.execPageEviction die s
  | .pagePromotion p => Sys2Proof.Machine.execPagePromotion p s
  | .pageMoveComplete p => Sys2Proof.Machine.execPageMoveComplete p s
  | .rowActivation r => Sys2Proof.Machine.execRowActivation r s
  | .rfmComplete ctrl bank => Sys2Proof.Machine.execRfmComplete ctrl bank s
  | .completionWrite pair => Sys2Proof.Machine.execCompletionWrite pair s
  | .sqTailDoorbell pair v => Sys2Proof.Machine.execSqTailDoorbell pair v s
  | .cqHeadDoorbell pair v => Sys2Proof.Machine.execCqHeadDoorbell pair v s
  | .mqHeadDoorbell pair v => Sys2Proof.Machine.execMqHeadDoorbell pair v s
  | .qpEnable pair => Sys2Proof.Machine.execQpEnable pair s
  | .qpDisable pair => Sys2Proof.Machine.execQpDisable pair s
  | .registerWrite off v => Sys2Proof.Machine.execRegisterWrite off v s
  | .hostBar2Read at_ n => Sys2Proof.Machine.execHostBar2Read at_ n s
  | .hostBar2Write off data => Sys2Proof.Machine.execHostBar2Write off data s
  | .granuleTransfer g a => Sys2Proof.Machine.execGranuleTransfer g a s
  | .granuleTransferDone g => Sys2Proof.Machine.execGranuleTransferDone g s
  | .granuleTenureExpiry g => Sys2Proof.Machine.execGranuleTenureExpiry g s
  | .linkMessageReceive src seq body => Sys2Proof.Machine.execLinkMessageReceive src seq body s
  | .linkRetransmit dst seq => Sys2Proof.Machine.execLinkRetransmit dst seq s
  | .peerUnreachable pkg => Sys2Proof.Machine.execPeerUnreachable pkg s
  | .timestampCorrection ppm => Sys2Proof.Machine.execTimestampCorrection ppm s
  | .correctedError r => Sys2Proof.Machine.execCorrectedError r s
  | .uncorrectableError p => Sys2Proof.Machine.execUncorrectableError p s
  | .thermalThrottle die => Sys2Proof.Machine.execThermalThrottle die s
  | .thermalTrip die => Sys2Proof.Machine.execThermalTrip die s
  | .powerCapSet watts => Sys2Proof.Machine.execPowerCapSet watts s
  | .hostAdminPermit on => Sys2Proof.Machine.execHostAdminPermit on s
  | .firmwareUpdate image => Sys2Proof.Machine.execFirmwareUpdate image s
  | .attestationReport nonce => Sys2Proof.Machine.execAttestationReport nonce s
  | .nop => Sys2Proof.Machine.execNop s
  | .emptyBundle => Sys2Proof.Machine.execEmptyBundle s
  | .ret => Sys2Proof.Machine.execRet s
  | .retire => Sys2Proof.Machine.execRetire s
  | .yield => Sys2Proof.Machine.execYield s
  | .resultWriteback => Sys2Proof.Machine.execResultWriteback s
  | .mabort => Sys2Proof.Machine.execMabort s
  | .mswap => Sys2Proof.Machine.execMswap s
  | .macclr => Sys2Proof.Machine.execMacclr s
  | .mloadCopy => Sys2Proof.Machine.execMloadCopy s
  | .engineWorkStart => Sys2Proof.Machine.execEngineWorkStart s
  | .bLoadComplete => Sys2Proof.Machine.execBLoadComplete s
  | .mend => Sys2Proof.Machine.execMend s
  | .mnop => Sys2Proof.Machine.execMnop s
  | .brk => Sys2Proof.Machine.execBrk s
  | .activationWindowReset => Sys2Proof.Machine.execActivationWindowReset s
  | .powerOn => Sys2Proof.Machine.execPowerOn s
  | .reset => Sys2Proof.Machine.execReset s
  | .pushArrival => Sys2Proof.Machine.execPushArrival s
  | .collComplete => Sys2Proof.Machine.execCollComplete s
  | .collTimeout => Sys2Proof.Machine.execCollTimeout s
  | .subscTimeout => Sys2Proof.Machine.execSubscTimeout s
  | .objectRequestPerform => Sys2Proof.Machine.execObjectRequestPerform s
  | .versionEvent => Sys2Proof.Machine.execVersionEvent s
  | .slotFilled => Sys2Proof.Machine.execSlotFilled s
  | .syncAccessPerform => Sys2Proof.Machine.execSyncAccessPerform s
  | .barrierArrival => Sys2Proof.Machine.execBarrierArrival s
  | .barrierTimeout => Sys2Proof.Machine.execBarrierTimeout s
  | .landingArrival => Sys2Proof.Machine.execLandingArrival s
  | .ballotPost => Sys2Proof.Machine.execBallotPost s
  | .svcAllocx => Sys2Proof.Machine.execSvcAllocx s
  | .svcSpill => Sys2Proof.Machine.execSvcSpill s
  | .svcTimeout => Sys2Proof.Machine.execSvcTimeout s
  | .plotCreate => Sys2Proof.Machine.execPlotCreate s
  | .plotClose => Sys2Proof.Machine.execPlotClose s
  | .tasksetSubmit => Sys2Proof.Machine.execTasksetSubmit s
  | .objCreate => Sys2Proof.Machine.execObjCreate s
  | .objWrite => Sys2Proof.Machine.execObjWrite s
  | .objRead => Sys2Proof.Machine.execObjRead s
  | .objFree => Sys2Proof.Machine.execObjFree s
  | .policySet => Sys2Proof.Machine.execPolicySet s
  | .portBind => Sys2Proof.Machine.execPortBind s
  | .taskResume => Sys2Proof.Machine.execTaskResume s
  | .domainTerminate => Sys2Proof.Machine.execDomainTerminate s
  | .debugAttach => Sys2Proof.Machine.execDebugAttach s
  | .minhbmSet => Sys2Proof.Machine.execMinhbmSet s
  | .snapRead => Sys2Proof.Machine.execSnapRead s
  | .snapWrite => Sys2Proof.Machine.execSnapWrite s
  | .journalRead => Sys2Proof.Machine.execJournalRead s
  | .apertureSet => Sys2Proof.Machine.execApertureSet s

end Sys2Proof.Machine
end

