-- ==== Sys2Proof/Machine/World.lean ====
section
/-! DEFINITION. What the world around a core does at the start of its turn: outside inputs, the device's pending steps, the
steps that a condition of the state calls for, and the acceptance of host commands. The meanings come in as `ex`. -/
namespace Sys2Proof.Machine

/-! ### Outside inputs -/

/-- A read or write by the host processor. -/
def Instr.fromHost : Instr → Bool
  | .hostBar2Read _ _ | .hostBar2Write _ _ | .sqTailDoorbell _ _ | .cqHeadDoorbell _ _ | .mqHeadDoorbell _ _
  | .qpEnable _ | .qpDisable _ | .registerWrite _ _ => true
  | _ => false
/-- The steps that outside agents cause: the host, the links, the memories, the sensors and the management interfaces. -/
def Instr.external (i : Instr) : Bool :=
  Instr.fromHost i || match i with
  | .granuleTransfer _ (.load _ _) | .granuleTransfer _ (.store _ _) | .linkMessageReceive _ _ _ | .timestampCorrection _ | .rowActivation _ | .correctedError _
  | .uncorrectableError _ | .thermalThrottle _ | .thermalTrip _ | .powerCapSet _ | .hostAdminPermit _
  | .firmwareUpdate _ | .attestationReport _ | .reset => true
  | _ => false
/-- A write through an aperture waits for its object: later accesses of the host stay behind it. -/
def State.bar2Held (s : State) : Bool := s.agenda.any fun e => match e.instr with | .hostBar2Write _ _ => true | _ => false
/-- The first input that may be taken. -/
def State.nextInput (s : State) : Option Instr := s.inbox.find? fun i => !(s.bar2Held && Instr.fromHost i)
/-- An input is performed; what no outside agent causes is dropped. -/
def takeInput (ex : Instr → State → Out) (i : Instr) (s : State) : Out :=
  let s := { s with inbox := s.inbox.erase i, subj := 0 }
  if Instr.external i then ex i s else .next s

/-! ### The device's pending steps -/

/-- A step's state, with the storage and the versions released that the step has left without a holder (R219, R229). -/
def swept : Out → Out
  | .next s => .next s.sweepStale.sweepFreed
  | o => o
/-- The core into whose scratch a pending step brings a fill or a push. -/
def State.fillTarget (s : State) (e : Event) : Option Core :=
  match e.instr, s.reqs.find? fun r => r.id = e.subj with
  | .slotFilled, some r => s.coreOf r.party
  | .pushArrival, some r => (match r.op with
    | .push _ _ inst _ _ => s.cores.find? fun c => match c.task with | some t => t.inst * 8 + t.member = inst | none => false
    | _ => none)
  | _, _ => none
/-- Whether a core's banks take fills and pushes at the start of this cycle: in phase 3 of the frame, before the bundle of the
cycle issues and after the scalar port's accesses (R21, R72, R73); a cycle that the frame does not count takes them at its end,
and one that a vector port stops takes none (R152, assumption log 78). -/
def Core.fillsNow (c : Core) : Bool :=
  match c.run with
  | .running => !c.counting || (c.portStop = 0 && c.cyc % 4 = 3)
  | .retiring => true
  | .idle => true
  | _ => false
/-- The first pending step whose time has come. -/
def State.dueEvent (s : State) : Option Event :=
  s.agenda.find? fun e => decide (e.at_ ≤ s.cycle) && match s.fillTarget e with | some c => c.fillsNow | none => true
/-- The first fill or push that is due for the current core. -/
def State.dueFill (s : State) : Option Event :=
  s.agenda.find? fun e => decide (e.at_ ≤ s.cycle) && match s.fillTarget e with | some c => c.id = s.core.id | none => false
/-- A host command that waited is in the latch again. -/
def State.recall (s : State) (seq : Nat) : State :=
  match s.cmdWait.find? fun c => c.seq = seq with
  | some c => { s with cmd := c, cmdWait := s.cmdWait.erase c }
  | none => s
/-- A pending step is performed, on the request or the command it names. -/
def takeEvent (ex : Instr → State → Out) (e : Event) (s : State) : Out :=
  let s := { s with agenda := s.agenda.erase e, subj := e.subj }
  swept (match e.instr with
    | .objWrite => ex .objWrite (s.recall e.subj)
    | .objRead => ex .objRead (s.recall e.subj)
    | .snapRead => ex .snapRead (s.recall e.subj)
    | .snapWrite => ex .snapWrite (s.recall e.subj)
    | i => ex i s)

/-! ### Steps that a condition calls for (R105, R283, R288, R317, R320) -/

/-- The die on which four conditions of R288 hold and no waiter has been released yet. -/
def State.deadlockedDie (s : State) : Option Nat :=
  (List.range 8).find? fun d => s.spawnDeadlock d && !s.cores.any fun c => dieOf c.id = d && c.spawnFull
/-- The page of a template that a held SPAWN, SPAWNW or SOW waits for, once nobody has been asked to resolve it (R204). -/
def State.templateWait (s : State) : Option PageRef :=
  (s.cores.filterMap fun c => match c.tmplW with | some (p, false) => some p | _ => none).find? fun p =>
    (match s.pageOf p with | some q => q.res = .absent | none => false) && !s.agenda.any fun e => e.instr = .objMissingResolve p
/-- The step that the state calls for now, if any. -/
def State.trigger (s : State) : Option Instr :=
  match s.cores.find? s.isOverdue with
  | some c => some (.taskOverdue c.id)
  | none => match s.deadlockedDie with
    | some d => some (.spawnwDeadlockBreak d)
    | none => if s.window ≠ s.windowNow then some .activationWindowReset
      else match s.cores.find? s.retireReady with
        | some c => some (.retireComplete c.id)
        | none => s.templateWait.map .objMissingResolve

/-! ### The start of a core's turn -/

/-- One command accepted from the first pair of the round robin that has one, and performed; one of a reserved opcode or
with a nonzero reserved field is refused (R331, R332). -/
def takeCommand (ex : Instr → State → Out) (q : QPair) (s : State) : Out :=
  match decodeCommand (s.nextCommand q) with
  | some i => ex i (s.tick.accept q)
  | none => .next (s.tick.accept q).refuseCommand
/-- Whether the queue cores act now: at the start of a cycle, when a free choice says so. -/
def State.commandPair (s : State) : Option QPair :=
  if s.power = .running ∧ s.behind = [] ∧ s.choose = true then s.pairs.find? s.acceptable else none

/-- A descriptor that the object manager frees now, when a free choice says so (R275). -/
def State.plotDue (s : State) : Option Plot := if s.behind = [] ∧ s.chooseNext 1 = true then s.plots.find? s.freeable else none
/-- A queue core whose pass ends now, when a free choice says so: one for whose pairs it has written (R335;
assumption log 108). -/
def State.passDue (s : State) : Option Nat :=
  if s.behind = [] ∧ s.chooseNext 2 = true then (s.pairs.find? (·.wrote)).map (·.n % 64) else none
/-- The start of a core's turn: the end of its task that comes at this boundary (R284, R294), one outside input, pending step, called-for step, eviction or command at a time; with none
left, the core's issue follows. -/
def eventStage (ex : Instr → State → Out) (s : State) : Out :=
  match s.endDue s.core with
  | some _ => swept (.next (s.endOn s.core))
  | none =>
  match s.nextInput with
  | some i => takeInput ex i s
  | none =>
    match s.dueEvent with
    | some e => takeEvent ex e s
    | none =>
      match s.trigger with
      | some i => swept (ex i s)
      | none =>
        match s.retiring.find? fun e => s.mayRetire e.2 with
        | some e => .next (s.retireNow e)
        | none =>
        match s.evictionDue with
        | some d => .next (s.later 0 (.pageEviction d))
        | none =>
          match s.commandPair with
          | some q => takeCommand ex q s
          | none =>
            match s.plotDue with
            | some p => .next (s.freePlot p).tick.tick
            | none =>
              match s.passDue with
              | some k => .next (s.endPass k).tick.tick.tick
              | none => .next ((if s.behind = [] then s.follow.tick.tick.tick else s).toStage .issue)

/-- A routine that the system cores run is over when the engine is quiescent, and the bundle is reissued; a late ORPHAN_WAIT of one
of its waits ends it too (R175, R306). -/
def Core.emulatedCycle (c : Core) : Core :=
  let c := { c with eng := c.eng.settleFlags }
  if c.late ≠ [] || (c.eng.active.isNone && c.eng.pending.isNone) then c.resumeRun else c
/-- The engine part of a core's turn: none unless a task runs there, or the system cores run its routine. -/
def engineTurn (ex : Instr → State → Out) (s : State) : Out :=
  match s.core.run with
  | .running | .retiring | .emulating =>
    (match engineStage ex s with
      | .next t =>
        .next (if s.core.run = .emulating then (t.modCore Core.emulatedCycle).toStage .halted else t.toStage .writeback)
      | .fault f => .fault f
      | .refused f => .refused f)
  | _ => .next (s.toStage .writeback)

/-- The end of a cycle that the task's bank frame does not count: the core's fills and pushes, one at a time, then their
counts. -/
def haltedTurn (ex : Instr → State → Out) (s : State) : Out :=
  match s.dueFill with
  | some e => takeEvent ex e s
  | none => .next s.haltEnd

/-- One part of the current core's turn. -/
def turn (ex : Instr → State → Out) (s : State) : Out :=
  match s.core.stage with
  | .events => eventStage ex s
  | .issue => issueStage ex (foresee ex s)
  | .engine => engineTurn ex s
  | .writeback => writebackStage ex s
  | .halted => haltedTurn ex s

end Sys2Proof.Machine
end

