-- ==== Sys2Proof/Machine/Load.lean ====
section
/-! DEFINITION. How a program comes to the machine from outside, for one bundle: a task running it at offset 0 on the current
core, which is about to issue. -/
namespace Sys2Proof.Machine

/-- A code object from offset 0. -/
def codeImage (ws : List Nat) : Mem := memPut [] 0 (wordBytes ws)
/-- The task that runs it: the only member of instance 0. -/
def loadedTask : Task := ⟨0, 0, 0, 0, 0, 0, 0, 0, (0, 0, 0, 0)⟩
/-- A core about to issue the bundle at offset 0 of a code object. -/
def Core.loaded (c : Core) (ws : List Nat) : Core :=
  { c with run := .running, stage := .issue, task := some loadedTask, pc := 0, code := codeImage ws, codeLen := 8 * ws.length,
           cyc := 0, nextIss := 0, dueIss := 0, counting := false, redirect := none, replay := none, late := [], portStop := 0,
           loops := [], calls := [], sbchk := false }
/-- A package that runs, its current core about to issue the bundle. -/
def State.loaded (s : State) (ws : List Nat) : State := { s with power := .running, core := s.core.loaded ws }

end Sys2Proof.Machine
end

