-- ==== Sys2Proof/Machine/Step.lean ====
section
/-! DEFINITION. One step of the machine, and the placing of a word where it fetches. -/
namespace Sys2Proof.Machine

/-- One step: one part of the current core's turn. -/
def step (s : State) : Host.Outcome State Fault Refusal := turn exec s

/-- The state with the bundle whose bits are `w` as a running task's code, at the program counter of a core about to
issue (assumption log 2). -/
def State.withFetchWord (s : State) (_nbits w : Nat) : State := s.loaded (wordsOf 8 w)

end Sys2Proof.Machine
end

