-- ==== Sys2Proof/Safety.lean ====
section
/-! DEFINITION. What counts as a safe run, in the terms the statements use. -/
namespace Sys2Proof.Machine

/-- The state answers a next state. -/
def Runs (s : State) : Prop := ∃ t, step s = .next t
/-- A state that a number of steps from another reaches, each of them a next state. -/
inductive Reach (s : State) : State → Prop
  | refl : Reach s s
  | step {t u : State} : Reach s t → step t = .next u → Reach s u
/-- Every state that a run reaches answers a next state: the machine never stops. -/
def NeverStops (s : State) : Prop := ∀ t, Reach s t → Runs t

/-- The instruction answers a next state from every state: it neither faults nor is it refused. -/
def Completes (i : Instr) : Prop := ∀ s : State, ∃ t, exec i s = .next t

/-- A syllable of the current core may be performed: its guard is true, and with the scoreboard on neither its guard predicate
nor one of these sources awaits a result (R38, R43). -/
def Ready (s : State) (srcs : List Reg) : Prop :=
  s.core.iss.guard = true ∧
  (s.core.sbchk = true → ∀ r ∈ Reg.p s.core.iss.gp.val :: srcs, s.core.pending r = false)

/-- The current core after a syllable that only puts results in flight. -/
def Core.gives (c : Core) (fs : List InFlight) : Core := { c with out := .performed, inflight := c.inflight ++ fs }
/-- The result of a write of x[D] at latency `lat`: none for x0 (R18, R38, R70). -/
def givesX (c : Core) (lat : Nat) (d : Fin 64) (v : Word) : List InFlight := if d = 0 then [] else [⟨c.cyc + lat - 1, .x d v⟩]
/-- The result of a write of p[D] at latency `lat`: none for p0. -/
def givesP (c : Core) (lat : Nat) (d : Fin 16) (b : Bool) : List InFlight := if d = 0 then [] else [⟨c.cyc + lat - 1, .p d b⟩]

end Sys2Proof.Machine
end

