-- ==== Sys2Proof/Safety/Scalar.lean ====
section
/-! DEFINITION. What the scalar rules give each instruction of the S slot, in the rules' own integers: SInt, UInt and Wrap64 of
R71. The statements about the scalar instructions compare the machine with these. -/
namespace Sys2Proof.Machine

/-- Wrap64 (R71). -/
def wrap64 (n : Int) : Word := BitVec.ofInt 64 n
/-- The quotient and the remainder of DIV and REM, as R78's text computes them. -/
def divRem (n d : Int) : Int × Int :=
  if d = 0 then (-1, n) else if n = -2 ^ 63 ∧ d = -1 then (-2 ^ 63, 0) else (n.tdiv d, n - n.tdiv d * d)
/-- The same for DIVN and REMN. -/
def divRemN (n d : Nat) : Nat × Nat := if d = 0 then (2 ^ 64 - 1, n) else (n / d, n - n / d * d)

/-- The sources, latency, destination and value of an instruction that writes one x-register from registers and immediates
(R77 to R81, R83, R85). -/
def xResult (c : Core) : Instr → Option (List Reg × Nat × Fin 64 × Word)
  | .add d a b => some ([.x a.val, .x b.val], 1, d, wrap64 ((c.rx a).toInt + (c.rx b).toInt))
  | .sub d a b => some ([.x a.val, .x b.val], 1, d, wrap64 ((c.rx a).toInt - (c.rx b).toInt))
  | .mul d a b => some ([.x a.val, .x b.val], 3, d, wrap64 ((c.rx a).toInt * (c.rx b).toInt))
  | .mulh d a b => some ([.x a.val, .x b.val], 3, d, wrap64 ((c.rx a).toInt * (c.rx b).toInt / 2 ^ 64))
  | .mulhn d a b => some ([.x a.val, .x b.val], 3, d, wrap64 ((c.rx a).toNat * (c.rx b).toNat / 2 ^ 64 : Nat))
  | .div d a b => some ([.x a.val, .x b.val], 20, d, wrap64 (divRem (c.rx a).toInt (c.rx b).toInt).1)
  | .divn d a b => some ([.x a.val, .x b.val], 20, d, wrap64 (divRemN (c.rx a).toNat (c.rx b).toNat).1)
  | .rem d a b => some ([.x a.val, .x b.val], 20, d, wrap64 (divRem (c.rx a).toInt (c.rx b).toInt).2)
  | .remn d a b => some ([.x a.val, .x b.val], 20, d, wrap64 (divRemN (c.rx a).toNat (c.rx b).toNat).2)
  | .min d a b => some ([.x a.val, .x b.val], 1, d, if (c.rx a).toInt ≤ (c.rx b).toInt then c.rx a else c.rx b)
  | .max d a b => some ([.x a.val, .x b.val], 1, d, if (c.rx a).toInt ≥ (c.rx b).toInt then c.rx a else c.rx b)
  | .minn d a b => some ([.x a.val, .x b.val], 1, d, if (c.rx a).toNat ≤ (c.rx b).toNat then c.rx a else c.rx b)
  | .maxn d a b => some ([.x a.val, .x b.val], 1, d, if (c.rx a).toNat ≥ (c.rx b).toNat then c.rx a else c.rx b)
  | .and d a b => some ([.x a.val, .x b.val], 1, d, c.rx a &&& c.rx b)
  | .or d a b => some ([.x a.val, .x b.val], 1, d, c.rx a ||| c.rx b)
  | .xor d a b => some ([.x a.val, .x b.val], 1, d, c.rx a ^^^ c.rx b)
  | .andn d a b => some ([.x a.val, .x b.val], 1, d, c.rx a &&& ~~~(c.rx b))
  | .shl d a b => some ([.x a.val, .x b.val], 1, d, wrap64 ((c.rx a).toNat * 2 ^ ((c.rx b).toNat % 64) : Nat))
  | .shr d a b => some ([.x a.val, .x b.val], 1, d, wrap64 ((c.rx a).toNat / 2 ^ ((c.rx b).toNat % 64) : Nat))
  | .sra d a b => some ([.x a.val, .x b.val], 1, d, wrap64 ((c.rx a).toInt / 2 ^ ((c.rx b).toNat % 64)))
  | .rotl d a b =>
      let k := (c.rx b).toNat % 64
      some ([.x a.val, .x b.val], 1, d, if k = 0 then c.rx a else (c.rx a <<< k) ||| (c.rx a >>> (64 - k)))
  | .sel d a b p => some ([.x a.val, .x b.val, .p p.val], 1, d, if c.rp p = true then c.rx a else c.rx b)
  | .movi d imm => some ([], 1, d, wrap64 imm.toInt)
  | .movl d limm => some ([], 1, d, wrap64 limm.toInt)
  | .addi d a imm => some ([.x a.val], 1, d, wrap64 ((c.rx a).toInt + imm.toInt))
  | .andi d a imm => some ([.x a.val], 1, d, c.rx a &&& wrap64 imm.toInt)
  | .ori d a imm => some ([.x a.val], 1, d, c.rx a ||| wrap64 imm.toInt)
  | .xori d a imm => some ([.x a.val], 1, d, c.rx a ^^^ wrap64 imm.toInt)
  | .shli d a k => some ([.x a.val], 1, d, wrap64 ((c.rx a).toNat * 2 ^ k.val : Nat))
  | .shri d a k => some ([.x a.val], 1, d, wrap64 ((c.rx a).toNat / 2 ^ k.val : Nat))
  | .srai d a k => some ([.x a.val], 1, d, wrap64 ((c.rx a).toInt / 2 ^ k.val))
  | .amovXA d a => some ([.a a.val], 1, d, c.ra a)
  | _ => none

/-- The count that CLZ, CTZ and POPC give (R79), told apart from the bits of x[A]. -/
def bitCount (x : Word) : Instr → Option Nat
  | .clz _ _ => some ((List.range 65).findIdx fun n => n = 64 || x.getLsbD (63 - n))
  | .ctz _ _ => some ((List.range 65).findIdx fun n => n = 64 || x.getLsbD n)
  | .popc _ _ => some (((List.range 64).filter fun n => x.getLsbD n).length)
  | _ => none
/-- The registers of a bit count. -/
def bitCountRegs : Instr → Option (Fin 64 × Fin 64)
  | .clz d a => some (d, a)
  | .ctz d a => some (d, a)
  | .popc d a => some (d, a)
  | _ => none

/-- The conditions of R82. -/
def condSays (k : Cond) (x y : Word) : Prop :=
  match k with
  | .eq => x = y
  | .ne => x ≠ y
  | .lt => x.toInt < y.toInt
  | .ge => x.toInt ≥ y.toInt
  | .ltn => x.toNat < y.toNat
  | .gen => x.toNat ≥ y.toNat
  | .le => x.toInt ≤ y.toInt
  | .gt => x.toInt > y.toInt
/-- The sources, destination and condition of a compare or a predicate instruction (R82, R84). -/
def pResult (c : Core) : Instr → Option (List Reg × Fin 16 × Prop)
  | .cmp k d a b => some ([.x a.val, .x b.val], d, condSays k (c.rx a) (c.rx b))
  | .cmpi k d a imm => some ([.x a.val], d, condSays k (c.rx a) (wrap64 imm.toInt))
  | .pand d a b => some ([.p a.val, .p b.val], d, c.rp a = true ∧ c.rp b = true)
  | .por d a b => some ([.p a.val, .p b.val], d, c.rp a = true ∨ c.rp b = true)
  | .pxor d a b => some ([.p a.val, .p b.val], d, c.rp a ≠ c.rp b)
  | .pnot d a => some ([.p a.val], d, c.rp a = false)
  | _ => none

/-- The sources, destination and value of an instruction that writes an a-register (R85). -/
def aResult (c : Core) : Instr → Option (List Reg × Fin 16 × Word)
  | .aadd d a imm => some ([.a a.val], d, wrap64 ((c.ra a).toInt + imm.toInt))
  | .amovAX d a => some ([.x a.val], d, c.rx a)
  | _ => none

/-- The exact result of a scalar float instruction in a mode (R87). -/
def floatExact (rm : Rm) (op : Nat) (a b c : FVal) : Exact :=
  match op with
  | 0 => sumVals rm [a, b]
  | 1 => sumVals rm [a, b.negate]
  | 2 => .ofVal (mulVal a b)
  | 3 => sumVals rm [mulVal a b, c]
  | 4 => divExact a b
  | _ => sqrtExact a
/-- The format, latency, destination, mode, operation and operand registers of a scalar float instruction (R87). -/
def floatForm : Instr → Option (FloatFmt × Nat × Fin 64 × Rm × Nat × List (Fin 64))
  | .sfaddF32 rm d a b => some (.f32, 4, d, rm, 0, [a, b])
  | .sfsubF32 rm d a b => some (.f32, 4, d, rm, 1, [a, b])
  | .sfmulF32 rm d a b => some (.f32, 4, d, rm, 2, [a, b])
  | .sfmaF32 rm d a b c => some (.f32, 4, d, rm, 3, [a, b, c])
  | .sfdivF32 rm d a b => some (.f32, 16, d, rm, 4, [a, b])
  | .sfsqrtF32 rm d a => some (.f32, 16, d, rm, 5, [a])
  | .sfaddF64 rm d a b => some (.f64, 4, d, rm, 0, [a, b])
  | .sfsubF64 rm d a b => some (.f64, 4, d, rm, 1, [a, b])
  | .sfmulF64 rm d a b => some (.f64, 4, d, rm, 2, [a, b])
  | .sfmaF64 rm d a b c => some (.f64, 4, d, rm, 3, [a, b, c])
  | .sfdivF64 rm d a b => some (.f64, 16, d, rm, 4, [a, b])
  | .sfsqrtF64 rm d a => some (.f64, 16, d, rm, 5, [a])
  | _ => none
/-- The operand value that register k of a list holds. -/
def floatArg (c : Core) (f : FloatFmt) (rs : List (Fin 64)) (k : Nat) : FVal :=
  match rs[k]? with
  | some r => f.decode ((c.rx r).toNat % 2 ^ (8 * f.bytes))
  | none => .nan
/-- The two formats of SFCVT that R89 allows: 4-byte and 8-byte integers, F16, BF16, F32 and F64. -/
def sfcvtCodes : List Nat := [5, 6, 7, 8, 13, 14, 15, 16]

/-- The bytes of a load and whether it extends the sign; the bytes of a store (R62). -/
def loadSize : LdSize → Nat × Bool
  | .b => (1, false) | .bs => (1, true) | .h => (2, false) | .hs => (2, true) | .w => (4, false) | .ws => (4, true) | .d => (8, false)
def storeSize : StSize → Nat
  | .b => 1 | .h => 2 | .w => 4 | .d => 8
/-- An access of n bytes is aligned and within the scratch boundary S (R86). -/
def scratchOk (c : Core) (addr n : Nat) : Prop := addr % n = 0 ∧ addr + n ≤ c.scrlim
/-- A byte of scratch. -/
def scratchByte (c : Core) (a : Nat) : Byte := memGet c.scratch a

/-- The control and status registers (R74, R75) and the values that their field maps give. -/
def csrValue (s : State) (n : Nat) : Option Word :=
  let c := s.core
  match n with
  | 0x000 => some (if c.sbchk then 1 else 0)
  | 0x001 => some (BitVec.ofNat 64 (s.pkg * 2 ^ 18 + c.id % 8 * 2 ^ 15 + c.id % 48 / 8 * 2 ^ 12 + c.id / 48 * 2 ^ 9 + c.id))
  | 0x002 => some (match c.task with | some t => BitVec.ofNat 64 (t.shape * 2 ^ 3 + t.member) | none => 0)
  | 0x003 => some (match c.task with | some t => BitVec.ofNat 64 (t.ix % 2 ^ 32) | none => 0)
  | 0x004 => some (BitVec.ofNat 64 c.scrlim)
  | 0x005 => some 0x101
  | 0x010 => some (BitVec.ofNat 64 c.cyc)
  | 0x011 => some (BitVec.ofNat 64 c.bundles)
  | 0x012 => some (BitVec.ofNat 64 c.clkstop)
  | 0x013 => some (BitVec.ofNat 64 c.waits)
  | _ => none

/-- A pair of float values is unordered when either is a NaN; the conditions of R88 and R142 on a pair. -/
def fcondSays (k : FCond) (a b : FVal) : Prop :=
  match k with
  | .eq => cmpVal a b = some .eq
  | .ne => cmpVal a b ≠ some .eq
  | .lt => cmpVal a b = some .lt
  | .le => cmpVal a b = some .lt ∨ cmpVal a b = some .eq
  | .gt => cmpVal a b = some .gt
  | .ge => cmpVal a b = some .gt ∨ cmpVal a b = some .eq
  | .un => a = .nan ∨ b = .nan

/-- The tag table lists its valid entries by rising slot. -/
def tagsRise (ts : List (Nat × Word)) : Prop := ts.Pairwise fun a b => a.1 < b.1
/-- What TLOOK answers (R90). -/
def tagAnswer (ts : List (Nat × Word)) (key v : Word) : Prop :=
  (∃ k, (k, key) ∈ ts ∧ v = BitVec.ofNat 64 k ∧ ∀ j, (j, key) ∈ ts → k ≤ j) ∨ ((∀ k, (k, key) ∉ ts) ∧ v = -1)

end Sys2Proof.Machine
end

