-- ==== Sys2Proof/Safety/Control.lean ====
section
/-! DEFINITION. What the control-flow rules give each transfer and loop instruction (R91 to R105). -/
namespace Sys2Proof.Machine

/-- The condition of BR, where the engine does not complete in this cycle (R63, R94). -/
def branchSays (c : Core) : BrSrc → Bool
  | .pred p => c.rp p
  | .mdone => c.eng.done
  | .mfault => c.eng.fault
/-- A transfer's sources, whether it is taken, its target in bytes, its effect on the stacks and its fetch cost when its guard
is true (R92, R95 to R97, R103). -/
def transferForm (c : Core) : Instr → Option (List Reg × Bool × Int × StackAct × Nat)
  | .br src disp hint =>
      some (match src with | .pred p => [.p p.val] | _ => [], branchSays c src, c.iss.addr + 8 * disp.toInt, .leave 0,
        if branchSays c src = hint then 0 else 3)
  | .jmp disp => some ([], true, c.iss.addr + 8 * disp.toInt, .leave 0, 0)
  | .jmpx a => some ([.x a.val], true, 8 * (c.rx a).toNat, .leave 0, 3)
  | .call disp =>
      if c.calls.length < 16 then some ([], true, c.iss.addr + 8 * disp.toInt, .push ⟨c.pastSlots, c.loops.length⟩, 0) else none
  | .ret => match c.calls with | e :: _ => some ([], true, e.addr, .pop, 0) | [] => none
  | .lbreak n disp =>
      if n.val ≤ (c.loops.filter fun l => l.cd = c.calls.length).length then
        some ([], true, c.iss.addr + 8 * disp.toInt, .leave n.val, 0)
      else none
  | _ => none
/-- A branch on a condition, among the instructions. -/
def isBr : Instr → Bool
  | .br .. => true
  | _ => false
/-- The fetch cost of a transfer whose guard is false (R92). -/
def idleCost : Instr → Nat
  | .br _ _ hint => if hint = true then 3 else 0
  | .jmpx _ => 3
  | _ => 0
/-- The guard of the syllable is false, and with the scoreboard on its predicate awaits no result (R43). -/
def guardOff (s : State) : Prop :=
  s.core.iss.guard = false ∧ (s.core.sbchk = true → s.core.pending (.p s.core.iss.gp.val) = false)
/-- A syllable: an instruction that some slot encodes. -/
def isSyllable (i : Instr) : Prop := ∃ slot g w, encodeSyllable slot g i = some w
/-- The furrow accesses of the V slots, whose transfer takes place whatever the guard (R156). -/
def movesFurrow : Instr → Bool
  | .vldf .. => true
  | .vstf .. => true
  | _ => false
/-- The target of a taken transfer lies in the code object (R91). -/
def targetOk (c : Core) (t : Int) : Prop := 0 ≤ t ∧ t < c.codeLen
/-- The end of the innermost body lies within the transfer's bundle or its delay slots (R102). -/
def endsBody (c : Core) : Prop := ∃ l, c.innermost = some l ∧ c.iss.addr ≤ l.e ∧ l.e < c.pastSlots

/-- The sources, count and step word of a loop opener, with its displacement (R100). -/
def loopForm (c : Core) : Instr → Option (List Reg × Nat × Word × BitVec 32)
  | .loop n disp => some ([], n.toNat, 0, disp)
  | .loopx a disp => some ([.x a.val, .x (a.val + 1)], (c.rx a).toNat, c.rx (xPlus a 1), disp)
  | _ => none
/-- The end of the body that a loop opener names. -/
def bodyEnd (c : Core) (disp : BitVec 32) : Nat := (c.iss.addr + 8 * disp.toInt).toNat

/-! ### The loop sequencer (R98 to R102) -/

/-- What entry k of a step word adds to a[r] (R99), where `amount` gives what an enabled entry adds from its rewind bit and stride. -/
def entryAdds (sw : Word) (amount : Bool → Int → Int) (r : Fin 16) (k : Nat) : Int :=
  let e := sw.toNat / 2 ^ (32 * k)
  if e % 2 = 1 ∧ e / 4 % 16 = r.val then amount (decide (e / 2 % 2 = 1)) (BitVec.ofNat 26 (e / 64)).toInt else 0
/-- What both entries add. -/
def stepAdds (sw : Word) (amount : Bool → Int → Int) (r : Fin 16) : Int := entryAdds sw amount r 0 + entryAdds sw amount r 1
/-- What a level adds to a[r] on a loop-back, on its exit at the end of its body, and where control flow leaves it (R101, R102). -/
def backAdds (l : Level) (r : Fin 16) : Int := stepAdds l.sw (fun _ n => n) r
def exitAdds (l : Level) (r : Fin 16) : Int := stepAdds l.sw (fun rw n => if rw = true then -(n * l.lc) else n) r
def leaveAdds (l : Level) (r : Fin 16) : Int := stepAdds l.sw (fun rw n => if rw = true then -(n * l.lc) else 0) r
/-- The core but for its a-registers, levels, call stack and stream position. -/
def sameButStream (c d : Core) : Prop :=
  { d with a := c.a, loops := c.loops, calls := c.calls, pc := c.pc, nextPc := c.nextPc, redirect := c.redirect, nextIss := c.nextIss } =
    { c with justIss := false }
/-- The a-registers of `d` are those of `c` with amounts added (Wrap64). -/
def aMoved (c d : Core) (n : Fin 16 → Int) : Prop := ∀ r, d.a.get r = wrap64 ((c.a.get r).toInt + n r)
/-- No body ends at the bundle just issued. -/
def noEnd (c : Core) : Prop := ∀ l, c.innermost = some l → l.e ≠ c.iss.addr

/-! ### FIRST and LAST (R40) -/

/-- The loop level that a test names, and whether it lets the bundle issue on an iteration of it. -/
def testLevel : LevelTest → Option Nat
  | .none => none
  | .first l => some l.val
  | .last l => some l.val
  | .both l => some l.val
def testSays (t : LevelTest) (l : Level) : Prop :=
  match t with
  | .none => True
  | .first _ => l.lc = 0
  | .last _ => l.lc + 1 = l.n
  | .both _ => l.lc = 0 ∧ l.lc + 1 = l.n
/-- Level k from 0, the outermost. -/
def levelNo (c : Core) (k : Nat) : Option Level := c.loops.reverse[k]?
/-- The bundle's test lets it issue. -/
def testPasses (c : Core) (t : LevelTest) : Prop := ∀ k, testLevel t = some k → ∃ l, levelNo c k = some l ∧ testSays t l

end Sys2Proof.Machine
end

