-- ==== Sys2Proof/Safety/Vector.lean ====
section
/-! DEFINITION. What the vector rules give each instruction of the V slots, element by element (R126 to R168). -/
namespace Sys2Proof.Machine

/-- The result of a write of v[D], and of m[D]. -/
def givesV (c : Core) (lat : Nat) (d : Fin 32) (r : VReg) : List InFlight := [⟨c.cyc + lat - 1, .v d r⟩]
def givesM (c : Core) (lat : Nat) (d : Fin 8) (b : MBits) : List InFlight := [⟨c.cyc + lat - 1, .m d b⟩]

/-- A mask operand makes its register a source, and under merge the old destination too (R129). -/
def maskReads (k : MaskOp) (d : Reg) : List Reg :=
  match k with
  | .all => []
  | .mask m z => if z then [.m m.val] else [.m m.val, d]
def maskReadsO : Option (Fin 8) → List Reg
  | none => []
  | some m => [.m m.val]

/-- A register whose tag is well formed: no poison bit, no reserved code, no scale on an unscaled format (R109, R131). -/
def tagOk (t : Tag) : Prop :=
  t.poison = false ∧ t.fmt ≠ fmtPoison ∧ fmtKind t.fmt ≠ .reserved ∧ ((fmtKind t.fmt).scaled = true ∨ t.scale = 0)
/-- The same for a carrying instruction, which takes the poison bit along. -/
def tagCarries (t : Tag) : Prop :=
  t.fmt ≠ fmtPoison ∧ fmtKind t.fmt ≠ .reserved ∧ ((fmtKind t.fmt).scaled = true ∨ t.scale = 0)
/-- Under merge the old destination has the result's format and scale (R129). -/
def mergeOk (c : Core) (k : MaskOp) (d : Fin 32) (fmt : Fmt) (scale : BitVec 8) : Prop :=
  ∀ m, k = .mask m false → (c.rv d).tag.fmt = fmt ∧ (c.rv d).tag.scale = scale

/-- The poison bit of the old destination stays in a merged result. -/
def mergedPoison (c : Core) (k : MaskOp) (d : Fin 32) : Bool :=
  match k with
  | .mask _ false => (c.rv d).tag.poison
  | _ => false
/-- An element that a mask does not select: the old one under merge, else 0 (R129). -/
def unselected (c : Core) (k : MaskOp) (d : Fin 32) (w e : Nat) : Nat :=
  match k with
  | .mask _ false => bitsAt (c.rv d).data w e
  | _ => 0
/-- Whether a mask operand selects element e of w bytes: the bit of its lowest byte (R129). -/
def selects (c : Core) (k : MaskOp) (w e : Nat) : Bool :=
  match k with
  | .all => true
  | .mask m _ => (c.rm m).getLsbD (w * e)
def selectsO (c : Core) (k : Option (Fin 8)) (w e : Nat) : Bool :=
  match k with
  | none => true
  | some m => (c.rm m).getLsbD (w * e)
/-- A register holds, in elements of w bytes, the given patterns where the mask selects, and what R129 keeps elsewhere. -/
def holds (c : Core) (k : MaskOp) (d : Fin 32) (w : Nat) (r : VReg) (el : Nat → Nat) : Prop :=
  ∀ e, e < 512 / w → bitsAt r.data w e = if selects c k w e = true then el e % 2 ^ (8 * w) else unselected c k d w e

/-- The pattern of a result: an integer wraps, a real is rounded once under A's scale (R128, R135). -/
def encAs (v : VReg) (rm : Rm) (x : Int) (y : Exact) : Nat :=
  match fmtKind v.tag.fmt with
  | .int _ n => (x % 2 ^ (8 * n)).toNat
  | .flt f => roundTo f rm v.tag.scale.toInt y
  | _ => 0
/-- Integer and float formats; float formats alone; all but the unsigned ones. -/
def numbers (k : FmtKind) : Bool := match k with | .int _ _ => true | .flt _ => true | _ => false
def floats (k : FmtKind) : Bool := match k with | .flt _ => true | _ => false
def signedOrFloat (k : FmtKind) : Bool := match k with | .int s _ => s | .flt _ => true | _ => false
/-- The latency of R134's first row. -/
def latNum (v : VReg) : Nat := match fmtKind v.tag.fmt with | .int _ _ => 2 | _ => 4
/-- The lesser or the greater element by value; A's where neither is beyond the other; the canonical NaN with a NaN (R140). -/
def extremum (lo : Bool) (va vb : VReg) (e : Nat) : Nat :=
  match fmtKind va.tag.fmt with
  | .flt f =>
    if va.val e = .nan ∨ vb.val e = .nan then f.nanCode
    else if orderZ (va.val e) (vb.val e) = some (if lo then .gt else .lt) then roundTo f .rne va.tag.scale.toInt (.ofVal (vb.val e))
    else if f = .t6 then va.bits e % 64 else va.bits e
  | _ => if (if lo then vb.int e < va.int e else va.int e < vb.int e) then vb.bits e else va.bits e

/-- An arithmetic instruction's destination, first source, further sources, mask, formats, latency and elements (R136 to R140);
the patterns of one register are read as R135 reads them. -/
structure VForm where
  d    : Fin 32
  a    : Fin 32
  rest : List (Fin 32)
  k    : MaskOp
  ok   : FmtKind → Bool
  lat  : Nat
  el   : Nat → Nat
def arithForm (c : Core) : Instr → Option VForm
  | .vadd rm d a b k => let x := c.rv a; let y := c.rv b
      some ⟨d, a, [b], k, numbers, latNum x, fun e => encAs x rm (x.int e + y.int e) (sumVals rm [x.val e, y.val e])⟩
  | .vsub rm d a b k => let x := c.rv a; let y := c.rv b
      some ⟨d, a, [b], k, numbers, latNum x, fun e => encAs x rm (x.int e - y.int e) (sumVals rm [x.val e, (y.val e).negate])⟩
  | .vmul rm d a b k => let x := c.rv a; let y := c.rv b
      some ⟨d, a, [b], k, numbers, latNum x, fun e => encAs x rm (x.int e * y.int e) (.ofVal (mulVal (x.val e) (y.val e)))⟩
  | .vdiv rm d a b k => let x := c.rv a; let y := c.rv b
      some ⟨d, a, [b], k, numbers, 14, fun e =>
        encAs x rm (if y.int e = 0 then -1 else (x.int e).tdiv (y.int e)) (divExact (x.val e) (y.val e))⟩
  | .vfma rm d a b z k => let x := c.rv a; let y := c.rv b; let w := c.rv z
      some ⟨d, a, [b, z], k, numbers, latNum x, fun e =>
        encAs x rm (x.int e * y.int e + w.int e) (sumVals rm [mulVal (x.val e) (y.val e), w.val e])⟩
  | .vfms rm d a b z k => let x := c.rv a; let y := c.rv b; let w := c.rv z
      some ⟨d, a, [b, z], k, numbers, latNum x, fun e =>
        encAs x rm (x.int e * y.int e - w.int e) (sumVals rm [mulVal (x.val e) (y.val e), (w.val e).negate])⟩
  | .vfnma rm d a b z k => let x := c.rv a; let y := c.rv b; let w := c.rv z
      some ⟨d, a, [b, z], k, numbers, latNum x, fun e =>
        encAs x rm (w.int e - x.int e * y.int e) (sumVals rm [(mulVal (x.val e) (y.val e)).negate, w.val e])⟩
  | .vsqrt rm d a k => let x := c.rv a
      some ⟨d, a, [], k, floats, 14, fun e => encAs x rm 0 (sqrtExact (x.val e))⟩
  | .vmin d a b k => let x := c.rv a; let y := c.rv b
      if x.tag.scale = y.tag.scale then none else some ⟨d, a, [b], k, numbers, 2, fun e => extremum true x y e⟩
  | .vmax d a b k => let x := c.rv a; let y := c.rv b
      if x.tag.scale = y.tag.scale then none else some ⟨d, a, [b], k, numbers, 2, fun e => extremum false x y e⟩
  | _ => none
/-- VMIN and VMAX of registers of one scale choose one of the two patterns (R140). -/
def choice (lo : Bool) (va vb : VReg) (e : Nat) : Nat :=
  let pick (v : VReg) : Nat := if v.tag.fmt = fmtT6 then v.bits e % 64 else v.bits e
  match fmtKind va.tag.fmt with
  | .flt f =>
    if va.val e = .nan ∨ vb.val e = .nan then f.nanCode
    else if orderZ (va.val e) (vb.val e) = some (if lo then .gt else .lt) then pick vb else pick va
  | _ => if (if lo then vb.int e < va.int e else va.int e < vb.int e) then vb.bits e else va.bits e
/-- The sign of a float pattern; a NaN becomes the canonical NaN, and a tapered 0 has no sign (R141). -/
def signed (f : FloatFmt) (code : Nat) (neg : Bool) : Nat :=
  let mag := code % 2 ^ f.mBits
  if f.decode code = .nan then f.nanCode
  else if f.tapered && mag = 0 then 0
  else if neg then mag + 2 ^ f.mBits else mag
/-- VMIN, VMAX of one scale, VABS, VNEG and VCPS (R140, R141). -/
def signForm (c : Core) : Instr → Option VForm
  | .vmin d a b k => let x := c.rv a; let y := c.rv b
      if x.tag.scale = y.tag.scale then some ⟨d, a, [b], k, numbers, 2, fun e => choice true x y e⟩ else none
  | .vmax d a b k => let x := c.rv a; let y := c.rv b
      if x.tag.scale = y.tag.scale then some ⟨d, a, [b], k, numbers, 2, fun e => choice false x y e⟩ else none
  | .vabs d a k => let x := c.rv a
      some ⟨d, a, [], k, numbers, 2, fun e => match fmtKind x.tag.fmt with
        | .flt f => signed f (x.bits e) false
        | _ => ((x.int e).natAbs : Nat)⟩
  | .vneg d a k => let x := c.rv a
      some ⟨d, a, [], k, numbers, 2, fun e => match fmtKind x.tag.fmt with
        | .flt f => signed f (x.bits e) ((x.bits e).testBit f.mBits = false)
        | _ => (-(x.int e) % 2 ^ (8 * x.w)).toNat⟩
  | .vcps d a b k => let x := c.rv a; let y := c.rv b
      some ⟨d, a, [b], k, signedOrFloat, 2, fun e => match fmtKind x.tag.fmt with
        | .flt f => if f.tapered && f.decode (y.bits e) = .nan then f.nanCode else signed f (x.bits e) ((y.bits e).testBit f.mBits)
        | _ => ((if y.int e < 0 then -((x.int e).natAbs : Int) else ((x.int e).natAbs : Int)) % 2 ^ (8 * x.w)).toNat⟩
  | _ => none

/-- A function of R138 or R167: its destination, source, mask, mode, latency by element size, and whether it takes only F32. -/
def functionForm : Instr → Option (Fin 32 × Fin 32 × MaskOp × Rm × Bool)
  | .vrcp rm d a k => some (d, a, k, rm, true)
  | .vrsq rm d a k => some (d, a, k, rm, true)
  | .vexp rm d a k => some (d, a, k, rm, false)
  | .vexp2 rm d a k => some (d, a, k, rm, false)
  | .vlog rm d a k => some (d, a, k, rm, false)
  | .vlog2 rm d a k => some (d, a, k, rm, false)
  | .vtanh rm d a k => some (d, a, k, rm, false)
  | .vsigm rm d a k => some (d, a, k, rm, false)
  | .verf rm d a k => some (d, a, k, rm, false)
  | .vsin rm d a k => some (d, a, k, rm, false)
  | .vcos rm d a k => some (d, a, k, rm, false)
  | _ => none
/-- The results that R124 and R138 fix: for a NaN, for the infinities and for the zeros, as pattern over a float format. -/
def special (i : Instr) (x : FVal) : Option Exact :=
  let one := Exact.dy false 1 0
  match x with
  | .nan => some .nan
  | .inf n => match i with
    | .vrcp .. => some (.zero n)
    | .vrsq .. => some (if n then .nan else .zero false)
    | .vexp .. => some (if n then .zero false else .inf false)
    | .vexp2 .. => some (if n then .zero false else .inf false)
    | .vlog .. => some (if n then .nan else .inf false)
    | .vlog2 .. => some (if n then .nan else .inf false)
    | .vtanh .. => some (.dy n 1 0)
    | .vsigm .. => some (if n then .zero false else one)
    | .verf .. => some (.dy n 1 0)
    | .vsin .. => some .nan
    | .vcos .. => some .nan
    | _ => none
  | .fin n m _ => if m ≠ 0 then none else match i with
    | .vrcp .. => some (.inf n)
    | .vrsq .. => some (.inf n)
    | .vexp .. => some one
    | .vexp2 .. => some one
    | .vlog .. => some (.inf true)
    | .vlog2 .. => some (.inf true)
    | .vtanh .. => some (.zero n)
    | .vsigm .. => some (.dy false 1 (-1))
    | .verf .. => some (.zero n)
    | .vsin .. => some (.zero n)
    | .vcos .. => some one
    | _ => none

/-- The bitwise instructions of two registers (R145), as operations on numbers. -/
def bitForm : Instr → Option (Fin 32 × Fin 32 × Fin 32 × MaskOp × (Nat → Nat → Nat))
  | .vand d a b k => some (d, a, b, k, fun x y => x &&& y)
  | .vor d a b k => some (d, a, b, k, fun x y => x ||| y)
  | .vxor d a b k => some (d, a, b, k, fun x y => x ^^^ y)
  | _ => none
/-- The tag of a bitwise result (R145): that of the register that is not RAW. -/
def bitTag (x y : Tag) : Tag :=
  if x.fmt = fmtRaw then { y with poison := x.poison || y.poison } else { x with poison := x.poison || y.poison }
/-- The shifts (R146) on patterns of n bits. -/
def shiftForm : Instr → Option (Fin 32 × Fin 32 × Fin 32 × MaskOp × (Nat → Nat → Nat → Nat))
  | .vshl d a b k => some (d, a, b, k, fun _ x j => x * 2 ^ j)
  | .vshr d a b k => some (d, a, b, k, fun _ x j => x / 2 ^ j)
  | .vsra d a b k => some (d, a, b, k, fun n x j => ((if x < 2 ^ (n - 1) then (x : Int) else x - 2 ^ n) / 2 ^ j % 2 ^ n).toNat)
  | _ => none

/-- The latency of a result that the system cores may have computed: written at the end of the replay cycle then (R303). -/
def latIf (c : Core) (n : Nat) : Nat := if c.iss.emul then 1 else n
/-- The registers that an element-wise form reads (R38, R129). -/
def VForm.reads (f : VForm) : List Reg := .v f.a.val :: f.rest.map (fun r => .v r.val) ++ maskReads f.k (.v f.d.val)
/-- When an element-wise form runs: every source well tagged and of A's format, the format one it takes, T16 only as the system
cores compute it, and the merge rule (R127, R129, R131, R132). -/
def VForm.runs (c : Core) (f : VForm) : Prop :=
  (∀ r ∈ f.a :: f.rest, tagOk (c.rv r).tag ∧ (c.rv r).tag.fmt = (c.rv f.a).tag.fmt) ∧ f.ok (fmtKind (c.rv f.a).tag.fmt) = true ∧
  (fmtKind (c.rv f.a).tag.fmt = .flt .t16 → c.iss.emul = true) ∧ mergeOk c f.k f.d (c.rv f.a).tag.fmt (c.rv f.a).tag.scale
/-- The first cause of an element-wise form in R132's order. -/
def VForm.cause (c : Core) (f : VForm) : Option Cause :=
  let rs := (f.a :: f.rest).map fun r => (c.rv r).tag
  let t := (c.rv f.a).tag
  let scale := if (fmtKind t.fmt).scaled then t.scale else 0
  let badMerge := match f.k with
    | .mask _ false => decide ((c.rv f.d).tag.fmt ≠ t.fmt ∨ (c.rv f.d).tag.scale ≠ scale)
    | _ => false
  if rs.any (fun t => t.poison || decide (t.fmt = fmtPoison)) then some .poison
  else if rs.any (fun t => decide (fmtKind t.fmt = .reserved)) then some .formatReserved
  else if rs.any (fun u => decide (u.fmt ≠ t.fmt) || (!(fmtKind u.fmt).scaled && decide (u.scale ≠ 0))) || !f.ok (fmtKind t.fmt) ||
      badMerge then some .formatMismatch
  else if fmtKind t.fmt = .flt .t16 ∧ c.iss.emul = false then some .formatEmulate
  else none

/-- The access of a vector syllable to scratch joins its port's work: from the slot's first phase after the issue, with that phase
or the one after it as its deadline (R152). -/
def portWork (c : Core) (second : Bool) (gs : List Nat) : List PortJob :=
  let first := nextPhase c.cyc (if c.iss.slot = .v1 then 1 else 0)
  [⟨c.iss.slot = .v1, first, if second then first + 4 else first, bankCounts gs⟩]
/-- The address of a vector access and its size in scratch (R154): 384 bytes for T6, else 512. -/
def vAddr (c : Core) (base : Fin 16) (ofs : BitVec 19) : Nat := (c.ra base).toNat + ofs.toNat
def vSize (t : Tag) : Nat := if t.fmt = fmtT6 then 384 else 512
/-- A vector access is 32-byte aligned and within S (R154). -/
def vInScratch (c : Core) (addr n : Nat) : Prop := addr % 32 = 0 ∧ addr + n ≤ c.scrlim
/-- The pattern of element e that scratch holds at an address under a format (R115, R154). -/
def scratchElem (c : Core) (t : Tag) (addr e : Nat) : Nat :=
  if t.fmt = fmtT6 then memRead c.scratch addr 384 / 2 ^ (6 * e) % 64
  else memRead c.scratch (addr + (fmtKind t.fmt).bytes * e) (fmtKind t.fmt).bytes
/-- Whether a marked line holds a byte of element e (R153). -/
def elemMarked (c : Core) (t : Tag) (addr e : Nat) : Bool :=
  let lo := if t.fmt = fmtT6 then 6 * e / 8 else (fmtKind t.fmt).bytes * e
  let hi := if t.fmt = fmtT6 then (6 * e + 5) / 8 else (fmtKind t.fmt).bytes * (e + 1) - 1
  (List.range 4096).any fun l => c.marks.getLsbD l && decide ((addr + lo) / 128 ≤ l) && decide (l ≤ (addr + hi) / 128)
/-- The tag that a load works under: RAW for a register tagged POISON (R154). -/
def loadedTag (t : Tag) : Tag := if t.fmt = fmtPoison then ⟨fmtRaw, 0, false⟩ else t
/-- What a load leaves in v[D] (R153, R154). -/
def loadLeaves (c : Core) (k : MaskOp) (d : Fin 32) (addr : Nat) (r : VReg) : Prop :=
  let t := loadedTag (c.rv d).tag
  let w := (fmtKind t.fmt).bytes
  r.tag.fmt = t.fmt ∧ r.tag.scale = t.scale ∧ holds c k d w r (scratchElem c t addr) ∧
  r.tag.poison = (mergedPoison c k d || (List.range (512 / w)).any fun e => selects c k w e && elemMarked c t addr e)
/-- A byte that the effects of a bundle leave at an address, if they write it. -/
def fxByte (fs : List EndEffect) (a : Nat) : Option Byte :=
  fs.foldl (fun v f => match f with | .bytes b bs => if b ≤ a ∧ a < b + bs.length then bs[a - b]? else v | _ => v) none
/-- The mark that the effects of a bundle leave on a line, if they change it. -/
def fxMark (fs : List EndEffect) (l : Nat) : Option Bool :=
  fs.foldl (fun v f => match f with | .mark k on => if k = l then some on else v | _ => v) none
/-- What the effects of a bundle leave in the scoreboard switch, in a landing slot and in an h-register, if they set it. -/
def fxSbchk (fs : List EndEffect) : Option Bool := fs.foldl (fun v f => match f with | .sbchk on => some on | _ => v) none
def fxSlot (fs : List EndEffect) (q : Fin 16) : Option QSlot :=
  fs.foldl (fun v f => match f with | .named k x => if k = q then some x else v | _ => v) none
def fxHandle (fs : List EndEffect) (h : Fin 16) : Option HReg :=
  fs.foldl (fun v f => match f with | .hreg k x => if k = h then some x else v | _ => v) none
/-- A furrow after one effect (R213, R270): slots filled, slots free again, the claims at the front that are written counted as filled,
or the furrow as a task starts with it. -/
def furrowAfter (i : Fin 32) (g : Furrow) : EndEffect → Furrow
  | .fill f n => if f = i then { g with filled := g.filled + n } else g
  | .release f n => if f = i then { g with free := g.free + n } else g
  | .settle f =>
    if f = i then
      let k := (g.claims.takeWhile fun x => x.done).length
      { g with claims := g.claims.drop k, filled := g.filled + k }
    else g
  | .finit f =>
    if f = i then { g with
      filled := 0, free := g.count, prod := if g.remote = true then 5 else 0, cons := 0, pbnd := false, pcore := 0, tail := 0, head := 0
      vrd := 0, vwr := 0, claims := [], taken := [] }
    else g
  | _ => g

/-- What a store of register `v` leaves in scratch (R153, R154): no byte outside its access; each selected element's bits, zeros or
the old bits for the others; and a mark set for each line a poisoned register writes in, cleared for each line a clean one writes
whole. -/
def storeLeaves (c : Core) (v : VReg) (addr : Nat) (sel : Nat → Bool) (zero : Bool) (fs : List EndEffect) : Prop :=
  let b := if v.tag.fmt = fmtT6 then 6 else 8 * v.w
  (∀ a, a < addr ∨ addr + vSize v.tag ≤ a → fxByte fs a = none) ∧
  (∀ e j, e < 512 / v.w → j < b →
    let p := b * e + j
    let old := scratchByte c (addr + p / 8)
    ((fxByte fs (addr + p / 8)).getD old).getLsbD (p % 8) =
      if sel e = true then (v.bits e).testBit j else if zero = true then false else old.getLsbD (p % 8)) ∧
  (∀ l, let any := (List.range 128).any fun j => (fxByte fs (128 * l + j)).isSome
    let whole := (List.range 128).all fun j => (fxByte fs (128 * l + j)).isSome
    fxMark fs l = if v.tag.poison = true then (if any = true then some true else none) else if whole = true then some false else none)

/-- A furrow slot's address, and the slot after one in the circle (R210). -/
def slotAddr (f : Furrow) (k : Nat) : Nat := f.base + f.slotsz * k
def nextSlot (f : Furrow) (k : Nat) : Nat := (k + 1) % f.count
/-- The V slots may take from, or give to, a furrow in accesses of n bytes (R155, R211). -/
def vConsumes (f : Furrow) (n : Nat) : Prop := f.init = true ∧ (f.cons = 0 ∨ f.cons = 2) ∧ f.slotsz % n = 0 ∧ f.count ≠ 0
def vProduces (f : Furrow) (n : Nat) : Prop := f.init = true ∧ (f.prod = 0 ∨ f.prod = 2) ∧ f.slotsz % n = 0 ∧ f.count ≠ 0
/-- A furrow after VLDF and after VSTF of n bytes (R155). -/
def afterTake (f : Furrow) (n : Nat) : Furrow :=
  if f.slotsz ≤ f.vrd + n then { f with cons := 2, vrd := 0, filled := f.filled - 1, head := nextSlot f f.head }
  else { f with cons := 2, vrd := f.vrd + n }
def afterGive (f : Furrow) (n : Nat) : Furrow :=
  let g := if f.vwr = 0 then { f with free := f.free - 1, tail := nextSlot f f.tail } else f
  { g with prod := 2, vwr := if f.slotsz ≤ f.vwr + n then 0 else f.vwr + n }
/-- The slot that VSTF writes: the one it claims, or the one claimed before. -/
def giveSlot (f : Furrow) : Nat := if f.vwr = 0 then f.tail else (f.tail + (f.count - 1)) % f.count

/-- The offsets of a gather or scatter are whole elements within S (R157). -/
def offsetsOk (c : Core) (offs : VReg) (w n : Nat) (sel : Nat → Bool) : Prop :=
  ∀ e, e < n → sel e = true → offs.bits e % w = 0 ∧ offs.bits e + w ≤ c.scrlim
/-- The element bytes and the number of elements of a gather (R157). -/
def gatherShape : GSize → Nat × Nat
  | .b => (1, 128) | .h => (2, 128) | .w => (4, 128) | .d => (8, 64)
/-- The granules that the selected offsets touch. -/
def gatherWork (offs : VReg) (n : Nat) (sel : Nat → Bool) : List Nat := ((List.range n).filter sel).map fun e => offs.bits e / 32
/-- Whether a marked line holds a byte at an aligned place of at most 8 bytes. -/
def placeMarked (c : Core) (a : Nat) : Bool := c.marks.getLsbD (a / 128)

/-- The best of some elements by R140's order, at a place: the first NaN if there is one, else the lowest place of the least or
greatest value (R159). -/
def bestAt (lo : Bool) (v : VReg) (is : List Nat) (i : Nat) : Prop :=
  i ∈ is ∧ (v.val i = .nan ∧ (∀ j ∈ is, v.val j = .nan → i ≤ j) ∨
    (∀ j ∈ is, v.val j ≠ .nan) ∧ ∀ j ∈ is, orderZ (v.val i) (v.val j) ≠ some (if lo then .gt else .lt) ∧
      (orderZ (v.val i) (v.val j) = some .eq → i ≤ j))
/-- The pattern of a reduction of some elements (R159). -/
def reduceSays (op : VScanOp) (rm : Rm) (v : VReg) (is : List Nat) (code : Nat) : Prop :=
  match op with
  | .sum => code = encAs v rm (is.map v.int).sum (sumVals rm (is.map v.val))
  | op =>
    let lo := decide (op = .min)
    (is = [] → code = match v.kind with
      | .int s n => ((if lo then intMax s n else intMin s n) % 2 ^ (8 * n)).toNat
      | .flt f => if f.tapered then f.maxMag + (if lo then 0 else 2 ^ f.mBits) else f.infCode (!lo)
      | _ => 0) ∧
    (is ≠ [] → ∃ i, bestAt lo v is i ∧ code = match v.kind with
      | .flt f => if v.val i = .nan then f.nanCode else if f = .t6 then v.bits i % 64 else v.bits i
      | _ => v.bits i)
def redOp : VRedOp → VScanOp
  | .sum => .sum | .min => .min | .max => .max | .argmax => .max | .argmin => .min

/-- A CRC over bits, most significant first, with the polynomial of ECMA-182 (R166). -/
def crcBits (r : Word) (bs : List Bool) : Word :=
  bs.foldl (fun r b => if (r.getLsbD 63 != b) = true then (r <<< 1) ^^^ 0x42F0E1EBA9EA3693#64 else r <<< 1) r
/-- The bits of a byte from the top. -/
def bitsDown (b : Nat) : List Bool := (List.range 8).map fun k => b.testBit (7 - k)
/-- The bits that VHASH takes from the selected elements (R166). -/
def hashBits (v : VReg) (sel : Nat → Bool) : List Bool :=
  (((List.range (512 / v.w)).filter sel).map fun e => ((List.range v.w).map fun j => bitsDown (v.bits e / 256 ^ j % 256)).flatten).flatten

/-! ### Conversions, classes, patterns and random vectors (R110, R116, R121, R143, R150, R162) -/

/-- RoundToInt(mode, num / d) (R116). -/
def intRound (rm : Rm) (num : Int) (d : Nat) : Int :=
  let q := num / d
  let r := num % d
  if r = 0 then q
  else match rm with
    | .rdn => q
    | .rup => q + 1
    | .rtz => if num < 0 then q + 1 else q
    | .odd => if q % 2 = 1 then q else q + 1
    | .rne => if 2 * r < d then q else if (d : Int) < 2 * r then q + 1 else if q % 2 = 0 then q else q + 1
    | .rna => if 2 * r < d then q else if (d : Int) < 2 * r then q + 1 else if num < 0 then q else q + 1
/-- The ends of an integer format of n bytes (R110). -/
def intLow (sg : Bool) (n : Nat) : Int := if sg = true then -2 ^ (8 * n - 1) else 0
def intHigh (sg : Bool) (n : Nat) : Int := if sg = true then 2 ^ (8 * n - 1) - 1 else 2 ^ (8 * n) - 1
/-- The integer that a value converts to (R121): the nearest of the format, 0 from a NaN. -/
def intOf (sg : Bool) (n : Nat) (rm : Rm) : FVal → Int
  | .nan => 0
  | .inf neg => if neg = true then intLow sg n else intHigh sg n
  | .fin neg m e =>
    let mag : Int := (m * 2 ^ e.toNat : Nat)
    let z := intRound rm (if neg = true then -mag else mag) (2 ^ (-e).toNat)
    if z < intLow sg n then intLow sg n else if intHigh sg n < z then intHigh sg n else z
/-- R121's table: a source value converted to a format's code. -/
def convertSays (dst : FmtKind) (rm : Rm) (v : FVal) (code : Nat) : Prop :=
  (∀ f, dst = .flt f → code = roundTo f rm 0 (.ofVal v)) ∧
  ∀ sg n, dst = .int sg n → (code : Int) = intOf sg n rm v % 2 ^ (8 * n)
/-- The classes of R143 by their bit. -/
def inClass (k : FmtKind) (code : Nat) (b : Nat) : Prop :=
  let v := valOf k 0 code
  match b with
  | 0 => v = .nan
  | 1 => v = .inf true
  | 2 => ∃ m e, v = .fin true m e ∧ m ≠ 0
  | 3 => ∃ neg e, v = .fin neg 0 e
  | 4 => ∃ m e, v = .fin false m e ∧ m ≠ 0
  | 5 => v = .inf false
  | _ => ∃ f, k = .flt f ∧ f.tapered = false ∧ code % 2 ^ f.mBits ≠ 0 ∧ code % 2 ^ f.mBits / 2 ^ f.fBits = 0
/-- The pattern that VMOVI writes in every element (R150). -/
def immPattern (fmt : Fmt) (imm : BitVec 32) : Nat :=
  match fmtKind fmt with
  | .int sg n => if n = 8 ∧ sg = true then (imm.signExtend 64).toNat else imm.toNat % 2 ^ (8 * n)
  | .flt .t6 => imm.toNat % 64
  | .flt .f64 => roundTo .f64 .rne 0 (.ofVal (FloatFmt.f32.decode imm.toNat))
  | k => imm.toNat % 2 ^ (8 * k.bytes)
/-- One round of Philox-4x32 on a counter of four words, under the keys of round r (R162). -/
def philoxRound (k0 k1 : Nat) (c : List Nat) (r : Nat) : List Nat :=
  let w (k : Nat) : Nat := c.getD k 0
  let p0 := 0xD2511F53 * w 0
  let p1 := 0xCD9E8D57 * w 2
  let a := (k0 + r * 0x9E3779B9) % 2 ^ 32
  let b := (k1 + r * 0xBB67AE85) % 2 ^ 32
  [p1 / 2 ^ 32 ^^^ w 1 ^^^ a, p1 % 2 ^ 32, p0 / 2 ^ 32 ^^^ w 3 ^^^ b, p0 % 2 ^ 32]
/-- The four words that counter m gives. -/
def philoxWords (k0 k1 m : Nat) : List Nat :=
  (List.range 10).foldl (philoxRound k0 k1) [m % 2 ^ 32, m / 2 ^ 32 % 2 ^ 32, 0, 0]

end Sys2Proof.Machine
end

