-- ==== Sys2Proof/Safety/Matrix.lean ====
section
/-! DEFINITION. What the matrix rules give each M-slot instruction, each microword and each step of the engine (R169 to R193). -/
namespace Sys2Proof.Machine

/-! ### Captured parameters (R169, R172, R175) -/

/-- Bits [lo + n - 1 : lo] of a parameter register. -/
def bitField (w : Word) (lo n : Nat) : Nat := w.toNat / 2 ^ lo % 2 ^ n
/-- R169's table: Kb and the accumulator of a pair of format codes. -/
def pairTable (a b : Nat) : Option (Nat × BankFmt) :=
  if a = 1 ∧ b = 1 then some (256, .i32)
  else if a ∈ [9, 10, 11, 12] ∧ b ∈ [9, 10, 11, 12] then some (256, .f32)
  else if (a = 13 ∧ b = 13) ∨ (a = 14 ∧ b = 14) then some (128, .f32)
  else if a = 15 ∧ b = 15 then some (64, .f32)
  else if a = 16 ∧ b = 16 then some (32, .f64)
  else none
/-- The captured formats, by their codes. -/
def codeA (mp : Vector Word 8) : Nat := bitField (mp.get 0) 38 5
def codeB (mp : Vector Word 8) : Nat := bitField (mp.get 3) 0 5
/-- What MCALL asks of the captured fields beside the pair of formats (R175). -/
def fieldsOk (mp : Vector Word 8) : Prop :=
  let m0 := mp.get 0
  let m1 := mp.get 1
  let m2 := mp.get 2
  let m3 := mp.get 3
  let conv := bitField m0 51 1 = 1
  bitField m0 52 12 = 0 ∧ bitField m2 44 20 = 0 ∧ bitField m3 32 32 = 0 ∧
  (codeA mp ∉ [9, 10, 11, 12] → bitField m0 43 8 = 0) ∧ (codeB mp ∉ [9, 10, 11, 12] → bitField m3 5 8 = 0) ∧
  bitField m0 0 19 % 32 = 0 ∧ bitField m0 19 19 % 32 = 0 ∧ bitField m3 13 19 % 32 = 0 ∧
  (¬ conv → m1 = 0 ∧ m2 = 0) ∧
  (conv → bitField m1 24 16 ≠ 0 ∧ bitField m1 12 12 ≠ 0 ∧ bitField m1 0 12 ≠ 0 ∧ bitField m2 8 12 ≠ 0 ∧ bitField m0 19 19 = 0)
/-- The captured values that MCALL accepts (R175), for formats the hardware runs itself. -/
def captureOk (mp : Vector Word 8) : Prop := (pairTable (codeA mp) (codeB mp)).isSome = true ∧ fieldsOk mp
/-- The engine with work given to it (R175, R176): active from its issue cycle, or pending. -/
def given (e : Engine) (w : Work) : Engine :=
  match e.active with
  | none => { e with active := some w, wait := 9, done := false }
  | some _ => { e with pending := some w, done := false }
/-- The engine takes further work (R175, R176). -/
def takesWork (e : Engine) : Prop := e.fault = false ∧ e.pending = none

/-- The bits of mp[P] outside its reserved fields (R172). -/
def mpFieldBits (p : Fin 8) : Nat := if p = 0 then 52 else if p = 2 then 44 else if p = 3 then 32 else if p = 7 then 19 else 64

/-! ### MSTAT (R180) -/

def bankBits : BankFmt → Nat
  | .i32 => 0 | .f32 => 1 | .f64 => 2
/-- MSTAT's fields: place, width and value. -/
def statusFields (e : Engine) : List (Nat × Nat × Nat) :=
  [(40, 8, e.rout), (28, 12, e.mwix), (20, 8, e.fcode), (19, 1, if e.pending.isSome then 1 else 0),
   (18, 1, if e.active.isSome then 1 else 0), (17, 1, if e.fault then 1 else 0), (16, 1, if e.done then 1 else 0),
   (14, 2, bankBits e.vis.fmt), (12, 2, bankBits e.work.fmt), (11, 1, e.bact.val), (0, 11, 0), (48, 16, 0)]

/-! ### Banks (R173, R179) -/

/-- A bank lists its cells and index entries in canonical form. -/
def bankWf (b : Bank) : Prop := sparseWf (0 : Word) 0 b.vals = true ∧ sparseWf (0 : BitVec 16) 0 b.index = true
/-- The value of cell (i, j), and its index entry. -/
def cellAt (b : Bank) (i j : Nat) : Nat := (sparseGet (0 : Word) b.vals (64 * i + j)).toNat
def indexAt (b : Bank) (i j : Nat) : Nat := (sparseGet (0 : BitVec 16) b.index (64 * i + j)).toNat
/-- The format code of a bank's values. -/
def bankKind : BankFmt → FmtKind
  | .i32 => .int true 4 | .f32 => .flt .f32 | .f64 => .flt .f64
/-- R179's table: the first row moved and how many. -/
def rowsMoved (b : Bank) (sel : Bool) (row w : Nat) : Nat × Nat :=
  if sel then (4 * (row / 4), 4)
  else match b.fmt with
    | .f64 => (row % 128, 1)
    | _ => if w = 8 then (row, 1) else (2 * (row / 2), 2)
/-- Some row of a run is poisoned. -/
def rowsBad (b : Bank) (r : Nat × Nat) : Bool := (List.range r.2).any fun k => b.poison.getLsbD (r.1 + k)
/-- The fields of mp7 (R172). -/
def dFmt (w : Word) : Fmt := BitVec.ofNat 5 (bitField w 0 5)
def dScale (w : Word) : BitVec 8 := BitVec.ofNat 8 (bitField w 5 8)
def dSel (w : Word) : Bool := bitField w 13 1 = 1
def dAcc (w : Word) : Nat := bitField w 14 5
/-- The bank format that MACCLR gives (R179). -/
def accOf (n : Nat) : Option BankFmt := if n = 5 then some .i32 else if n = 15 then some .f32 else if n = 16 then some .f64 else none

/-! ### Microwords (R184 to R193) -/

/-- The engine in the cycle that reaches the microword at its index, and as it leaves it for the next. -/
def reached (e : Engine) : Engine := { e with mwix := e.ix }
def passed (e : Engine) : Engine := { e with mwix := e.ix, ix := e.ix + 1, row := 0, sub := 0 }
def jumped (e : Engine) (ix : Nat) : Engine := { e with mwix := e.ix, ix := ix, row := 0, sub := 0 }
/-- The routine that runs and the parameters it captured. -/
def runsWith (e : Engine) (mp : Vector Word 8) : Prop := ∃ n, e.active = some (.routine n mp)
/-- A count: immediate, or an argument word ARG0 to ARG11 in mp4 to mp6 (R185). -/
def countOfMp (mp : Vector Word 8) : Count → Nat
  | .imm n => n.val
  | .arg k => bitField (mp.get (Fin.ofNat 8 (4 + k.val / 4))) (16 * (k.val % 4)) 16
/-- The accumulator and Kb of the captured formats. -/
def accOfMp (mp : Vector Word 8) : Option (Nat × BankFmt) := pairTable (bitField (mp.get 0) 38 5) (bitField (mp.get 3) 0 5)
/-- A rounding selector: a mode, or the one in ARG2[2:0]. -/
def modeOfMp (mp : Vector Word 8) : MRm → Option Rm
  | .mode r => some r
  | .arg => Rm.ofCode (bitField (mp.get 4) 32 16 % 8)
/-- The level of a number, and the engine with it changed. -/
def levelOf (e : Engine) (k : Fin 2) : Option MLevel := if k = 0 then e.lv0 else e.lv1
def withLevel (e : Engine) (k : Fin 2) (l : Option MLevel) : Engine := if k = 0 then { e with lv0 := l } else { e with lv1 := l }
/-- SKIP withholds a microword on the last iteration of an armed level (R186). -/
def withheldBy (e : Engine) : Skip → Prop
  | .always => False
  | .last k => ∃ l, levelOf e k = some l ∧ l.lc + 1 = l.n
/-- The stage that STG names. -/
def stageOf (e : Engine) : Stg → Fin 2
  | .stage k => k
  | .other => if e.bact = 0 then 1 else 0
/-- No load into a stage is in flight. -/
def stageFree (e : Engine) (k : Fin 2) : Prop := ∀ l, e.load = some l → l.stage ≠ k
/-- The bytes of a stage image (R189). -/
def stageBytes (mp : Vector Word 8) : Nat := if bitField (mp.get 3) 0 5 = 11 then 12288 else 16384
/-- The furrow that a BLD reads (R189): the one it names, or the one in ARG3[4:0]. -/
def loadFurrow (mp : Vector Word 8) : BSrc → Option (Fin 32)
  | .scratch => none
  | .furrow f => some f
  | .arg => some (Fin.ofNat 32 (bitField (mp.get 4) 48 5))
/-- The state in which the microword reached raises an engine fault (R176): all work is discarded, and the code is set at the end of the
cycle. -/
def faulted (s : State) (code : Nat) : State :=
  { s with core := { s.core with eng := { (reached s.core.eng).idle false with fresh := some code } } }
/-- Some of n bytes of scratch from an address lie in a marked line. -/
def marksIn (c : Core) (a n : Nat) : Prop := ∃ k, k < n ∧ c.marks.getLsbD ((a + k) / 128) = true
/-- The scratch offset of a scratch-sourced load. -/
def loadFrom (mp : Vector Word 8) (block : Nat) : Nat := bitField (mp.get 3) 13 19 + block * stageBytes mp
/-- The code that ZERO gives every cell (R188). -/
def zeroFill (acc : BankFmt) : Fill → Nat
  | .zero => 0
  | .low => match acc with | .i32 => 0x80000000 | .f32 => 0xFF800000 | .f64 => 0xFFF0000000000000
  | .high => match acc with | .i32 => 0x7FFFFFFF | .f32 => 0x7F800000 | .f64 => 0x7FF0000000000000
/-- An 8-bit and a 9-bit signed step. -/
def signedOf (n x : Nat) : Int := (BitVec.ofNat n x).toInt

/-! ### The operands of a row step (R171, R189) -/

/-- Element e of bytes packed under a format (R108, R115). -/
def packedElem (f : Fmt) (bytes : List Byte) (e : Nat) : Nat := ofBytes bytes / 2 ^ (elemBits f * e) % 2 ^ elemBits f
/-- The captured AFMT, and the bytes of a K-block of a row of A or a column of B. -/
def aFmtOf (mp : Vector Word 8) : Fmt := BitVec.ofNat 5 (bitField (mp.get 0) 38 5)
def bFmtOf (mp : Vector Word 8) : Fmt := BitVec.ofNat 5 (bitField (mp.get 3) 0 5)
def kBlock (f : Fmt) : Nat := if f = fmtT6 then 192 else 256
/-- The activation element that element k of unfolded row i is (R171): none where it reads as zero. -/
def unfolds (mp : Vector Word 8) (i k : Nat) : Option Nat :=
  let m1 := bitField (mp.get 1)
  let m2 := bitField (mp.get 2)
  let h := m1 0 12
  let w := m1 12 12
  let c := m1 24 16
  let kw := m1 44 4 + 1
  let p := m2 20 12 * m2 8 12 + m2 32 12 + i
  let t := k / c
  let y : Int := (p / m2 8 12 * (m1 48 4 + 1) + t / kw * (m1 56 4 + 1) : Nat) - (m2 0 4 : Int)
  let x : Int := (p % m2 8 12 * (m1 52 4 + 1) + t % kw * (m1 60 4 + 1) : Nat) - (m2 4 4 : Int)
  if (m1 40 4 + 1) * kw * c ≤ k ∨ y < 0 ∨ (h : Int) ≤ y ∨ x < 0 ∨ (w : Int) ≤ x then none
  else some ((y.toNat * w + x.toNat) * c + k % c)
/-- The first byte in scratch, and the bytes, that activation element n lies in. -/
def activationAt (mp : Vector Word 8) (n : Nat) : Nat × Nat :=
  let b := elemBits (aFmtOf mp)
  (bitField (mp.get 0) 0 19 + n * b / 8, (n * b + b - 1) / 8 - n * b / 8 + 1)

/-! ### Cell operations (R169 to R174, R187) -/

/-- The operation, fields and cycles per row step of a cell operation (R186), by the accumulator. -/
def cellForm (acc : BankFmt) : Instr → Option (CellOp × Cell × Nat)
  | .mad x => some (.mad, x, match acc with | .f64 => 4 | _ => 1)
  | .ada x => some (.ada, x, match acc with | .i32 => 2 | _ => 1)
  | .mxp x => some (.mxp, x, match acc with | .i32 => 2 | _ => 1)
  | .mnp x => some (.mnp, x, match acc with | .i32 => 2 | _ => 1)
  | _ => none
/-- ADA, MXP and MNP take the I8, BF16 and F32 rows only. -/
def cellTakes (op : CellOp) (mp : Vector Word 8) : Prop := op = .mad ∨ bitField (mp.get 0) 38 5 ∈ [1, 14, 15]
/-- The terms of column j: OpTerm of the row's elements and the column's. -/
def termsOf (e : Engine) (g : Geo) (op : CellOp) (acc : BankFmt) (rm : Rm) (arow : List Nat) (j : Nat) : List FVal :=
  ((arow.map (valOf (fmtKind g.afmt) g.ascale.toInt)).zip ((e.column g j).map (valOf (fmtKind g.bfmt) g.bscale.toInt))).map
    fun p => op.term (if acc = .i32 then .rne else rm) p.1 p.2
/-- Whether x lies beyond y for MXP, or for MNP. -/
def further (op : CellOp) (x y : FVal) : Prop := orderZ x y = some (if op = .mnp then .lt else .gt)
/-- The code that Combine and the one rounding give (R170, R187). -/
def combineSays (op : CellOp) (acc : BankFmt) (rm : Rm) (c : FVal) (ts : List FVal) (code : Nat) : Prop :=
  let sat (x : Int) : Nat := ((if x < -2 ^ 31 then -2 ^ 31 else if 2 ^ 31 - 1 < x then 2 ^ 31 - 1 else x) % 2 ^ 32).toNat
  match op with
  | .mad | .ada => code = match bankKind acc with
      | .flt f => roundTo f rm 0 (sumVals rm (c :: ts))
      | _ => sat ((c :: ts).map FVal.toInt).sum
  | .mxp | .mnp => ∃ y, (if c = .nan ∨ .nan ∈ ts then y = .nan else y ∈ c :: ts ∧ ∀ z ∈ c :: ts, ¬ further op z y) ∧
      code = match bankKind acc with
        | .flt f => roundTo f rm 0 (.ofVal y)
        | _ => sat y.toInt
/-- The index entry that Capture leaves (R187): the lowest element that holds the extreme term, where that term is beyond c. -/
def captureSays (op : CellOp) (base : Nat) (c : FVal) (ts : List FVal) (old new : Nat) : Prop :=
  (op = .mad ∨ op = .ada → new = old) ∧
  (op = .mxp ∨ op = .mnp →
    (.nan ∈ ts → new = (base + ts.findIdx (· = .nan)) % 2 ^ 16) ∧
    (.nan ∉ ts → (∀ t ∈ ts, ¬ further op t c) → new = old) ∧
    (.nan ∉ ts → (∃ t ∈ ts, further op t c) → ∃ k, k < ts.length ∧ new = (base + k) % 2 ^ 16 ∧
      (∀ z ∈ ts, ¬ further op z (ts.getD k .nan)) ∧ ∀ j, j < k → further op (ts.getD k .nan) (ts.getD j .nan)))

end Sys2Proof.Machine
end

