-- ==== Sys2Proof/Safety/Objects.lean ====
section
/-! DEFINITION. What the object rules give each C-slot syllable at issue: its checks, its request and its furrow (R206 to R245). -/
namespace Sys2Proof.Machine

/-- The current core after a syllable that leaves these effects to the end of its cycle. -/
def Core.leaves (c : Core) (fx : List EndEffect) : Core := { c with out := .performed, endFx := c.endFx ++ fx }
/-- The current core after a syllable with an issue cause. -/
def State.traps (s : State) (k : Cause) : State := { s with core := { s.core with out := .trapped k 0 } }

/-- A request goes out from a core left as `c`: it is listed under the next number, and its step `i` is due in a later cycle. -/
def Asks (s : State) (c : Core) (r : Req) (i : Instr) (t : State) : Prop :=
  ∃ n, s.cycle < n ∧ t = { s with
    core := c, reqs := s.reqs ++ [r], nextReq := s.nextReq + 1, freeCtr := s.freeCtr + 1,
    agenda := s.agenda ++ [⟨n, s.nextReq, i⟩] }
/-- The request of the syllable being performed: who asks what through which register, and where the word lands. -/
def Says (s : State) (r : Req) (op : ReqOp) (h : Fin 16) (g : HReg) (q : Option (Fin 16)) : Prop :=
  r.id = s.nextReq ∧ r.op = op ∧ r.party = s.party s.core ∧ r.core = s.core.id ∧ r.slot = s.core.iss.slot ∧ r.h = h ∧
  r.reg = g ∧ r.q = q ∧ r.home = handleHome g.handle ∧ r.index = handleIndex g.handle ∧ r.bundle = s.core.iss.addr ∧ r.phase = .sent
/-- The landing slot a request names (R23, R255). -/
def namedSlot (s : State) (u : Due) (thaw : Bool) : EndEffect :=
  .named u.q (.outstanding (s.core.issued + u.off.val + 1) s.nextReq thaw none)
/-- The requests of the task on the current core. -/
def ownRequests (s : State) : List Req :=
  s.reqs.filter fun r => r.party.inst = (s.party s.core).inst && r.party.mem = (s.party s.core).mem
/-- The task has room for one more object request (R206), and for one more request of the Y slot, whichever of its members issued
them (R259). -/
def objectRoom (s : State) : Prop := ((ownRequests s).filter fun r => r.op.counts && r.open_).length < 1024
def yRoom (s : State) : Prop :=
  (s.reqs.filter fun r => r.party.sameTask (s.party s.core) && r.op.isY && r.open_).length < 256
/-- A landing slot that a request may name now (R255). -/
def slotFree (s : State) (u : Due) : Prop := ∀ d id b, s.core.rq u.q ≠ .outstanding d id b none
/-- h[H] is open with these rights, and its object is o. -/
def opens (s : State) (h : Fin 16) (rights : List Nat) (o : Obj) : Prop :=
  (s.core.rh h).opened = true ∧ (∀ k ∈ rights, (s.core.rh h).rights.getLsbD k = true) ∧ s.objReg (s.core.rh h) = some o

/-- The rank-1 forms: the h-register, the slot named, the sources, when the request goes out, what it asks with which
register image, the h-register's change, and its step. -/
def objectForm (s : State) : Instr → Option (Fin 16 × Option Due × List Reg × Prop × ReqOp × HReg × List EndEffect × Instr)
  | .openH w h t u => some (h, some u, [.a t.val], (s.core.rh h).opened = false, .openH w,
      { HReg.closed with handle := s.core.ra t }, [.hreg h { HReg.closed with due := some u.q }], .versionEvent)
  | .close h => some (h, none, [], (s.core.rh h).opened = true, .close, s.core.rh h, [.hreg h HReg.closed], .versionEvent)
  | .info k h u => some (h, some u, [], (s.core.rh h).opened = true, .info k (s.core.rh h).ver, s.core.rh h, [], .objectRequestPerform)
  | .free h => some (h, none, [], ∃ o, opens s h [6] o, .free, s.core.rh h, [.hreg h HReg.closed], .objectRequestPerform)
  | .pin h u => some (h, some u, [], (∃ o, opens s h [0] o ∧ o.live = false) ∧ (s.core.rh h).write = false, .pin, s.core.rh h,
      [.hreg h { s.core.rh h with due := some u.q }], .versionEvent)
  | .subsc h t u => some (h, some u, [.a t.val], (∃ o, opens s h [0] o ∧ o.live = false) ∧ (s.core.rh h).write = false,
      .subsc (s.core.ra t), s.core.rh h, [.hreg h { s.core.rh h with due := some u.q }], .versionEvent)
  | .publ h u => some (h, some u, [], (∃ o, opens s h [3] o ∧ o.live = false) ∧ (s.core.rh h).write = true, .publ, s.core.rh h,
      [.hreg h { s.core.rh h with due := some u.q }], .versionEvent)
  | _ => none

/-! ### Tiles (R202, R207, R210, R211, R214) -/

/-- The bytes of a tile row. -/
def rowSize (sh : Fin 64) (o : Obj) : Nat := (if o.fmt = fmtT6 then 24 else 32) * 2 ^ (sh.val % 8)
/-- The a-registers of an index tuple of `n` registers. -/
def tupleRegs (t : Fin 16) (n : Nat) : List Reg := (List.range n).map fun k => .a (t.val + k)
/-- The tuple is whole and within the dimensions; a vector's tile has one row. -/
def tileIn (s : State) (x : Tile) (o : Obj) : Prop :=
  x.t.val + o.rank ≤ 16 ∧ (∀ k, k < o.rank → (s.core.ra (aPlus x.t k)).toNat < o.dim k) ∧ (o.rank = 1 → x.sh.val < 8)
/-- A furrow whose slots are the size of the tile, whole elements to a row. -/
def slotFits (f : Furrow) (x : Tile) (o : Obj) : Prop :=
  f.init = true ∧ 0 < f.count ∧ 2 ^ (x.sh.val / 8) * rowSize x.sh o = f.slotsz ∧ rowSize x.sh o * 8 % elemBits o.fmt = 0
/-- A register that a read, and one that a write, may use (R221, R234). -/
def readsBy (g : HReg) (o : Obj) : Prop := o.live = true ∨ g.write = true ∨ g.ver ≠ 0xFFFFFFFF
def writesBy (g : HReg) (o : Obj) : Prop := o.live = true ∨ g.write = true
/-- The request is for this tile. -/
def Tiles (s : State) (r : Req) (x : Tile) (o : Obj) : Prop :=
  r.origin = (List.range o.rank).map (fun k => (s.core.ra (aPlus x.t k)).toNat) ∧ r.rows = 2 ^ (x.sh.val / 8) ∧ r.rowB = rowSize x.sh o
/-- A furrow after a request claimed the slot at TAIL, and after one took the slot at HEAD (R213). -/
def claimedBy (f : Furrow) (id : Nat) : Furrow :=
  { f with prod := 1, claims := f.claims ++ [⟨id, f.tail, false⟩], free := f.free - 1, tail := nextSlot f f.tail }
def takenBy (f : Furrow) (id : Nat) : Furrow :=
  { f with cons := 1, filled := f.filled - 1, head := nextSlot f f.head, taken := f.taken ++ [⟨id, f.head, false⟩] }
/-- Entry k of the row list of a GATHER or SCATTER. -/
def listRow (s : State) (x : Tile) (o : Obj) (k : Nat) : Nat :=
  memRead s.core.scratch ((s.core.ra (aPlus x.t o.rank)).toNat + 4 * k) 4
/-- The list lies in scratch, names rows of the object, and the rest of the tuple is within the dimensions (R222). -/
def listOk (s : State) (x : Tile) (o : Obj) : Prop :=
  2 ≤ o.rank ∧ x.t.val + o.rank ≤ 15 ∧ (∀ k, k < o.rank → k + 2 ≠ o.rank → (s.core.ra (aPlus x.t k)).toNat < o.dim k) ∧
  (s.core.ra (aPlus x.t o.rank)).toNat % 4 = 0 ∧
  (s.core.ra (aPlus x.t o.rank)).toNat + 4 * 2 ^ (x.sh.val / 8) ≤ s.core.scrlim ∧
  ∀ k, k < 2 ^ (x.sh.val / 8) → listRow s x o k < o.dim (o.rank - 2)
/-- The row list of a tile. -/
def rowsListed (s : State) (x : Tile) (o : Obj) : List Nat := (List.range (2 ^ (x.sh.val / 8))).map (listRow s x o)
/-- The tile transfers: write or not, the request, and whether its rows come from a list. -/
def tileForm (s : State) (o : Obj) : Instr → Option (Tile × Fin 32 × Bool × ReqOp × Bool)
  | .fetch m x f => some (x, f, false, .fetch m, false)
  | .store n x f => some (x, f, true, .store n, false)
  | .gather x f => some (x, f, false, .gather (rowsListed s x o), true)
  | .scatter x f => some (x, f, true, .scatter (rowsListed s x o), true)
  | _ => none
/-- The span requests: tile, slot, rights, whether the object must be LIVE, the request. -/
def spanForm : Instr → Option (Tile × Due × List Nat × Bool × Bool × ReqOp)
  | .freeze x u => some (x, u, [4], false, false, .freeze)
  | .thaw x u => some (x, u, [4], false, true, .thaw)
  | .grant x u => some (x, u, [5, 1], true, false, .grant)
  | _ => none

/-! ### Causes at issue (R207, R214, R300) -/

/-- The first cause of a request's syllable whose object is o, in R207's order: VERSION, OBJ_BOUNDS, FURROW_CONFIG. -/
def tileTrap (s : State) (x : Tile) (f : Furrow) (wr : Bool) (o : Obj) (k : Cause) : Prop :=
  let g := s.core.rh x.h
  let ok := if wr then writesBy g o else readsBy g o
  let e := if wr then f.cons else f.prod
  (k = .version ∧ ¬ ok) ∨ (k = .objBounds ∧ ok ∧ ¬ tileIn s x o) ∨
  (k = .furrowConfig ∧ ok ∧ tileIn s x o ∧ (f.init = false ∨ (e ≠ 0 ∧ e ≠ 1) ∨ 2 ^ (x.sh.val / 8) * rowSize x.sh o ≠ f.slotsz ∨
    rowSize x.sh o * 8 % elemBits o.fmt ≠ 0))

end Sys2Proof.Machine
end

