-- ==== Sys2Proof/Safety/Sync.lean ====
section
/-! DEFINITION. What the synchronisation, furrow, launch and system rules give each Y-slot and S-slot syllable at issue (R105 to
R107, R256 to R298, R307, R314). -/
namespace Sys2Proof.Machine

/-- A syllable that asks for one element: register, index, operand registers, right, slot, scope, request (R261). -/
def syncForm (s : State) : Instr → Option (Fin 16 × Fin 64 × Nat × Nat × Option Due × Scope × ReqOp)
  | .atom op ord sc h a u => some (h, a, if op = .cas then 3 else 2, 2, some u, sc,
      .atom op ord (s.core.rx (xPlus a 1)) (if op = .cas then s.core.rx (xPlus a 2) else 0))
  | .red op rel sc h a => some (h, a, 2, 2, none, sc, .red op rel (s.core.rx (xPlus a 1)))
  | .ldsync acq sc h a u => some (h, a, 1, 0, some u, sc, .ldsync acq)
  | .stsync rel sc h a => some (h, a, 2, 2, none, sc, .stsync rel (s.core.rx (xPlus a 1)))
  | _ => none
/-- An object with elements that a synchronising access may name: LIVE, LINEAR, of a 32-bit or 64-bit integer format. -/
def syncShape (o : Obj) : Prop := o.live = true ∧ o.tiled = false ∧ ∃ sg n, fmtKind o.fmt = .int sg n ∧ (n = 4 ∨ n = 8)
/-- The shape of a barrier or a ballot (R265, R290): N64, rank 1, 8 elements, LINEAR. -/
def lineOk (o : Obj) : Prop := o.live = true ∧ o.fmt = fmtN64 ∧ o.rank = 1 ∧ o.dim 0 = 8 ∧ o.tiled = false
/-- The barrier and ballot syllables: register, sources, right, slot, scope, request and its step (R266 to R268, R291, R292). -/
def barForm (s : State) : Instr → Option (Fin 16 × List Reg × Nat × Option Due × Scope × ReqOp × Instr)
  | .barinit sc h a => some (h, [.x a.val], 2, none, sc, .barinit (s.core.rx a), .syncAccessPerform)
  | .barr sc h => some (h, [], 2, none, sc, .barr, .barrierArrival)
  | .barw sc h u => some (h, [], 0, some u, sc, .barw none, .syncAccessPerform)
  | .bread h u => some (h, [], 0, some u, .system, .bread, .syncAccessPerform)
  | _ => none
/-- The registers of a run of x-registers. -/
def xRun (a : Fin 64) (n : Nat) : List Reg := (List.range n).map fun k => .x (xPlus a k).val

/-- A word is on its way to the landing slot that a launch instruction named: its request was performed at its issue. -/
def Lands (s : State) (u : Due) (w : Word) (t : State) : Prop :=
  t.core = s.core.leaves [namedSlot s u false] ∧ t.nextReq = s.nextReq + 1 ∧
  (∃ r, t.reqs = s.reqs ++ [r] ∧ r.id = s.nextReq ∧ r.q = some u.q ∧ r.party = s.party s.core ∧ r.phase = .answered ⟨w, none⟩) ∧
  ∃ n, s.cycle < n ∧ ⟨n, s.nextReq, .landingArrival⟩ ∈ t.agenda
/-- A status word (R215, R286). -/
def landWordOf (code v : Nat) : Word := BitVec.ofNat 64 (code + 256 * v)
/-- A template in the object of h[H], and the plot under which its launch stands (R271, R287). -/
def templateOf (s : State) (h : Fin 16) (o : Obj) : BitVec 2048 := o.template (o.verOf (s.core.rh h))
def templateOk (o : Obj) : Prop := o.fmt = 2 ∧ o.rank = 1 ∧ o.dim 0 = 256 ∧ o.tiled = false
/-- The page of a template in the object of h[H], where it is ABSENT (R204), and its being there. -/
def templateAbsent (s : State) (h : Fin 16) (o : Obj) (p : PageRef) : Prop :=
  ∃ g, o.pageAt (o.verOf (s.core.rh h)) 0 = some g ∧ g.res = .absent ∧ p = ⟨o.home, o.index, g.ver, 0⟩
def templateHere (s : State) (h : Fin 16) (o : Obj) : Prop := ∀ p, ¬ templateAbsent s h o p
/-- The task's plot and the parent of it. -/
def launches (s : State) (me p : Plot) : Prop :=
  (∃ t, s.core.task = some t ∧ s.plotAt t.plot = some me) ∧ s.plotAt me.parent = some p
/-- An identity of 32 bits that no plot has (R271). -/
def freshId (s : State) (id : Nat) : Prop := 0 < id ∧ id < 2 ^ 32 ∧ ∀ q ∈ s.plots, q.id ≠ id
/-- The state but for the launch: cores, objects, requests of others, host and links are as before. -/
def keepsAll (s t : State) : Prop :=
  t.behind = s.behind ∧ t.ahead = s.ahead ∧ t.cycle = s.cycle ∧ t.ts = s.ts ∧ t.pairs = s.pairs ∧ t.journal = s.journal ∧
  t.saved = s.saved ∧ t.peers = s.peers ∧ t.inbox = s.inbox ∧ t.granules = s.granules ∧ t.hostMem = s.hostMem

end Sys2Proof.Machine
end

