-- ==== Sys2Proof/Safety/Homes.lean ====
section
/-! DEFINITION. What the rules of the homes, the engines and the tasks say a step of theirs leaves behind (R202 to R269, R290 to
R296). -/
namespace Sys2Proof.Machine

/-! ### Requests at a home -/

/-- The request a step acts on, whichever its phase. -/
def Named (s : State) (r : Req) : Prop := s.req = some r
/-- A request on its way that waits for no earlier one of its task (R227, R249, R264). -/
def Acts (s : State) (r : Req) : Prop := s.req = some r ∧ r.phase = .sent ∧ s.mustWait r = false
/-- A step was put on the agenda for a later cycle, behind what was there. -/
def Later (s t : State) (subj : Nat) (i : Instr) : Prop := ∃ n, s.cycle < n ∧ t.agenda = s.agenda ++ [⟨n, subj, i⟩]
/-- The requests with the first one of a number changed in its phase. -/
def phased (s : State) (id : Nat) (p : ReqPhase) : List Req := updFirst (fun q => q.id = id) (fun q => { q with phase := p }) s.reqs
/-- The requests with the first one of a number having taken a late fault in this cycle (R207). -/
def failing (s : State) (id : Nat) (k : Cause) : List Req :=
  updFirst (fun q => q.id = id) (fun q => { q with phase := .failed k, failedAt := s.cycle }) s.reqs
/-- Nothing waits for an ABSENT page (R353). -/
def noneAbsent (s : State) : Prop := s.heldReads = [] ∧ ∀ q ∈ s.reqs, q.absent = false
/-- A performed request: its word is on its way (R255). -/
def Answers (s t : State) (r : Req) (w : Word) (hset : Option (Fin 16 × HReg)) : Prop :=
  t.reqs = phased s r.id (.answered ⟨w, hset⟩) ∧ Later s t r.id .landingArrival
/-- The same, whatever else was put on the agenda. -/
def Answered (s t : State) (r : Req) (w : Word) (hset : Option (Fin 16 × HReg)) : Prop :=
  t.reqs = phased s r.id (.answered ⟨w, hset⟩) ∧ ∃ n, s.cycle < n ∧ ⟨n, r.id, .landingArrival⟩ ∈ t.agenda
/-- The requests with the first one of a number filling its slot, `b` for a fill that may form casts (R205, R239). -/
def filling (s : State) (id : Nat) (b : Bool) (data : List Byte) (marks : List Bool) : List Req :=
  updFirst (fun q => q.id = id) (fun q => { q with casts := b, phase := .filling data marks }) s.reqs
/-- A step asked for again in the next cycle, and nothing else. -/
def Again (s t : State) (subj : Nat) (i : Instr) : Prop := t = { s with agenda := s.agenda ++ [⟨s.cycle + 1, subj, i⟩] }
/-- A new object of a request block, its handle, and every object that existed as before (R199, R218). -/
def Allocated (s t : State) (form d01 d23 d45 w : Word) (o : Obj) : Prop :=
  t.objAt s.pkg o.index = some o ∧ o.home = s.pkg ∧ o.valid = true ∧ o.rank = form.toNat / 2 ^ 13 % 8 ∧
    o.fmt.toNat = form.toNat % 32 ∧
    (∀ k, k < 6 → o.dim k = (if k < 2 then d01 else if k < 4 then d23 else d45).toNat / 2 ^ (32 * (k % 2)) % 2 ^ 32) ∧
    w = mkHandle s.pkg o.index o.gen ∧ ∀ h ix k, s.objAt h ix = some k → k.vacant = false → t.objAt h ix = some k
/-- Every core is as before. -/
def coresKept (s t : State) : Prop := t.core = s.core ∧ t.behind = s.behind ∧ t.ahead = s.ahead
/-- Every core is as before, but for its object cache. -/
def bare (c : Core) : Core := { c with frames := [] }
def coresButFrames (s t : State) : Prop :=
  bare t.core = bare s.core ∧ t.behind.map bare = s.behind.map bare ∧ t.ahead.map bare = s.ahead.map bare
/-- A register image whose landing has come. -/
def landed (g : HReg) : HReg := { g with due := none }
/-- A party is the current core's task. -/
def isCurrent (s : State) (p : Party) : Prop := ∃ t, s.core.task = some t ∧ t.inst = p.inst ∧ t.member = p.mem
/-- The core but for its list of late faults, and but for its object cache. -/
def sameButLate (c d : Core) : Prop := { d with late := c.late } = c
def sameButFrames (c d : Core) : Prop := { d with frames := c.frames } = c
/-- The word that an INFO query gives (R217). -/
def infoSays (o : Obj) (ver : BitVec 32) : InfoQ → Nat
  | .form => o.fmt.toNat + 2 ^ 5 * o.scale + 2 ^ 13 * o.rank + (if o.tiled then 2 ^ 16 else 0) + (if o.live then 2 ^ 17 else 0) +
      (if o.comp then 2 ^ 18 else 0) + (if o.hostsh then 2 ^ 19 else 0)
  | .dim01 => o.dim 0 + 2 ^ 32 * o.dim 1
  | .dim23 => o.dim 2 + 2 ^ 32 * o.dim 3
  | .dim45 => o.dim 4 + 2 ^ 32 * o.dim 5
  | .ver => o.curv + 2 ^ 32 * ver.toNat
  | .pages => (o.size + 65535) / 65536 % 2 ^ 48
/-- A furrow after the slot a request took is popped: the slots at the front of those taken that are popped return to the producer,
in order (R22, R213). -/
def poppedBy (f : Furrow) (id : Nat) : Furrow :=
  let ks := f.taken.map fun k => if k.req = id then { k with done := true } else k
  let n := (ks.takeWhile fun k => k.done).length
  { f with taken := ks.drop n, free := f.free + n }
/-- Element e of row k of slot bytes laid out for a request's tile. -/
def slotElem (r : Req) (o : Obj) (data : List Byte) (k e : Nat) : Nat :=
  ofBytes ((data.drop (k * r.rowB)).take r.rowB) / 2 ^ (elemBits o.fmt * e) % 2 ^ elemBits o.fmt
/-- No page of the object stops an access: none is absent, no granule belongs to the host. -/
def reachable (o : Obj) : Prop := o.hostsh = false ∧ ∀ p ∈ o.pages, p.res ≠ .absent
/-- The pages of a request's in-bounds elements, and the grains. -/
def spanPages (r : Req) (o : Obj) : List Nat := pagesOf (r.bytes o)
/-- The object is no map of another object (R201). -/
def noMap (s : State) (o : Obj) : Prop :=
  ∀ q ∈ s.objs, ∀ h, h = q.fmap ∨ h = q.rmap ∨ h = q.gmap → ¬ (handleHome h = o.home ∧ handleIndex h = o.index)
/-- Freeze count of a page (R238). -/
def freezeCount (o : Obj) (n : Nat) : Nat := match o.frz.find? fun z => z.page = n with | some z => z.count | none => 0
/-- No page of a span is frozen, thawing or moving, and no earlier request is held there. -/
def spanOpen (s : State) (r : Req) (o : Obj) : Prop :=
  (∀ n ∈ spanPages r o, freezeCount o n = 0) ∧ s.heldAt r o (spanPages r o) true (o.verOf r.reg) = false

/-! ### Sync lines (R257 to R268, R290 to R293) -/

/-- The old and new value of an element under an atomic (R262): w bytes, compared signed for I32 and I64. -/
def atomSays (op : AtomOp) (sg : Bool) (w old x cmp : Nat) : Nat :=
  let z (n : Nat) : Int := if sg ∧ 2 ^ (8 * w - 1) ≤ n then (n : Int) - 2 ^ (8 * w) else n
  match op with
  | .add => (old + x) % 2 ^ (8 * w)
  | .min => if z x < z old then x else old
  | .max => if z old < z x then x else old
  | .and => Nat.land old x
  | .or => Nat.lor old x
  | .xor => Nat.xor old x
  | .swp => x
  | .cas => if old = cmp then x else old
/-- An access of a request to its element that its engine lets pass (R258, R261): a plain line nobody else owns. -/
def passes (s : State) (r : Req) (o : Obj) : Prop :=
  o.gen = r.gen ∧ reachable o ∧ noneAbsent s ∧ o.lines.find? (fun l => l.line = r.n * elemBits o.fmt / 512) = none ∧
  freezeCount o (r.n * elemBits o.fmt / 8 / 65536) = 0 ∧
  s.heldAt r o [r.n * elemBits o.fmt / 8 / 65536] true 0 = false ∧ ∀ g ∈ o.grains, g.g ≠ r.n * elemBits o.fmt / 512 / 8
/-- The fields of a barrier word (R265). -/
def barField (w lo n : Nat) : Nat := w / 2 ^ lo % 2 ^ n
/-- A barrier that a party may use: initialised, and every scope admits it (R268). -/
def barUsable (r : Req) (o : Obj) (b : BarState) : Prop := o.bar = some b ∧ barFault r o = none
/-- A ballot's counted posts of a hash. -/
def postsOf (b : BallotState) (h : Word) : Nat := (b.posts.filter fun p => p.hash = h).length

end Sys2Proof.Machine
end

