-- ==== Sys2Proof/Safety/Device.lean ====
section
/-! DEFINITION. What the rules of tasks, dispatchers, memories, host, links and management say a step of theirs leaves behind
(R105, R277 to R349). -/
namespace Sys2Proof.Machine

/-- Plot identities, request numbers and core numbers are used once. -/
def plotsUnique (s : State) : Prop := s.plots.Pairwise fun a b => a.id ≠ b.id
def coresUnique (s : State) : Prop := s.cores.Pairwise fun a b => a.id ≠ b.id
/-- The requests of a state with one of them gone. -/
def without (s : State) (r : Req) : List Req := s.reqs.filter fun q => q.id ≠ r.id
/-- A line-shaped object whose words can be read and written: its one version is listed in canonical form, no line is lost. -/
def wordsHeld (o : Obj) : Prop :=
  lineOk o ∧ (∃ v ∈ o.verAt 0, Memory.wf v.data) ∧ ∀ p ∈ o.pages, p.res ≠ .poison
/-- The sync home of a request can be reached (R253, R342). -/
def homeUp (s : State) (r : Req) : Prop := ∀ p ∈ s.peers, p.pkg = s.syncPkg r → p.lost = false
/-- An element value as the word that lands (R262). -/
def landedWord (sg : Bool) (w v : Nat) : Word :=
  if sg then (BitVec.ofNat (8 * w) v).signExtend 64 else BitVec.ofNat 64 (v % 2 ^ (8 * w))
/-- The core that a task's end or its saving leaves behind. -/
def freed (c : Core) : Core := { Core.reset c.id with stage := c.stage }
/-- A core that a member has left: free, but for the lines that its object cache keeps, all of them clean (R209, R351, R352). -/
def freedCore (c d : Core) : Prop := bare d = freed c ∧ ∀ f ∈ d.frames, ∃ g ∈ c.frames, f = { g with dirty := false }
/-- The only core of its task instance. -/
def solo (s : State) (t : Task) : Prop :=
  s.core.task = some t ∧ (∀ c ∈ s.behind ++ s.ahead, ∀ u, c.task = some u → u.inst ≠ t.inst) ∧
  (∀ v ∈ s.saved, ∀ u, v.core.task = some u → u.inst ≠ t.inst) ∧
  ∀ e ∈ s.agenda, (∀ c p x m, e.instr ≠ .taskStart c p x t.inst m) ∧ ∀ c, e.instr ≠ .taskResumption t.inst c
/-- A field of a plot's descriptor. -/
def plotField (p : Plot) (lo n : Nat) : Nat := p.desc.toNat / 2 ^ lo % 2 ^ n
/-- The dispatcher of a die. -/
def dispOf (s : State) (die : Nat) (d : Disp) : Prop := s.disps.find? (fun k => k.die = die) = some d
/-- A step that is due in the cycle in which it was asked for, or later. -/
def Asked (s t : State) (i : Instr) : Prop := ∃ n j, s.cycle ≤ n ∧ ⟨n, j, i⟩ ∈ t.agenda
/-- A step that is due in this cycle or in the next, asked for now or before. -/
def Wants (s t : State) (i : Instr) : Prop := ∃ n j, n ≤ s.cycle + 1 ∧ ⟨n, j, i⟩ ∈ t.agenda
/-- One entry more in the journal, where none waits and the next place holds no command in progress (R338, R339). -/
def Journals (s t : State) : Prop := s.journWait = [] → s.placeTaken = false → t.nextSeq = s.nextSeq + 1
/-- A member is the last of its task instance: no other core holds a member, none is saved, starts or resumes. -/
def lastMember (s : State) (n inst : Nat) : Prop :=
  (∀ c ∈ s.cores, c.id ≠ n → ∀ u, c.task = some u → u.inst ≠ inst) ∧ (∀ v ∈ s.saved, ∀ u, v.core.task = some u → u.inst ≠ inst) ∧
  ∀ e ∈ s.agenda, (∀ c p x m, e.instr ≠ .taskStart c p x inst m) ∧ ∀ c, e.instr ≠ .taskResumption inst c
/-- The pair's registers field. -/
def pairField (q : QPair) (lo n : Nat) : Nat := q.regs.toNat / 2 ^ lo % 2 ^ n
/-- A pair as the state lists it. -/
def pairIs (s : State) (n : Nat) (q : QPair) : Prop := s.pairs.find? (fun p => p.n = n) = some q
/-- A command ended with a status (R332): its result record, when it asks for one, and its completion, on its way. -/
def Ended (s t : State) (c : Command) (status word : Nat) : Prop :=
  (∃ q, pairIs t c.pair q ∧ completion c.seq status c.tag.toNat ∈ q.pend) ∧
  (∃ n, s.cycle < n ∧ ⟨n, 0, .completionWrite c.pair⟩ ∈ t.agenda) ∧
  (Memory.wf s.hostMem → c.w5 ≠ 0 → c.w5.toNat % 16 = 0 → memRead t.hostMem c.w5.toNat 16 = word % 2 ^ 64)
/-- A pair that may name any plot, of a listed pair. -/
def byAdmin (s : State) (c : Command) : Prop := ∃ q, pairIs s c.pair q ∧ pairField q 192 32 = 0
/-- The byte of a host-shared object that a load of the host reads under its ownership: as the host holds it, or from the home; 0
beyond the object, 0xFF from a lost line (R329, R336). -/
def hostByteOf (x : Granule) (o : Obj) (b : Nat) : Byte :=
  match x.dirty.find? fun c => c.1 = b with
  | some c => c.2
  | none => if o.size ≤ b then 0 else if o.poisoned 0 b then 0xFF else if o.padding b then 0 else o.byteOf 0 b
/-- A byte of a number, little-endian. -/
def byteAt (v k : Nat) : Byte := BitVec.ofNat 8 (v / 2 ^ (8 * k))
/-- Arguments beyond the named ones are 0, and a result address is aligned. -/
def plainArgs (c : Command) (a w0 w1 w2 w3 w4 : Nat) : Prop :=
  c.a32.toNat < 2 ^ a ∧ c.w0.toNat < 2 ^ w0 ∧ c.w1.toNat < 2 ^ w1 ∧ c.w2.toNat < 2 ^ w2 ∧ c.w3.toNat < 2 ^ w3 ∧ c.w4.toNat < 2 ^ w4 ∧
  c.w5.toNat % 16 = 0

end Sys2Proof.Machine
end

