-- ==== Sys2Proof/Safety/Whole.lean ====
section
/-! DEFINITION. The words of the statements about the machine as a whole: a bundle at issue, the order in which its syllables
are performed, and what every step keeps. -/
namespace Sys2Proof.Machine

/-- A bundle that decodes to `b` reaches issue on the current core: it runs, its clock is not stopped, STALL and fetch cost are over,
nothing is replayed, no late fault waits, the bundle lies in the code object and is no transfer in a delay slot. -/
def reachesIssue (s : State) (b : Bundle) : Prop :=
  let c := s.core
  c.stage = .issue ∧ c.run = .running ∧ c.portStop = 0 ∧ ¬ (c.cyc < c.nextIss ∧ c.counting = true) ∧ c.replay = none ∧ c.late = [] ∧
  c.pc + c.lenAt c.pc ≤ c.codeLen ∧ c.fetch c.pc = .ok b ∧
  (c.redirect.isSome = true → ∀ y ∈ b.sylls, y.instr.isTransferOrLoop = false)
/-- It issues: FIRST and LAST let it, it does not straddle the end of a loop body, and no landing slot is due without its word. -/
def issues (s : State) (b : Bundle) : Prop :=
  let c := s.core
  reachesIssue s b ∧ testPasses c b.test ∧
  (∀ l, c.innermost = some l → c.pc < l.e → c.pc + c.lenAt c.pc ≤ l.e) ∧ ∀ q, c.lateDue c.issued q = false
/-- The bundle was withheld by FIRST or LAST (R40): it takes its issue cycle, and nothing of it is performed or counted; one that holds
a transfer makes its two successors delay slots. -/
def skippedFor (s : State) (b : Bundle) : State :=
  let c := s.core
  { s with core := { c with
      redirect := if b.sylls.any (fun y => y.instr.isTransfer) = true then some ⟨3, none, .none, 0⟩ else c.redirect
      iss := { c.iss with addr := c.pc, len := c.lenAt c.pc }
      nextPc := c.pc + c.lenAt c.pc, justIss := true, nextIss := c.cyc + 1, dueIss := c.cyc + 1, counting := true, lateKeep := 0
      stage := .engine } }

/-- The state with the code with which the engine's work will complete in this cycle, if it will (R94). -/
def foreseen (s : State) (f : Option Nat) : State := { s with core := { s.core with eng := { s.core.eng with fresh := f } } }
/-- The state in which the bundle's first syllable is performed: the landing slots due with this bundle have landed, and the next
bundle follows this one. -/
def landedFor (s : State) : State :=
  let c := s.core
  { s with core := { (allQ.foldl (Core.landDue c.issued) c) with
      nextPc := c.pc + c.lenAt c.pc, iss := { c.iss with addr := c.pc, len := c.lenAt c.pc } } }
/-- The state with a syllable's own context: its slot and guard (R43). -/
def inSlot (s : State) (addr len flying : Nat) (y : Syllable) : State :=
  { s with core := { s.core with out := .performed, iss := ⟨addr, len, y.slot, y.guard.p,
      if y.guard.neg = true then !s.core.rp y.guard.p else s.core.rp y.guard.p, false, flying⟩ } }
/-- The syllables performed one after another, in slot order, each of them without a trap and without a hold. -/
def performs (addr len flying : Nat) : List Syllable → State → State → Prop
  | [], s, t => t = s
  | y :: ys, s, t => ∃ u, exec y.instr (inSlot s addr len flying y) = .next u ∧ u.core.out = .performed ∧
      performs addr len flying ys u t
/-- The bundle has issued: it is counted, its STALL is applied, and the core's engine follows (R37, R74). -/
def issuedAs (t : State) (addr len stall : Nat) : State :=
  { t with core := { t.core with
      iss := { t.core.iss with addr := addr, len := len }, justIss := true, bundles := t.core.bundles + 1, issued := t.core.issued + 1,
      nextIss := t.core.cyc + 1 + stall, dueIss := t.core.cyc + 1 + stall, counting := true, replay := none, fwait := none,
      spawnW := none, spawnFull := false, tmplW := none, lateKeep := 0, out := .performed, lastIss := t.cycle, overdue := false, stage := .engine } }

/-- A cycle in which the bundle was held: it is counted, and what a wait records of itself is kept (R37, R204, R212, R287). -/
def heldFor (s t : State) (rs : List InFlight) : State :=
  { s with core := { s.core with
      emulated := rs, fwait := t.core.fwait, spawnW := t.core.spawnW, tmplW := t.core.tmplW, waits := s.core.waits + 1, justIss := false, out := .performed,
      stage := .engine } }
/-- A cycle in which the clock domain stops for a landing (R23, R37). -/
def stoppedFor (s : State) : State :=
  { s with core := { s.core with emulated := [], clkstop := s.core.clkstop + 1, out := .performed, stage := .halted } }
/-- The core stopped on a trap of a syllable, whose context the stop records, with the results that the system cores have computed
for the syllable (R306): none, but for FORMAT_EMULATE. -/
def trapFor (s : State) (ctx : IssueCtx) (k : Cause) (w : Word) (rs : List InFlight) : State :=
  ({ s with core := { s.core with iss := ctx, emulated := rs } }.takeTrap k w).toStage .halted

/-- What every step keeps: host memory in its canonical form, the power cap in its range (R348), the timestamp's phase below 21
cycles (R3), its correction within 100 parts per million and the correction's fraction below one nanosecond (R327). -/
def Steady (s : State) : Prop :=
  Memory.wf s.hostMem ∧ 1200 ≤ s.powerCap ∧ s.powerCap ≤ 3400 ∧ s.tsPhase < 21 ∧ -100 ≤ s.slew ∧ s.slew ≤ 100 ∧ s.slewAcc < 1000000

end Sys2Proof.Machine
end

