-- ==== Sys2Proof/Certificates/Slice0/Obligations.lean ====
section
/-! DEFINITION. The statements about the model, in the terms of Sys2Proof/Safety. -/
open Sys2Proof Sys2Proof.Machine

/-! ### Scalar instructions (R70 to R90) -/

/-- R77 to R81, R83, R85: every integer and move instruction completes, and all it does is put in flight, at its latency, the
value that the rules' integers give (nothing for x0).
R79: CLZ, CTZ and POPC. -/
def Obligations.IntegerResults : Prop :=
  (∀ (i : Instr) (s : State) (srcs : List Reg) (lat : Nat) (d : Fin 64) (v : Word),
    xResult s.core i = some (srcs, lat, d, v) → Ready s srcs →
    exec i s = .next { s with core := s.core.gives (givesX s.core lat d v) }) ∧
  (∀ (i : Instr) (s : State) (d a : Fin 64) (n : Nat),
    bitCountRegs i = some (d, a) → bitCount (s.core.rx a) i = some n → Ready s [.x a.val] →
    exec i s = .next { s with core := s.core.gives (givesX s.core 1 d (BitVec.ofNat 64 n)) })

/-- R82, R84: compares and predicate instructions.
R85: AADD and AMOV aD, xA. -/
def Obligations.PredicateAndAddressResults : Prop :=
  (∀ (i : Instr) (s : State) (srcs : List Reg) (d : Fin 16) (q : Prop),
    pResult s.core i = some (srcs, d, q) → Ready s srcs →
    ∃ b, (b = true ↔ q) ∧ exec i s = .next { s with core := s.core.gives (givesP s.core 1 d b) }) ∧
  (∀ (i : Instr) (s : State) (srcs : List Reg) (d : Fin 16) (v : Word),
    aResult s.core i = some (srcs, d, v) → Ready s srcs →
    exec i s = .next { s with core := s.core.gives [⟨s.core.cyc, .a d v⟩] })

/-- R86: LDS reads its bytes from scratch, little-endian, and extends them at latency 5; until then the scalar port holds it for
its phase-3 cycle (R72), where a fill that the bank frame does not count still reaches it.
R86: STS leaves to the end of its cycle the bytes of x[D], little-endian, at its address and nothing else.
R86: an access that is misaligned or beyond S takes SCRATCH_BOUNDS, and a load of a marked line POISON; neither has any other
effect. -/
def Obligations.ScratchAccess : Prop :=
  (∀ (sz : LdSize) (d : Fin 64) (base : Fin 16) (ofs : BitVec 19) (s : State),
    let n := (loadSize sz).1
    let addr := (s.core.ra base).toNat + ofs.toNat
    Ready s [.a base.val] → scratchOk s.core addr n → s.core.marks.getLsbD (addr / 128) = false →
    ∃ (v : Word) (ls : List LoadRec), exec (.lds sz d base ofs) s =
        .next { s with core := { s.core.gives (givesX s.core 5 d v) with loads := s.core.loads ++ ls } } ∧
      (∀ l ∈ ls, l.reg = d ∧ l.addr = addr ∧ l.size = n ∧ l.port % 4 = 3 ∧ s.core.cyc < l.port ∧ l.port ≤ s.core.cyc + 4) ∧
      ∀ k j, k < 8 → j < 8 → v.getLsbD (8 * k + j) =
        if k < n then (scratchByte s.core (addr + k)).getLsbD j
        else (loadSize sz).2 && (scratchByte s.core (addr + n - 1)).getLsbD 7) ∧
  (∀ (sz : StSize) (d : Fin 64) (base : Fin 16) (ofs : BitVec 19) (s : State),
    let n := storeSize sz
    let addr := (s.core.ra base).toNat + ofs.toNat
    Ready s [.a base.val, .x d.val] → scratchOk s.core addr n →
    ∃ bs : List Byte, exec (.sts sz d base ofs) s =
        .next { s with core := { s.core.done with endFx := s.core.endFx ++ [.bytes addr bs] } } ∧
      bs.length = n ∧ ∀ k, k < n → bs.getD k 0 = (s.core.rx d).extractLsb' (8 * k) 8) ∧
  (∀ (d : Fin 64) (base : Fin 16) (ofs : BitVec 19) (s : State),
    let addr := (s.core.ra base).toNat + ofs.toNat
    (∀ sz, Ready s [.a base.val] → ¬ scratchOk s.core addr (loadSize sz).1 →
      exec (.lds sz d base ofs) s = .next { s with core := { s.core with out := .trapped .scratchBounds 0 } }) ∧
    (∀ sz, Ready s [.a base.val, .x d.val] → ¬ scratchOk s.core addr (storeSize sz) →
      exec (.sts sz d base ofs) s = .next { s with core := { s.core with out := .trapped .scratchBounds 0 } }) ∧
    (∀ sz, Ready s [.a base.val] → scratchOk s.core addr (loadSize sz).1 → s.core.marks.getLsbD (addr / 128) = true →
      exec (.lds sz d base ofs) s = .next { s with core := { s.core with out := .trapped .poison 0 } }))

/-- R74 to R76: CSRRD gives each register's value with its reserved fields 0, and CSRWR writes SBCHK alone, from the next cycle
on.
R90: TLOOK gives the least slot whose valid entry holds the key, or -1; TSET makes a slot hold a key; TINV invalidates one
slot, or all when bit 63 is set. -/
def Obligations.ControlRegistersAndTags : Prop :=
  (∀ (s : State) (d a : Fin 64) (n : Fin 4096),
    (∀ v, csrValue s n.val = some v → Ready s [] → exec (.csrrd d n) s = .next { s with core := s.core.gives (givesX s.core 1 d v) }) ∧
    (Ready s [.x a.val] → exec (.csrwr n a) s = .next { s with core := { s.core.done with endFx := s.core.endFx ++
        (if n.val = 0 then [.sbchk ((s.core.rx a).toNat % 2 = 1)] else []) } })) ∧
  (∀ (d a b : Fin 64) (s : State),
    (Ready s [.x a.val] → tagsRise s.core.tags → ∃ v, exec (.tlook d a) s = .next { s with core := s.core.gives (givesX s.core 2 d v) } ∧
      tagAnswer s.core.tags (s.core.rx a) v) ∧
    (Ready s [.x a.val, .x b.val] → tagsRise s.core.tags →
      ∃ ts, exec (.tset a b) s = .next { s with core := { s.core.done with tags := ts } } ∧ tagsRise ts ∧
        ∀ k w, (k, w) ∈ ts ↔ if k = (s.core.rx a).toNat % 1024 then w = s.core.rx b else (k, w) ∈ s.core.tags) ∧
    (Ready s [.x a.val] →
      ∃ ts, exec (.tinv a) s = .next { s with core := { s.core.done with tags := ts } } ∧
        ∀ k w, (k, w) ∈ ts ↔ (k, w) ∈ s.core.tags ∧ (s.core.rx a).getLsbD 63 = false ∧ k ≠ (s.core.rx a).toNat % 1024))

/-- R87, R89: the scalar float instructions round the exact result once, F32 into the low half with the upper half 0; SFCVT
converts between eight formats, I32 sign-extended.
R88: SFCMP compares with -0 equal to +0 and a NaN unordered, at latency 2. -/
def Obligations.ScalarFloat : Prop :=
  ((∀ (i : Instr) (s : State) (f : FloatFmt) (lat : Nat) (d : Fin 64) (rm : Rm) (op : Nat) (rs : List (Fin 64)),
    floatForm i = some (f, lat, d, rm, op, rs) → Ready s (rs.map fun r => .x r.val) →
    exec i s = .next { s with core := s.core.gives (givesX s.core lat d (BitVec.ofNat 64
      (roundTo f rm 0 (floatExact rm op (floatArg s.core f rs 0) (floatArg s.core f rs 1) (floatArg s.core f rs 2))))) }) ∧
  (∀ (rm : Rm) (d a : Fin 64) (src dst : Fmt) (s : State), src.toNat ∈ sfcvtCodes → dst.toNat ∈ sfcvtCodes → Ready s [.x a.val] →
    let code := BitVec.ofNat 64 (convertCode (fmtKind src) (fmtKind dst) rm 0 (s.core.rx a).toNat)
    exec (.sfcvt rm d a src dst) s = .next { s with core := s.core.gives (givesX s.core 4 d
      (if dst = 5 then (code.truncate 32).signExtend 64 else code)) }) ∧
  (∀ (rm : Rm) (d a : Fin 64) (src dst : Fmt) (s : State), ¬ (src.toNat ∈ sfcvtCodes ∧ dst.toNat ∈ sfcvtCodes) →
    Ready s [.x a.val] →
    exec (.sfcvt rm d a src dst) s = .next { s with core := { s.core with out := .trapped .formatMismatch 0 } })) ∧
  (∀ (k : FCond) (d : Fin 16) (a b : Fin 64) (s : State), Ready s [.x a.val, .x b.val] →
    (∃ q, exec (.sfcmpF32 k d a b) s = .next { s with core := s.core.gives (givesP s.core 2 d q) } ∧
      (q = true ↔ fcondSays k (FloatFmt.f32.decode ((s.core.rx a).toNat % 2 ^ 32)) (FloatFmt.f32.decode ((s.core.rx b).toNat % 2 ^ 32)))) ∧
    (∃ q, exec (.sfcmpF64 k d a b) s = .next { s with core := s.core.gives (givesP s.core 2 d q) } ∧
      (q = true ↔ fcondSays k (FloatFmt.f64.decode (s.core.rx a).toNat) (FloatFmt.f64.decode (s.core.rx b).toNat))))

/-! ### Control flow (R91 to R105) -/

/-- R91, R92, R95 to R97, R103: a transfer leaves a redirection to fall at the end of its second delay slot: to the target with
its stack effect where taken, to the bundle after the delay slots where not, at the fetch cost of a wrong prediction.
R43: with a false guard it is not taken, and its delay slots issue all the same. -/
def Obligations.Transfers : Prop :=
  (∀ (i : Instr) (s : State) (srcs : List Reg) (taken : Bool) (t : Int) (act : StackAct) (cost : Nat),
    transferForm s.core i = some (srcs, taken, t, act, cost) → Ready s srcs → ¬ endsBody s.core → s.core.eng.fresh = none →
    (taken = true → targetOk s.core t) →
    exec i s = .next { s with
      freeCtr := if isBr i then s.freeCtr + 1 else s.freeCtr,
      core := { s.core.done with redirect := some (if taken then ⟨3, some t.toNat, act, cost⟩ else ⟨3, none, .none, cost⟩) } }) ∧
  (∀ (i : Instr) (s : State), i.isTransfer = true → guardOff s → ¬ endsBody s.core → exec i s = .next { s with
    freeCtr := if isBr i then s.freeCtr + 1 else s.freeCtr,
    core := { s.core.done with redirect := some ⟨3, none, .none, idleCost i⟩ } })

/-- R91, R97, R102, R103: a taken transfer out of the code object takes OBJ_BOUNDS, a CALL on a full call stack and a RET on an empty
one CALL_DEPTH, an LBREAK of more levels than there are LOOP_NEST, and any transfer at the end of a body LOOP_NEST, whatever its
guard. -/
def Obligations.TransferTraps : Prop :=
  (∀ (i : Instr) (s : State) (srcs : List Reg) (t : Int) (act : StackAct) (cost : Nat),
    transferForm s.core i = some (srcs, true, t, act, cost) → Ready s srcs → ¬ endsBody s.core → s.core.eng.fresh = none →
    ¬ targetOk s.core t →
    exec i s = .next { s with
      freeCtr := if isBr i then s.freeCtr + 1 else s.freeCtr, core := { s.core with out := .trapped .objBounds 0 } }) ∧
  (∀ (i : Instr) (s : State), i.isTransfer = true → endsBody s.core → exec i s = .next { s with
    freeCtr := if isBr i then s.freeCtr + 1 else s.freeCtr, core := { s.core with out := .trapped .loopNest 0 } }) ∧
  ∀ (s : State) (disp : BitVec 32) (n : Fin 7), Ready s [] → ¬ endsBody s.core →
    (16 ≤ s.core.calls.length → exec (.call disp) s = .next { s with core := { s.core with out := .trapped .callDepth 0 } }) ∧
    (s.core.calls = [] → exec .ret s = .next { s with core := { s.core with out := .trapped .callDepth 0 } }) ∧
    ((s.core.loops.filter fun l => l.cd = s.core.calls.length).length < n.val →
      exec (.lbreak n disp) s = .next { s with core := { s.core with out := .trapped .loopNest 0 } })

/-- R100, R104: a loop opener with a nonzero count pushes a level, or takes LOOP_NEST where six are active or its end lies beyond the
innermost one's; with count 0 the stream goes on after the body's last bundle, at a fetch cost of 3.
R91, R97, R101, R102: what follows a bundle. At the end of a body the sequencer loops back or leaves the level, with its steps, and an
outer level that shares the end is tested in the same cycle; a redirection counts its bundles down and then goes to its target, with
its call, its return with the callee's levels left, or the levels left until a body contains the target. -/
def Obligations.LoopOpeners : Prop :=
  (∀ (i : Instr) (s : State) (srcs : List Reg) (n : Nat) (sw : Word) (disp : BitVec 32),
    loopForm s.core i = some (srcs, n, sw, disp) → i.wf = true → Ready s srcs →
    (n ≠ 0 → s.core.loops.length < 6 → (∀ l, s.core.innermost = some l → bodyEnd s.core disp ≤ l.e) →
      exec i s = .next { s with core := { s.core.done with
        loops := ⟨0, n, s.core.iss.addr + s.core.iss.len, bodyEnd s.core disp, sw, s.core.calls.length⟩ :: s.core.loops } }) ∧
    (n ≠ 0 → s.core.loops.length = 6 ∨ (∃ l, s.core.innermost = some l ∧ l.e < bodyEnd s.core disp) →
      exec i s = .next { s with core := { s.core with out := .trapped .loopNest 0 } }) ∧
    (n = 0 → exec i s = .next { s with core := { s.core.done with
        redirect := some ⟨1, some (bodyEnd s.core disp + s.core.lenAt (bodyEnd s.core disp)), .none, 3⟩ } })) ∧
  (∀ (c : Core) (l : Level), c.redirect = none → c.innermost = some l → l.e = c.iss.addr → let d := c.endIssue
    (l.lc + 1 < l.n → sameButStream c d ∧ d.pc = l.b ∧ d.calls = c.calls ∧ aMoved c d (backAdds l) ∧
      d.loops = updFirst (fun v => v.cd = c.calls.length) (fun v => { v with lc := v.lc + 1 }) c.loops) ∧
    (¬ l.lc + 1 < l.n → (∀ v ∈ c.loops.erase l, v.cd = c.calls.length → v.e ≠ c.iss.addr) →
      sameButStream c d ∧ d.pc = c.iss.addr + c.iss.len ∧ d.calls = c.calls ∧ aMoved c d (exitAdds l) ∧ d.loops = c.loops.erase l) ∧
    (∀ o ls, ¬ l.lc + 1 < l.n → c.loops = l :: o :: ls → o.cd = c.calls.length → o.e = c.iss.addr → o.lc + 1 < o.n →
      sameButStream c d ∧ d.pc = o.b ∧ d.loops = { o with lc := o.lc + 1 } :: ls ∧ aMoved c d fun r => exitAdds l r + backAdds o r)) ∧
  (∀ c : Core, noEnd c →
    (c.redirect = none → c.endIssue = { c with justIss := false, pc := c.nextPc }) ∧
    ∀ r, c.redirect = some r →
      (1 < r.left → c.endIssue = { c with justIss := false, pc := c.nextPc, redirect := some { r with left := r.left - 1 } }) ∧
      (r.left ≤ 1 → r.target = none →
        c.endIssue = { c with justIss := false, pc := c.nextPc, redirect := none, nextIss := c.nextIss + r.cost }) ∧
      ∀ t, r.left ≤ 1 → r.target = some t → let d := c.endIssue
        sameButStream c d ∧ d.pc = t ∧ d.redirect = none ∧ d.nextIss = c.nextIss + r.cost ∧
        (r.act = .none → d.a = c.a ∧ d.loops = c.loops ∧ d.calls = c.calls) ∧
        (∀ e, r.act = .push e → d.a = c.a ∧ d.loops = c.loops ∧ d.calls = e :: c.calls) ∧
        (r.act = .pop → c.loops.length ≤ 6 → d.calls = c.calls.tail ∧ d.loops = c.loops.filter (fun l => l.cd ≠ c.calls.length) ∧
          aMoved c d fun x => ((c.loops.filter fun l => l.cd = c.calls.length).map fun l => leaveAdds l x).sum) ∧
        (∀ k, r.act = .leave k → c.loops.length ≤ 6 → (∀ l ∈ c.loops, l.cd = c.calls.length) → d.calls = c.calls ∧
          ∃ j, j ≤ c.loops.length ∧ (k ≤ j ∨ j = c.loops.length) ∧ d.loops = c.loops.drop j ∧
            (∀ l, c.loops[j]? = some l → l.b ≤ t ∧ t ≤ l.e) ∧
            (∀ (i : Nat) (l : Level), k ≤ i → i < j → c.loops[i]? = some l → ¬ (l.b ≤ t ∧ t ≤ l.e)) ∧
            aMoved c d fun x => ((c.loops.take j).map fun l => leaveAdds l x).sum))

/-! ### Vector instructions (R126 to R168) -/

/-- R127 to R129, R135 to R137, R139 to R141: element-wise arithmetic, VMIN, VMAX, VABS, VNEG and VCPS give every selected element
the exact result wrapped or rounded once, or chosen, or its sign set; they keep or clear the others by the mask, and give the result
A's format and scale. -/
def Obligations.VectorArithmetic : Prop :=
  ∀ (i : Instr) (s : State) (f : VForm), (arithForm s.core i = some f ∨ signForm s.core i = some f) → Ready s f.reads → f.runs s.core →
    ∃ r : VReg, exec i s = .next { s with core := s.core.gives (givesV s.core (latIf s.core f.lat) f.d r) } ∧
      r.tag = ⟨(s.core.rv f.a).tag.fmt, (s.core.rv f.a).tag.scale, mergedPoison s.core f.k f.d⟩ ∧
      holds s.core f.k f.d (fmtKind (s.core.rv f.a).tag.fmt).bytes r f.el

/-- R132: the causes of the same instructions, in order POISON, FORMAT_RESERVED, FORMAT_MISMATCH, FORMAT_EMULATE; a trapping
syllable has no other effect. That a merge into a register of POISON's format code is FORMAT_MISMATCH is the model's choice (log 66). -/
def Obligations.VectorTrapOrder : Prop :=
  ∀ (i : Instr) (s : State) (f : VForm) (k : Cause), (arithForm s.core i = some f ∨ signForm s.core i = some f) → Ready s f.reads →
    f.cause s.core = some k → exec i s = .next { s with core := { s.core with out := .trapped k 0 } }

/-- R124, R138, R167: the functions complete in their formats, with the results that R124 fixes for NaN, infinite and zero
operands. -/
def Obligations.VectorFunctions : Prop :=
  ∀ (i : Instr) (s : State) (d a : Fin 32) (k : MaskOp) (rm : Rm) (single : Bool) (g : FloatFmt),
    functionForm i = some (d, a, k, rm, single) → Ready s (.v a.val :: maskReads k (.v d.val)) →
    fmtKind (s.core.rv a).tag.fmt = .flt g → (g = .f32 ∨ (single = false ∧ (g = .f64 ∨ (g = .t16 ∧ s.core.iss.emul = true)))) →
    tagOk (s.core.rv a).tag → mergeOk s.core k d (s.core.rv a).tag.fmt 0 →
    let lat := if single then 6 else if g = .f64 then 24 else 12
    ∃ r : VReg, exec i s = .next { s with core := s.core.gives (givesV s.core (latIf s.core lat) d r) } ∧
      r.tag = ⟨(s.core.rv a).tag.fmt, 0, mergedPoison s.core k d⟩ ∧
      ∀ e, e < 512 / g.bytes →
        (selects s.core k g.bytes e = false → bitsAt r.data g.bytes e = unselected s.core k d g.bytes e) ∧
        ∀ y, selects s.core k g.bytes e = true → special i ((s.core.rv a).val e) = some y →
          bitsAt r.data g.bytes e = roundTo g rm 0 y % 2 ^ (8 * g.bytes)

/-- R145, R146: bitwise operations and shifts act on the patterns and carry the poison bit along.
R142 to R144: VCMP and VCLASS give a mask with every bit of an element equal, VCLASS by the classes of R143, VSEL chooses by such a
mask. -/
def Obligations.VectorBitsAndMasks : Prop :=
  ((∀ (i : Instr) (s : State) (d a b : Fin 32) (k : MaskOp) (op : Nat → Nat → Nat), bitForm i = some (d, a, b, k, op) →
    let x := s.core.rv a
    let y := s.core.rv b
    let t := bitTag x.tag y.tag
    Ready s (.v a.val :: .v b.val :: maskReads k (.v d.val)) → tagCarries x.tag → tagCarries y.tag →
    (x.tag.fmt = y.tag.fmt ∨ x.tag.fmt = fmtRaw ∨ y.tag.fmt = fmtRaw) → mergeOk s.core k d t.fmt t.scale →
    ∃ r : VReg, exec i s = .next { s with core := s.core.gives (givesV s.core (latIf s.core 2) d r) } ∧
      r.tag = { t with poison := t.poison || mergedPoison s.core k d } ∧
      holds s.core k d (fmtKind t.fmt).bytes r fun e => op (bitsAt x.data (fmtKind t.fmt).bytes e) (bitsAt y.data (fmtKind t.fmt).bytes e)) ∧
  (∀ (s : State) (d a : Fin 32) (k : MaskOp),
    let x := s.core.rv a
    Ready s (.v a.val :: maskReads k (.v d.val)) → tagCarries x.tag → mergeOk s.core k d x.tag.fmt x.tag.scale →
    ∃ r : VReg, exec (.vnot d a k) s = .next { s with core := s.core.gives (givesV s.core (latIf s.core 2) d r) } ∧
      r.tag = { x.tag with poison := x.tag.poison || mergedPoison s.core k d } ∧
      holds s.core k d x.w r fun e => 2 ^ (8 * x.w) - 1 - x.bits e) ∧
  (∀ (i : Instr) (s : State) (d a b : Fin 32) (k : MaskOp) (op : Nat → Nat → Nat → Nat), shiftForm i = some (d, a, b, k, op) →
    let x := s.core.rv a
    let y := s.core.rv b
    Ready s (.v a.val :: .v b.val :: maskReads k (.v d.val)) → tagCarries x.tag → tagCarries y.tag → x.tag.fmt = y.tag.fmt →
    (x.kind = .raw ∨ x.kind.isInt = true) → mergeOk s.core k d x.tag.fmt x.tag.scale →
    ∃ r : VReg, exec i s = .next { s with core := s.core.gives (givesV s.core (latIf s.core 2) d r) } ∧
      r.tag = { x.tag with poison := x.tag.poison || y.tag.poison || mergedPoison s.core k d } ∧
      holds s.core k d x.w r fun e => op (8 * x.w) (x.bits e) (y.bits e % (8 * x.w)))) ∧
  ((∀ (q : FCond) (d : Fin 8) (a b : Fin 32) (k : MaskOp) (s : State),
    let x := s.core.rv a
    let y := s.core.rv b
    Ready s (.v a.val :: .v b.val :: maskReads k (.m d.val)) → tagOk x.tag → tagOk y.tag → x.tag.fmt = y.tag.fmt →
    numbers x.kind = true → (x.kind = .flt .t16 → s.core.iss.emul = true) →
    ∃ m : MBits, exec (.vcmp q d a b k) s = .next { s with core := s.core.gives (givesM s.core (latIf s.core 2) d m) } ∧
      ∀ j, j < 512 →
        (selects s.core k x.w (j / x.w) = true → (m.getLsbD j = true ↔ fcondSays q (x.val (j / x.w)) (y.val (j / x.w)))) ∧
        (selects s.core k x.w (j / x.w) = false → m.getLsbD j = (MaskOp.merges k && (s.core.rm d).getLsbD j))) ∧
  (∀ (d : Fin 8) (a : Fin 32) (set : BitVec 7) (s : State),
    let x := s.core.rv a
    Ready s [.v a.val] → tagOk x.tag → numbers x.kind = true → (x.kind = .flt .t16 → s.core.iss.emul = true) →
    ∃ m : MBits, exec (.vclass d a set) s = .next { s with core := s.core.gives (givesM s.core (latIf s.core 2) d m) } ∧
      ∀ j, j < 512 → m.getLsbD j = decide (classBits x.kind (x.bits (j / x.w)) &&& set.toNat ≠ 0)) ∧
  (∀ (d a b : Fin 32) (m : Fin 8) (s : State),
    let x := s.core.rv a
    let y := s.core.rv b
    Ready s [.v a.val, .v b.val, .m m.val] → tagCarries x.tag → tagCarries y.tag → x.tag.fmt = y.tag.fmt → x.tag.scale = y.tag.scale →
    ∃ r : VReg, exec (.vsel d a b m) s = .next { s with core := s.core.gives (givesV s.core (latIf s.core 2) d r) } ∧
      r.tag = { x.tag with poison := x.tag.poison || y.tag.poison } ∧
      ∀ e, e < 512 / x.w → bitsAt r.data x.w e = if (s.core.rm m).getLsbD (x.w * e) = true then x.bits e else y.bits e) ∧
  (∀ (k : FmtKind) (code b : Nat), b < 7 → ((classBits k code).testBit b = true ↔ inClass k code b)))

/-- R121, R139, R147 to R151: conversion by R121's table, scaling, tags, moves and broadcast. VTAG looks at no other field of A's tag
than POISON, and VMOV under no mask at none (log 118); a clause on the corner that a value's format fixes follows log 44. -/
def Obligations.VectorConversionAndTags : Prop :=
  (∀ (rm : Rm) (d a : Fin 32) (fmt : Fmt) (k : MaskOp) (s : State),
    let x := s.core.rv a
    let w := (fmtKind fmt).bytes
    Ready s (.v a.val :: maskReads k (.v d.val)) → tagOk x.tag → numbers x.kind = true → numbers (fmtKind fmt) = true →
    (x.kind = .flt .t16 ∨ fmtKind fmt = .flt .t16 → s.core.iss.emul = true) → mergeOk s.core k d fmt 0 →
    ∃ r : VReg, exec (.vcvt rm d a fmt k) s = .next { s with core := s.core.gives (givesV s.core (latIf s.core 3) d r) } ∧
      r.tag = ⟨fmt, 0, mergedPoison s.core k d⟩ ∧
      ∀ e, e < 512 / w → bitsAt r.data w e =
        if 512 / x.w ≤ e then 0
        else if selects s.core k w e = true then convertCode x.kind (fmtKind fmt) rm x.tag.scale.toInt (x.bits e) % 2 ^ (8 * w)
        else unselected s.core k d w e) ∧
  (∀ (rm : Rm) (d a b : Fin 32) (k : MaskOp) (s : State),
    let x := s.core.rv a
    let y := s.core.rv b
    Ready s (.v a.val :: .v b.val :: maskReads k (.v d.val)) → tagOk x.tag → tagOk y.tag → floats x.kind = true →
    y.kind = .int true x.w → (x.kind = .flt .t16 → s.core.iss.emul = true) → mergeOk s.core k d x.tag.fmt x.tag.scale →
    ∃ r : VReg, exec (.vscale rm d a b k) s = .next { s with core := s.core.gives (givesV s.core (latIf s.core 4) d r) } ∧
      r.tag = ⟨x.tag.fmt, x.tag.scale, mergedPoison s.core k d⟩ ∧
      holds s.core k d x.w r fun e => encAs x rm 0 (.ofVal ((x.val e).shift (y.int e)))) ∧
  (∀ (d a : Fin 32) (fmt : Fmt) (scale : BitVec 8) (poison : Bool) (s : State),
    Ready s [.v a.val] → (s.core.rv a).tag.fmt ≠ fmtPoison → tagCarries ⟨fmt, scale, false⟩ ∨ fmt = fmtPoison ∧ scale = 0 →
    let r : VReg := ⟨(s.core.rv a).data, ⟨fmt, scale, (s.core.rv a).tag.poison || poison⟩⟩
    exec (.vtag d a fmt scale poison) s = .next { s with core := s.core.gives (givesV s.core (latIf s.core 2) d r) }) ∧
  (∀ (d a : Fin 32) (s : State), Ready s [.v a.val] →
    exec (.vmov d a .all) s = .next { s with core := s.core.gives (givesV s.core (latIf s.core 2) d (s.core.rv a)) }) ∧
  (∀ (d a : Fin 32) (m : Fin 8) (z : Bool) (s : State),
    let x := s.core.rv a
    Ready s (.v a.val :: maskReads (.mask m z) (.v d.val)) → tagCarries x.tag → mergeOk s.core (.mask m z) d x.tag.fmt x.tag.scale →
    ∃ r : VReg, exec (.vmov d a (.mask m z)) s = .next { s with core := s.core.gives (givesV s.core (latIf s.core 2) d r) } ∧
      r.tag = { x.tag with poison := x.tag.poison || mergedPoison s.core (.mask m z) d } ∧ holds s.core (.mask m z) d x.w r x.bits) ∧
  (∀ (d : Fin 32) (imm : BitVec 32) (fmt : Fmt) (s : State), Ready s [] → fmtKind fmt ≠ .reserved →
    (fmtKind fmt = .flt .t16 → s.core.iss.emul = true) →
    ∃ r : VReg, exec (.vmovi d imm fmt) s = .next { s with core := s.core.gives (givesV s.core (latIf s.core 2) d r) } ∧
      r.tag = ⟨fmt, 0, false⟩ ∧ ∀ e, e < 512 / (fmtKind fmt).bytes →
        bitsAt r.data (fmtKind fmt).bytes e = immPattern fmt imm % 2 ^ (8 * (fmtKind fmt).bytes)) ∧
  (∀ (d a : Fin 32) (n : Fin 128) (s : State),
    let x := s.core.rv a
    Ready s [.v a.val] → tagCarries x.tag →
    ∃ r : VReg, exec (.vbcast d a n) s = .next { s with core := s.core.gives (givesV s.core (latIf s.core 6) d r) } ∧
      r.tag = x.tag ∧ ∀ e, e < 512 / x.w → bitsAt r.data x.w e = x.bits (n.val % (512 / x.w))) ∧
  (∀ (src dst : FmtKind) (rm : Rm) (scale : Int) (code : Nat),
    convertSays dst rm (valOf src scale code) (convertCode src dst rm scale code))

/-- R152 to R154: VLD loads a register and VST stores one, in 512 bytes of scratch or 384 for T6.
R154, R168: a vector access that is misaligned or beyond S takes SCRATCH_BOUNDS and has no other effect. That v[D]
is a source only where a load merges (log 93), and that every whole granule of the bytes counts (logs 45, 94), are the model's choices. -/
def Obligations.VectorLoadsAndStores : Prop :=
  ((∀ (d : Fin 32) (base : Fin 16) (ofs : BitVec 19) (k : MaskOp) (s : State),
    let t := (s.core.rv d).tag
    let addr := vAddr s.core base ofs
    Ready s (.a base.val :: maskReads k (.v d.val)) → (k = .all ∧ t.fmt = fmtPoison ∧ t.scale = 0) ∨ tagCarries t →
    vInScratch s.core addr (vSize t) →
    ∃ r : VReg, loadLeaves s.core k d addr r ∧ exec (.vld d base ofs k) s = .next { s with
      core := { s.core.gives (givesV s.core 6 d r) with port := s.core.port ++ portWork s.core false (granulesOf addr (vSize t)) } }) ∧
  (∀ (d : Fin 32) (base : Fin 16) (ofs : BitVec 19) (k : MaskOp) (s : State),
    let v := s.core.rv d
    let addr := vAddr s.core base ofs
    Ready s (.a base.val :: .v d.val :: maskReads k (.v d.val)) → tagCarries v.tag → vInScratch s.core addr (vSize v.tag) →
    ∃ fs : List EndEffect, storeLeaves s.core v addr (selects s.core k v.w) (k ≠ .all && !MaskOp.merges k) fs ∧
      exec (.vst d base ofs k) s = .next { s with
        core := { s.core.done with endFx := s.core.endFx ++ fs, port := s.core.port ++ portWork s.core false (granulesOf addr (vSize v.tag)) } })) ∧
  (∀ (d : Fin 32) (base : Fin 16) (ofs : BitVec 19) (k : MaskOp) (s : State),
    let t := (s.core.rv d).tag
    Ready s (.a base.val :: .v d.val :: maskReads k (.v d.val)) → tagCarries t →
    ¬ vInScratch s.core (vAddr s.core base ofs) (vSize t) →
    exec (.vld d base ofs k) s = .next { s with core := { s.core with out := .trapped .scratchBounds 0 } } ∧
    exec (.vst d base ofs k) s = .next { s with core := { s.core with out := .trapped .scratchBounds 0 } })

/-- R155: VLDF takes an access from the slot at HEAD of a furrow and VSTF gives one to a slot it claims; at the slot's end it is
popped, or pushed, at the end of the cycle. R156: with a false guard the transfer takes place all the same, VLDF writing no register and
VSTF zeros; a furrow of another use or slot size takes FURROW_CONFIG, and one with no filled or free slot holds the bundle, or orphans it
at the checks of R212, whatever the guard. The sources and the port's granules are the model's choice (logs 93, 94). -/
def Obligations.VectorFurrowAccess : Prop :=
  (∀ (d i : Fin 32) (k : MaskOp) (s : State),
    let t := (s.core.rv d).tag
    let f := s.core.rf i
    let n := vSize t
    let addr := slotAddr f f.head + f.vrd
    Ready s (maskReads k (.v d.val)) → (k = .all ∧ t.fmt = fmtPoison ∧ t.scale = 0) ∨ tagCarries t → vConsumes f n → 0 < f.filled →
    ∃ r : VReg, loadLeaves s.core k d addr r ∧ exec (.vldf d i k) s = .next { s with
      core := { s.core.gives (givesV s.core 6 d r) with
        port := s.core.port ++ portWork s.core false (granulesOf addr n), f := setAt s.core.f i (afterTake f n),
        endFx := s.core.endFx ++ (if f.slotsz ≤ f.vrd + n then [.release i 1] else []) } }) ∧
  (∀ (i d : Fin 32) (k : Option (Fin 8)) (s : State),
    let v := s.core.rv d
    let f := s.core.rf i
    let n := vSize v.tag
    let addr := slotAddr f (giveSlot f) + f.vwr
    Ready s (.v d.val :: maskReadsO k) → tagCarries v.tag → vProduces f n → f.vwr ≠ 0 ∨ 0 < f.free →
    ∃ fs : List EndEffect, storeLeaves s.core v addr (selectsO s.core k v.w) true fs ∧ exec (.vstf i d k) s = .next { s with
      core := { s.core.done with
        port := s.core.port ++ portWork s.core false (granulesOf addr n), f := setAt s.core.f i (afterGive f n),
        endFx := s.core.endFx ++ fs ++ (if f.slotsz ≤ f.vwr + n then [.fill i 1] else []) } }) ∧
  (∀ (d i : Fin 32) (k : MaskOp) (s : State), guardOff s →
    let f := s.core.rf i
    let n := vSize (s.core.rv d).tag
    vConsumes f n → 0 < f.filled → exec (.vldf d i k) s = .next { s with core := { s.core.done with
      port := s.core.port ++ portWork s.core false (granulesOf (slotAddr f f.head + f.vrd) n), f := setAt s.core.f i (afterTake f n),
      endFx := s.core.endFx ++ (if f.slotsz ≤ f.vrd + n then [.release i 1] else []) } }) ∧
  (∀ (i d : Fin 32) (k : Option (Fin 8)) (s : State), guardOff s →
    let v := s.core.rv d
    let f := s.core.rf i
    let n := vSize v.tag
    let addr := slotAddr f (giveSlot f) + f.vwr
    vProduces f n → f.vwr ≠ 0 ∨ 0 < f.free →
    ∃ fs : List EndEffect, storeLeaves s.core v addr (fun _ => false) true fs ∧ exec (.vstf i d k) s = .next { s with core :=
      { s.core.done with
        port := s.core.port ++ portWork s.core false (granulesOf addr n), f := setAt s.core.f i (afterGive f n),
        endFx := s.core.endFx ++ fs ++ (if f.slotsz ≤ f.vwr + n then [.fill i 1] else []) } }) ∧
  (∀ (d i : Fin 32) (k : MaskOp) (l : Option (Fin 8)) (s : State),
    let f := s.core.rf i
    let n := vSize (s.core.rv d).tag
    let held (live : Bool) : State :=
      let first := s.core.fwait.getD s.core.waits
      { s with core := { s.core with
        fwait := some first, out := if (s.core.waits - first) % 1024 = 0 ∧ live = false then .orphaned else .held } }
    (guardOff s ∨ (Ready s (.v d.val :: (maskReads k (.v d.val) ++ maskReadsO l)) ∧ tagCarries (s.core.rv d).tag) →
      (f.init = false ∨ (f.cons ≠ 0 ∧ f.cons ≠ 2) ∨ f.slotsz % n ≠ 0 → exec (.vldf d i k) s = .next (s.traps .furrowConfig)) ∧
      (f.init = false ∨ (f.prod ≠ 0 ∧ f.prod ≠ 2) ∨ f.slotsz % n ≠ 0 → exec (.vstf i d l) s = .next (s.traps .furrowConfig))) ∧
    (vConsumes f n → f.filled = 0 → exec (.vldf d i k) s = .next (held (s.prodLive s.core f true))) ∧
    (vProduces f n → f.vwr = 0 → f.free = 0 → exec (.vstf i d l) s = .next (held (s.consLive s.core f true))))

/-- R157: VGATH reads the selected elements at byte offsets, VSCAT writes them in ascending order. v[D] is a source of a
VGATH only where it merges (the model's choice: log 93). -/
def Obligations.VectorGatherScatter : Prop :=
  (∀ (sz : GSize) (d a : Fin 32) (k : MaskOp) (s : State),
    let w := (gatherShape sz).1
    let n := (gatherShape sz).2
    let x := s.core.rv a
    let t := (s.core.rv d).tag
    Ready s (.v a.val :: maskReads k (.v d.val)) → tagOk x.tag → x.tag.fmt = fmtN32 → tagCarries t → (fmtKind t.fmt).bytes = w →
    offsetsOk s.core x w n (selects s.core k w) →
    ∃ r : VReg, exec (.vgath sz d a k) s = .next { s with core := { s.core.gives (givesV s.core 10 d r) with
        port := s.core.port ++ portWork s.core true (gatherWork x n (selects s.core k w)) } } ∧
      r.tag = { t with poison := mergedPoison s.core k d ||
        (List.range n).any fun e => selects s.core k w e && placeMarked s.core (x.bits e) } ∧
      ∀ e, e < 512 / w → bitsAt r.data w e = if n ≤ e then 0
        else if selects s.core k w e = true then memRead s.core.scratch (x.bits e) w else unselected s.core k d w e) ∧
  (∀ (sz : GSize) (a b : Fin 32) (k : Option (Fin 8)) (s : State),
    let w := (gatherShape sz).1
    let n := (gatherShape sz).2
    let x := s.core.rv a
    let y := s.core.rv b
    let sel := selectsO s.core k w
    Ready s (.v a.val :: .v b.val :: maskReadsO k) → tagOk x.tag → x.tag.fmt = fmtN32 → tagCarries y.tag → y.w = w →
    offsetsOk s.core x w n sel →
    ∃ fs : List EndEffect, exec (.vscat sz a b k) s = .next { s with core := { s.core.done with
        endFx := s.core.endFx ++ fs, port := s.core.port ++ portWork s.core true (gatherWork x n sel) } } ∧
      (∀ e j, e < n → sel e = true → (∀ e', e < e' → e' < n → sel e' = true → x.bits e' ≠ x.bits e) → j < w →
        fxByte fs (x.bits e + j) = some (BitVec.ofNat 8 (y.bits e / 256 ^ j))) ∧
      (∀ q, (∀ e, e < n → sel e = true → ¬ (x.bits e ≤ q ∧ q < x.bits e + w)) → fxByte fs q = none) ∧
      ∀ l, fxMark fs l = if y.tag.poison && (List.range n).any (fun e => sel e && decide (x.bits e / 128 = l)) then some true else none)

/-- R158, R161: lane movement, VIOTA and VTOS. -/
def Obligations.VectorLaneMovement : Prop :=
  (∀ (d a b : Fin 32) (s : State),
    let x := s.core.rv a
    let y := s.core.rv b
    Ready s [.v a.val, .v b.val] → tagCarries x.tag → tagOk y.tag → y.tag.fmt = nFmt x.w →
    (∃ r : VReg, exec (.vperm d a b) s = .next { s with core := s.core.gives (givesV s.core (latIf s.core 2) d r) } ∧ r.tag = x.tag ∧
      ∀ e, e < 512 / x.w → bitsAt r.data x.w e = x.bits (e / (64 / x.w) * (64 / x.w) + y.bits e % (64 / x.w))) ∧
    (∃ r : VReg, exec (.vxcl d a b) s = .next { s with core := s.core.gives (givesV s.core (latIf s.core 6) d r) } ∧ r.tag = x.tag ∧
      ∀ e, e < 512 / x.w → bitsAt r.data x.w e = x.bits (y.bits e % (512 / x.w)))) ∧
  (∀ (d : Fin 32) (s : State), Ready s [] →
    ∃ r : VReg, exec (.viota d) s = .next { s with core := s.core.gives (givesV s.core 2 d r) } ∧ r.tag = ⟨fmtN32, 0, false⟩ ∧
      ∀ l, l < 128 → r.lane l = l) ∧
  (∀ (d : Fin 32) (a : Fin 32) (lane : Fin 128) (s : State),
    let x := s.core.rv a
    Ready s [.v a.val] → tagOk x.tag →
    exec (.vtos d a lane) s = .next { s with core := s.core.gives (givesX s.core 3 ⟨d.val, by omega⟩
      (BitVec.ofNat 64 (if x.w = 8 then bitsAt x.data 8 (lane.val / 2) else bitsAt x.data 4 lane.val))) })

/-- R159, R160, R166: reductions, scans and hashing over the selected elements. -/
def Obligations.VectorReductions : Prop :=
  (∀ (op : VRedOp) (rm : Rm) (d a : Fin 32) (k : Option (Fin 8)) (s : State),
    let x := s.core.rv a
    let is := (List.range (512 / x.w)).filter (selectsO s.core k x.w)
    let arg := op = .argmax ∨ op = .argmin
    Ready s (.v a.val :: maskReadsO k) → tagOk x.tag → numbers x.kind = true → (x.kind = .flt .t16 → s.core.iss.emul = true) →
    ∃ r : VReg, exec (.vred op rm d a k) s = .next { s with core := s.core.gives (givesV s.core (latIf s.core 8) d r) } ∧
      r.tag = (if arg then ⟨fmtN32, 0, false⟩ else ⟨x.tag.fmt, x.tag.scale, false⟩) ∧
      (∀ e, 0 < e → e < 512 / r.w → r.bits e = 0) ∧
      (¬ arg → ∃ code, r.bits 0 = code % 2 ^ (8 * x.w) ∧ reduceSays (redOp op) rm x is code) ∧
      (arg → is = [] → r.bits 0 = 0xFFFFFFFF) ∧ (arg → is ≠ [] → bestAt (op = .argmin) x is (r.bits 0))) ∧
  (∀ (op : VScanOp) (rm : Rm) (d a : Fin 32) (k : MaskOp) (s : State),
    let x := s.core.rv a
    Ready s (.v a.val :: maskReads k (.v d.val)) → tagOk x.tag → numbers x.kind = true → (x.kind = .flt .t16 → s.core.iss.emul = true) →
    mergeOk s.core k d x.tag.fmt x.tag.scale →
    ∃ r : VReg, exec (.vscan op rm d a k) s = .next { s with core := s.core.gives (givesV s.core (latIf s.core 8) d r) } ∧
      r.tag = ⟨x.tag.fmt, x.tag.scale, mergedPoison s.core k d⟩ ∧
      ∀ e, e < 512 / x.w →
        (selects s.core k x.w e = true → ∃ code, bitsAt r.data x.w e = code % 2 ^ (8 * x.w) ∧
          reduceSays op rm x ((List.range (e + 1)).filter (selects s.core k x.w)) code) ∧
        (selects s.core k x.w e = false → bitsAt r.data x.w e = unselected s.core k d x.w e)) ∧
  (∀ (d a : Fin 32) (k : Option (Fin 8)) (s : State),
    let x := s.core.rv a
    let y := s.core.rv d
    Ready s (.v a.val :: .v d.val :: maskReadsO k) → tagOk x.tag → y.tag = ⟨fmtN64, 0, false⟩ →
    ∃ r : VReg, exec (.vhash d a k) s = .next { s with core := s.core.gives (givesV s.core 8 d r) } ∧ r.tag = ⟨fmtN64, 0, false⟩ ∧
      r.bits 0 = (crcBits (BitVec.ofNat 64 (bitsAt y.data 8 0)) (hashBits x (selectsO s.core k x.w))).toNat ∧
      ∀ e, 0 < e → e < 64 → bitsAt r.data 8 e = 0)

/-- R162 to R165: VRAND draws the next vector of the task's Philox stream, VDEFER queues the selected lanes, VDRAIN takes up to 128 visible
entries, oldest first. -/
def Obligations.VectorQueues : Prop :=
  (∀ (d : Fin 32) (s : State) (t : Task), Ready s [] → s.core.task = some t →
    exec (.vrand d) s = .next { s with core := { s.core.gives (givesV s.core 2 d
      ⟨randVector (t.ix % 2 ^ 32) (t.seed % 2 ^ 32) s.core.randN, ⟨fmtN32, 0, false⟩⟩) with randN := s.core.randN + 1 } }) ∧
  (∀ (m : Fin 8) (vs : List (Fin 32)) (s : State),
    let lanes := (List.range 128).filter fun l => (s.core.rm m).getLsbD (4 * l)
    let word (l j : Nat) : BitVec 32 := match vs[j]? with | some r => BitVec.ofNat 32 ((s.core.rv r).lane l) | none => 0
    Ready s (.m m.val :: vs.map fun r => .v r.val) →
    (∀ r ∈ vs, tagCarries (s.core.rv r).tag) →
    (s.core.deferq.length + s.core.deferIn.length + lanes.length ≤ 4096 →
      exec (.vdefer m vs) s = .next { s with core := { s.core.done with deferIn := s.core.deferIn ++ lanes.map fun l =>
        (s.core.cyc + 4, ⟨l, word l 0, word l 1, word l 2, word l 3, vs.any fun r => (s.core.rv r).tag.poison⟩) } }) ∧
    (4096 < s.core.deferq.length + s.core.deferIn.length + lanes.length →
      exec (.vdefer m vs) s = .next { s with core := { s.core with out := .trapped .deferFull 0 } })) ∧
  (∀ (d : Fin 32) (m : Fin 8) (n : Fin 4) (s : State), d.val + n.val + 1 ≤ 31 → Ready s [] →
    let es := s.core.deferq.take 128
    let p := es.any (·.poison)
    ∃ (lanes : VReg) (words : Nat → VReg) (mask : MBits),
      exec (.vdrain d m n) s = .next { s with core := { s.core.gives (givesV s.core 4 d lanes ++
        ((List.range (n.val + 1)).map fun j => ⟨s.core.cyc + 3, .v (Fin.ofNat 32 (d.val + 1 + j)) (words j)⟩) ++
        givesM s.core 4 m mask) with deferq := s.core.deferq.drop 128 } } ∧
      lanes.tag = ⟨fmtN32, 0, p⟩ ∧ (∀ l, l < 128 → lanes.lane l = match es[l]? with | some e => e.lane % 2 ^ 32 | none => 0) ∧
      (∀ j, j ≤ n.val → (words j).tag = ⟨fmtRaw, 0, p⟩ ∧ ∀ l, l < 128 → (words j).lane l =
        match es[l]? with | some e => ([e.w0, e.w1, e.w2, e.w3].getD j 0).toNat | none => 0) ∧
      ∀ b, b < 512 → mask.getLsbD b = decide (b < 4 * es.length)) ∧
  (∀ k0 k1 n j w : Nat, k0 < 2 ^ 32 → k1 < 2 ^ 32 → j < 32 → w < 4 →
    bitsAt (randVector k0 k1 n) 4 (4 * j + w) = (philoxWords k0 k1 (32 * n + j)).getD w 0)

/-! ### The matrix engine (R169 to R193) -/

/-- R172, R177, R180: MPSET writes mp[P], MPGET returns it with the reserved fields 0 (log 97), MSTAT gives the engine's state; MWIX
has the microword's index modulo 4,096 (the model's choice: log 96). -/
def Obligations.MatrixRegisters : Prop :=
  ∀ (p : Fin 8) (a d : Fin 64) (s : State),
    (Ready s [.x a.val] → exec (.mpset p a) s = .next { s with core := s.core.gives [⟨s.core.cyc, .mp p (s.core.rx a)⟩] }) ∧
    (Ready s [.mp p.val] → exec (.mpget d p) s = .next { s with core := s.core.gives (givesX s.core 1 d
      (BitVec.ofNat 64 ((s.core.mp.get p).toNat % 2 ^ mpFieldBits p))) }) ∧
    (Ready s [] → ∃ v : Word, exec (.mstat d) s = .next { s with core := s.core.gives (givesX s.core 1 d v) } ∧
      ∀ q ∈ statusFields s.core.eng, bitField v q.1 q.2.1 = q.2.2 % 2 ^ q.2.1)

/-- R175, R176, R178, R181: MCALL and MLOAD give the engine work, active at once or pending; MSWAP exchanges the banks of a
quiescent engine; MABORT leaves the discarding of all work to the end of its cycle.
R175, R176, R178, R181: with FAULT set or work pending MCALL takes MICRO_FAULT, so do MLOAD of an initialised furrow and, with
FAULT set, MSWAP of an idle engine; MSWAP is held while the engine works. -/
def Obligations.MatrixWork : Prop :=
  ((∀ (n : Fin 256) (s : State), Ready s [] → takesWork s.core.eng → captureOk s.core.mp → s.core.iss.emul = false →
    exec (.mcall n) s = .next { s with core := { s.core.done with eng := given s.core.eng (.routine n s.core.mp) } }) ∧
  (∀ (f : Fin 32) (a : Fin 64) (s : State),
    let r := s.core.rf f
    let first := (s.core.rx a).toNat
    Ready s [.x a.val] → takesWork s.core.eng → r.init = true → (r.cons = 0 ∨ r.cons = 3) → r.slotsz ≤ 2048 →
    first + r.slotsz / 16 ≤ 4096 →
    exec (.mload f a) s = .next { s with core := { s.core.done with
      f := setAt s.core.f f { r with cons := 3 },
      eng := { given s.core.eng (.load f first (r.slotsz / 16) 0) with loaded := true } } }) ∧
  (∀ (s : State), Ready s [] → s.core.eng.active = none → s.core.eng.pending = none → s.core.eng.fault = false →
    exec .mswap s = .next { s with core := { s.core.done with eng := { s.core.eng with work := s.core.eng.vis, vis := s.core.eng.work } } }) ∧
  (∀ (s : State), Ready s [] → exec .mabort s = .next { s with core := { s.core.done with endFx := s.core.endFx ++ [.mabort] } })) ∧
  (∀ (n : Fin 256) (f : Fin 32) (a : Fin 64) (s : State),
    (Ready s [] → s.core.iss.emul = false → s.core.eng.fault = true ∨ s.core.eng.pending ≠ none →
      exec (.mcall n) s = .next { s with core := { s.core with out := .trapped .microFault 0 } }) ∧
    (Ready s [] → s.core.iss.emul = true → captureOk s.core.mp ∨ (codeA s.core.mp = 17 ∧ codeB s.core.mp = 17 ∧ fieldsOk s.core.mp) →
      exec (.mcall n) s = .next { s with core := s.core.done }) ∧
    (Ready s [.x a.val] → (s.core.rf f).init = true → s.core.eng.fault = true ∨ s.core.eng.pending ≠ none →
      exec (.mload f a) s = .next { s with core := { s.core with out := .trapped .microFault 0 } }) ∧
    (Ready s [] → s.core.eng.active = none → s.core.eng.pending = none → s.core.eng.fault = true →
      exec .mswap s = .next { s with core := { s.core with out := .trapped .microFault 0 } }) ∧
    (Ready s [] → s.core.eng.active ≠ none → exec .mswap s = .next { s with core := { s.core with out := .held } }))

/-- R179: MACRD, MACWR and MACCLR move and clear the visible bank. -/
def Obligations.BankMoves : Prop :=
  (∀ (rm : Rm) (d : Fin 32) (row : Fin 256) (s : State),
    let b := s.core.eng.vis
    let m := s.core.mp.get 7
    let k := fmtKind (dFmt m)
    let r := rowsMoved b false row.val k.bytes
    Ready s [.mp 7] → dSel m = false → numbers k = true → (k.scaled = true ∨ dScale m = 0) → (k = .flt .t16 → s.core.iss.emul = true) →
    ∃ v : VReg, exec (.macrd rm d row) s = .next { s with core := s.core.gives (givesV s.core (latIf s.core 4) d v) } ∧
      v.tag = ⟨dFmt m, dScale m, rowsBad b r⟩ ∧
      ∀ e, e < 512 / k.bytes → bitsAt v.data k.bytes e = if e < 64 * r.2 then
        convertVal k rm (dScale m).toInt (valOf (bankKind b.fmt) 0 (cellAt b (r.1 + e / 64) (e % 64))) % 2 ^ (8 * k.bytes) else 0) ∧
  (∀ (rm : Rm) (d : Fin 32) (row : Fin 256) (s : State),
    let b := s.core.eng.vis
    let r := rowsMoved b true row.val 2
    Ready s [.mp 7] → dSel (s.core.mp.get 7) = true →
    ∃ v : VReg, exec (.macrd rm d row) s = .next { s with core := s.core.gives (givesV s.core (latIf s.core 4) d v) } ∧
      v.tag = ⟨4, 0, rowsBad b r⟩ ∧ ∀ e, e < 256 → bitsAt v.data 2 e = indexAt b (r.1 + e / 64) (e % 64)) ∧
  (∀ (rm : Rm) (a : Fin 32) (row : Fin 256) (s : State),
    let v := s.core.rv a
    let b := s.core.eng.vis
    let sel := dSel (s.core.mp.get 7)
    let r := rowsMoved b sel row.val v.w
    Ready s [.v a.val, .mp 7] → bankWf b → tagCarries v.tag → (if sel = true then v.tag.fmt = 4 else v.tag.fmt ≠ fmtRaw) →
    (v.kind = .flt .t16 → s.core.iss.emul = true) →
    ∃ t : Bank, exec (.macwr rm a row) s = .next { s with core := { s.core.done with eng := { s.core.eng with vis := t } } } ∧
      t.fmt = b.fmt ∧
      ∀ i j, i < 256 → j < 64 →
        let inRows := r.1 ≤ i ∧ i < r.1 + r.2
        let e := 64 * (i - r.1) + j
        cellAt t i j = (if sel = false ∧ inRows then convertVal (bankKind b.fmt) rm 0 (v.val e) % 2 ^ 64 else cellAt b i j) ∧
        indexAt t i j = (if sel = true ∧ inRows then v.bits e else indexAt b i j) ∧
        t.poison.getLsbD i = (if inRows then v.tag.poison else b.poison.getLsbD i)) ∧
  (∀ (s : State) (f : BankFmt), Ready s [.mp 7] → accOf (dAcc (s.core.mp.get 7)) = some f →
    exec .macclr s = .next { s with core := { s.core.done with eng := { s.core.eng with vis := ⟨f, [], [], 0⟩ } } })

/-- R184 to R193: the control microwords, each in the cycle that performs it or waits; an MLOOP that opens an armed level, or one at
distance 0, and one that closes no level ending here raise engine fault 0x08. -/
def Obligations.ControlMicrowords : Prop :=
  ∀ (s : State) (mp : Vector Word 8), runsWith s.core.eng mp →
    let e := s.core.eng
    let put (e' : Engine) : State := { s with core := { s.core with eng := e' } }
    (∀ g, ¬ stageFree e (stageOf e g) → exec (.bsel g) s = .next (put (reached e))) ∧
    (∀ l, l.dist.val = 0 ∨ levelOf e l.lvl ≠ none → exec (.mloopOpen l) s = .next (faulted s 8)) ∧
    (∀ k, (∀ l, levelOf e k = some l → l.e ≠ e.ix) → exec (.mloopClose k) s = .next (faulted s 8)) ∧
    (e.load ≠ none → exec .mend s = .next (put (reached e))) ∧
    exec .mnop s = .next (put (passed e)) ∧
    (∀ f, e.sub = 0 → exec (.zero f) s = .next (put { reached e with sub := 1 })) ∧
    (∀ f n acc, accOfMp mp = some (n, acc) → e.sub ≠ 0 → ∃ b : Bank, exec (.zero f) s = .next (put { passed e with work := b }) ∧
      b.fmt = acc ∧ b.poison = 0 ∧ (∀ i j, indexAt b i j = 0) ∧
      ∀ i j, i < (if acc = .f64 then 128 else 256) → j < 64 → cellAt b i j = zeroFill acc f) ∧
    (∀ g, stageFree e (stageOf e g) → exec (.bsel g) s = .next (put { passed e with bact := stageOf e g })) ∧
    (∀ l, l.dist.val ≠ 0 → levelOf e l.lvl = none → countOfMp mp l.cnt ≠ 0 → exec (.mloopOpen l) s = .next (put
      (withLevel (passed e) l.lvl (some ⟨0, countOfMp mp l.cnt, e.ix + 1, e.ix + l.dist.val, signedOf 8 l.kstep.val, signedOf 9 l.rstep.val,
        l.rew⟩)))) ∧
    (∀ l, l.dist.val ≠ 0 → levelOf e l.lvl = none → countOfMp mp l.cnt = 0 →
      exec (.mloopOpen l) s = .next (put (jumped e (e.ix + l.dist.val + 1)))) ∧
    (∀ k l, levelOf e k = some l → l.e = e.ix → l.lc + 1 < l.n → exec (.mloopClose k) s = .next (put
      (withLevel { jumped e l.b with koff := e.koff + l.ks, roff := e.roff + l.rs } k (some { l with lc := l.lc + 1 })))) ∧
    (∀ k l, levelOf e k = some l → l.e = e.ix → ¬ l.lc + 1 < l.n → exec (.mloopClose k) s = .next (put
      (withLevel { passed e with
        koff := if l.rew then e.koff - l.ks * l.lc else e.koff + l.ks,
        roff := if l.rew then e.roff - l.rs * l.lc else e.roff + l.rs } k none))) ∧
    (e.load = none → ∃ t : Engine, exec .mend s = .next (put t) ∧ t.pending = none ∧ t.active = e.pending ∧ t.lv0 = none ∧ t.lv1 = none ∧
      t.koff = 0 ∧ t.roff = 0 ∧ t.fresh = (if e.pending = none then some 0 else none) ∧ t.work = e.work ∧ t.vis = e.vis ∧
      t.b0 = e.b0 ∧ t.b1 = e.b1 ∧ t.bact = e.bact ∧ t.store = e.store ∧ t.done = e.done ∧ t.fault = e.fault)

/-- R185, R189, R190: BLD starts a load into the stage it names, from scratch, from the slot at HEAD of a furrow, or from that of
ARG3's furrow; it waits for a load in flight and then for a filled slot, and its checks raise engine faults 0x08 and 0x04. 256 bytes
are read a cycle, and the stage takes the image, and a furrow slot is popped, when all are read (bytes of the stage beyond a 12 KiB image
stay: log 119). -/
def Obligations.StageLoads : Prop :=
  (∀ (skip : Skip) (bix : Fin 4096) (g : Stg) (s : State) (mp : Vector Word 8), runsWith s.core.eng mp →
    let e := s.core.eng
    let block := (bix.val : Int) + e.koff
    let put (e' : Engine) : State := { s with core := { s.core with eng := e' } }
    (block < 0 ∨ 4095 < block → exec (.bld skip bix g .scratch) s = .next (faulted s 8)) ∧
    (∀ src, (src = .scratch → 0 ≤ block ∧ block ≤ 4095) →
      (withheldBy e skip → exec (.bld skip bix g src) s = .next (put (passed e))) ∧
      (¬ withheldBy e skip → e.load ≠ none → exec (.bld skip bix g src) s = .next (put (reached e)))) ∧
    (¬ withheldBy e skip → e.load = none →
      (0 ≤ block → block ≤ 4095 →
        (loadFrom mp block.toNat + stageBytes mp ≤ s.core.scrlim →
          exec (.bld skip bix g .scratch) s = .next (put
            { passed e with load := some ⟨stageOf e g, loadFrom mp block.toNat, stageBytes mp, 0, [], false, none⟩ })) ∧
        (s.core.scrlim < loadFrom mp block.toNat + stageBytes mp → exec (.bld skip bix g .scratch) s = .next (faulted s 4))) ∧
      (∀ (src : BSrc) (f : Fin 32), loadFurrow mp src = some f → let r := s.core.rf f
        let bound (e' : Engine) : State := { s with core := { s.core with f := setAt s.core.f f { r with cons := 3 }, eng := e' } }
        (r.init = false → exec (.bld skip bix g src) s = .next (faulted s 8)) ∧
        (r.init = true → r.cons ≠ 0 ∧ r.cons ≠ 3 → exec (.bld skip bix g src) s = .next (faulted s 4)) ∧
        (r.init = true → (r.cons = 0 ∨ r.cons = 3) →
          (r.slotsz ≠ stageBytes mp → exec (.bld skip bix g src) s = .next (bound (faulted s 8).core.eng)) ∧
          (r.slotsz = stageBytes mp → r.filled = 0 →
            exec (.bld skip bix g src) s = .next (bound { reached e with sub := e.sub + 1 })) ∧
          (r.slotsz = stageBytes mp → 0 < r.filled → exec (.bld skip bix g src) s = .next (bound
            { passed e with load := some ⟨stageOf e g, slotAddr r r.head, stageBytes mp, 0, [], false, some f⟩ })))))) ∧
  (∀ (c : Core) (l : BLoad), c.eng.load = some l → 32 * l.done ≤ l.size → l.size % 256 = 0 → l.done % 8 = 0 → 32 * l.done ≠ l.size →
    ∃ m : BLoad, c.loadCycle = { c with eng := { c.eng with load := some m } } ∧ m.stage = l.stage ∧ m.base = l.base ∧ m.size = l.size ∧
      m.furrow = l.furrow ∧ m.done = l.done + 8 ∧ (m.poison = true ↔ l.poison = true ∨ marksIn c (l.base + 32 * l.done) 256) ∧
      m.data.length = l.data.length + 256 ∧ (∀ k, k < l.data.length → m.data.getD k 0 = l.data.getD k 0) ∧
      ∀ k, k < 256 → m.data.getD (l.data.length + k) 0 = memGet c.scratch (l.base + 32 * l.done + k)) ∧
  (∀ (s : State) (l : BLoad), s.core.eng.load = some l → l.size ≤ 32 * l.done →
    let e := s.core.eng
    let img : BStage := ⟨memPut (if l.stage = 0 then e.b0 else e.b1).bytes 0 l.data, l.poison⟩
    let e' : Engine := if l.stage = 0 then { e with b0 := img, load := none } else { e with b1 := img, load := none }
    (l.furrow = none → exec .bLoadComplete s = .next { s with core := { s.core with eng := e' } }) ∧
    (∀ f, l.furrow = some f → (s.core.rf f).count ≠ 0 → exec .bLoadComplete s = .next { s with core := { s.core with
      eng := e', f := setAt s.core.f f { s.core.rf f with filled := (s.core.rf f).filled - 1, head := nextSlot (s.core.rf f) (s.core.rf f).head },
      endFx := s.core.endFx ++ [.release f 1] } }))

/-- R170, R171, R174, R187: the last cycle of a row step combines, in every column, the accumulator with the terms of the A row and
the column of the active stage, rounds once, captures indexes, and poisons the row of a poisoned operand; every other cell keeps
its value.
R174, R176, R186: a cell operation on a format it does not take raises engine fault 0x02, on a bank of another format 0x05,
beyond the bank's rows 0x06; a fault discards all work. The order of two faults of one cycle (log 98), and the format with
which a stage is read (log 63), are the model's choices. -/
def Obligations.CellOperations : Prop :=
  (∀ (i : Instr) (s : State) (mp : Vector Word 8) (kbn : Nat) (acc : BankFmt) (op : CellOp) (x : Cell) (cpr n : Nat) (rm : Rm)
    (row kb : Nat) (arow : List Nat) (bad : Bool),
    let e := s.core.eng
    let g : Geo := ⟨mp⟩
    runsWith e mp → accOfMp mp = some (kbn, acc) → cellForm acc i = some (op, x, cpr) → ¬ withheldBy e x.skip → cellTakes op mp →
    e.work.fmt = acc → bankWf e.work → stageFree e e.bact → countOfMp mp x.cnt = n → e.row < n → n ≤ 256 →
    modeOfMp mp x.rm = some rm → (x.row0.val : Int) + e.roff + e.row = row → row < (if acc = .f64 then 128 else 256) →
    (x.kb.val : Int) + e.koff = kb → kb ≤ 4095 → cpr ≤ e.sub + 1 →
    (if e.sub = 0 then s.core.aRow g row kb = some (arow, bad) else e.arow = arow ∧ e.abad = bad) →
    ∃ b : Bank,
      exec i s = .next { s with core := { s.core with eng :=
        if e.row + 1 = n then { passed e with work := b, arow := [], abad := false }
        else { reached e with work := b, row := e.row + 1, sub := 0, arow := [], abad := false } } } ∧
      b.fmt = e.work.fmt ∧ b.poison = (if bad || (e.stage e.bact).poison then e.work.poison ||| (1#256 <<< row) else e.work.poison) ∧
      (∀ r j, j < 64 → r ≠ row → cellAt b r j = cellAt e.work r j ∧ indexAt b r j = indexAt e.work r j) ∧
      ∀ j, j < 64 →
        let c := valOf (bankKind acc) 0 (cellAt e.work row j)
        let ts := termsOf e g op acc rm arow j
        (∃ code, combineSays op acc rm c ts code ∧ cellAt b row j = code % 2 ^ 64) ∧
        captureSays op (kb * kbn) c ts (indexAt e.work row j) (indexAt b row j)) ∧
  (∀ (i : Instr) (s : State) (mp : Vector Word 8) (kbn : Nat) (acc : BankFmt) (op : CellOp) (x : Cell) (cpr : Nat) (rm : Rm),
    let e := s.core.eng
    runsWith e mp → accOfMp mp = some (kbn, acc) → cellForm acc i = some (op, x, cpr) → ¬ withheldBy e x.skip →
    modeOfMp mp x.rm = some rm → countOfMp mp x.cnt ≤ 256 → 0 ≤ (x.kb.val : Int) + e.koff → (x.kb.val : Int) + e.koff ≤ 4095 →
    (¬ cellTakes op mp → exec i s = .next (faulted s 2)) ∧
    (cellTakes op mp → e.work.fmt ≠ acc → exec i s = .next (faulted s 5)) ∧
    (cellTakes op mp → e.work.fmt = acc → stageFree e e.bact → countOfMp mp x.cnt ≠ 0 →
      (x.row0.val : Int) + e.roff + e.row < 0 ∨ (if acc = .f64 then 128 else 256) ≤ (x.row0.val : Int) + e.roff + e.row →
      exec i s = .next (faulted s 6)) ∧
    (cellTakes op mp → e.work.fmt = acc → stageFree e e.bact → countOfMp mp x.cnt ≠ 0 → e.sub = 0 →
      0 ≤ (x.row0.val : Int) + e.roff + e.row → (x.row0.val : Int) + e.roff + e.row < (if acc = .f64 then 128 else 256) →
      s.core.aRow ⟨mp⟩ ((x.row0.val : Int) + e.roff + e.row).toNat ((x.kb.val : Int) + e.koff).toNat = none →
      exec i s = .next (faulted s 3))) ∧
  (∀ (i : Instr) (s : State) (mp : Vector Word 8) (acc : BankFmt) (op : CellOp) (x : Cell) (cpr : Nat),
    let e := s.core.eng
    let block := (x.kb.val : Int) + e.koff
    runsWith e mp → cellForm acc i = some (op, x, cpr) →
    (modeOfMp mp x.rm = none ∨ 256 < countOfMp mp x.cnt ∨ block < 0 ∨ 4095 < block → exec i s = .next (faulted s 8)) ∧
    (modeOfMp mp x.rm ≠ none → countOfMp mp x.cnt ≤ 256 → 0 ≤ block → block ≤ 4095 → withheldBy e x.skip →
      exec i s = .next { s with core := { s.core with eng := passed e } })) ∧
  (∀ (c : Core) (mp : Vector Word 8) (kbn : Nat) (acc : BankFmt) (i kb : Nat), accOfMp mp = some (kbn, acc) →
    let g : Geo := ⟨mp⟩
    let n := kBlock (aFmtOf mp)
    let a := bitField (mp.get 0) 0 19 + i * bitField (mp.get 0) 19 19 + kb * n
    let conv := bitField (mp.get 0) 51 1 = 1
    let k (x : Nat) : Option Nat := unfolds mp i (kb * kbn + x)
    (¬ conv → c.scrlim < a + n → c.aRow g i kb = none) ∧
    (¬ conv → a + n ≤ c.scrlim → ∃ r bad, c.aRow g i kb = some (r, bad) ∧ (bad = true ↔ marksIn c a n) ∧ r.length = kbn ∧
      ∀ x, x < kbn → r.getD x 0 = packedElem (aFmtOf mp) (memBytes c.scratch a n) x) ∧
    (conv → (∃ x m, x < kbn ∧ k x = some m ∧ c.scrlim < (activationAt mp m).1 + (activationAt mp m).2) → c.aRow g i kb = none) ∧
    (conv → (∀ x m, x < kbn → k x = some m → (activationAt mp m).1 + (activationAt mp m).2 ≤ c.scrlim) →
      ∃ r bad, c.aRow g i kb = some (r, bad) ∧ r.length = kbn ∧
        (bad = true ↔ ∃ x m, x < kbn ∧ k x = some m ∧ marksIn c (activationAt mp m).1 (activationAt mp m).2) ∧
        ∀ x, x < kbn → r.getD x 0 = match k x with
          | none => 0
          | some m => memRead c.scratch (activationAt mp m).1 (activationAt mp m).2 / 2 ^ (m * elemBits (aFmtOf mp) % 8) %
              2 ^ elemBits (aFmtOf mp))) ∧
  (∀ (e : Engine) (mp : Vector Word 8) (kbn : Nat) (acc : BankFmt) (j x : Nat), accOfMp mp = some (kbn, acc) → x < kbn →
    let n := kBlock (bFmtOf mp)
    (e.column ⟨mp⟩ j).length = kbn ∧
    (e.column ⟨mp⟩ j).getD x 0 = packedElem (bFmtOf mp) (memBytes (e.stage e.bact).bytes (j * n) n) x)

/-- R181, R182: work begins by reading its entry, or with engine fault 0x07 where the entry is not defined; a store load then copies
up to 8 microwords a cycle from a filled slot, and the last ones pop the slot and end the work. -/
def Obligations.WorkStartAndStoreLoad : Prop :=
  (∀ (s : State) (n : Fin 256) (mp : Vector Word 8), s.core.eng.active = some (.routine n mp) → s.core.eng.wait = 9 →
    let e := s.core.eng
    let w := (sparseGet (0 : Microword) e.store (n.val / 8)).toNat / 2 ^ (16 * (n.val % 8)) % 2 ^ 16
    (2 ^ 15 ≤ w → w / 2 ^ 12 % 8 = 0 → 32 ≤ w % 2 ^ 12 → exec .engineWorkStart s = .next { s with core := { s.core with
      eng := { e with rout := n.val, ix := w % 2 ^ 12, wait := 8, row := 0, sub := 0 } } }) ∧
    (w < 2 ^ 15 ∨ w / 2 ^ 12 % 8 ≠ 0 ∨ w % 2 ^ 12 < 32 → exec .engineWorkStart s = .next { s with core := { s.core with
      eng := { { e with rout := n.val }.idle false with fresh := some 7 } } })) ∧
  (∀ (s : State) (f : Fin 32) (first count written : Nat), s.core.eng.active = some (.load f first count written) →
    let r := s.core.rf f
    let n := min 8 (count - written)
    0 < r.filled → r.count ≠ 0 → ∃ t : State, exec .mloadCopy s = .next t ∧
      (sparseWf (0 : Microword) 0 s.core.eng.store = true → ∀ ix, sparseGet (0 : Microword) t.core.eng.store ix =
        if first + written ≤ ix ∧ ix < first + written + n then
          BitVec.ofNat 128 (memRead s.core.scratch (slotAddr r r.head + 16 * (ix - first)) 16)
        else sparseGet (0 : Microword) s.core.eng.store ix) ∧
      (written + n < count → t.core.eng.active = some (.load f first count (written + n)) ∧ t.core.f = s.core.f ∧ t.core.endFx = s.core.endFx) ∧
      (¬ written + n < count → t.core.eng.active = s.core.eng.pending ∧ t.core.eng.pending = none ∧ t.core.endFx = s.core.endFx ++ [.release f 1] ∧
        t.core.f = setAt s.core.f f { r with filled := r.filled - 1, head := nextSlot r r.head }) ∧
      t = { s with core := { s.core with eng := t.core.eng, f := t.core.f, endFx := t.core.endFx } })

/-! ### Object instructions (R206 to R245) -/

/-- R216 to R219, R232 to R236: OPEN, CLOSE, INFO, FREE, PIN, UNPIN, SUBSC, PUBL and ALLOC each send one request; the landing
ones make their slot outstanding, and the register's new state is due with it or comes at the end of the cycle. UNPIN's request is at
its home in the next cycle. -/
def Obligations.ObjectRequests : Prop :=
  (∀ (s : State) (i : Instr) (h : Fin 16) (u : Option Due) (srcs : List Reg) (ok : Prop) (op : ReqOp) (g : HReg)
      (fx : List EndEffect) (ev : Instr),
    objectForm s i = some (h, u, srcs, ok, op, g, fx, ev) → Ready s srcs → (s.core.rh h).due = none → ok →
    (op.counts = true → objectRoom s) → (∀ d, u = some d → slotFree s d) →
    ∃ r t, exec i s = .next t ∧ Says s r op h g (u.map (·.q)) ∧
      Asks s (s.core.leaves ((u.map fun d => namedSlot s d false).toList ++ fx)) r ev t) ∧
  (∀ (s : State) (h : Fin 16), Ready s [] → (s.core.rh h).due = none → (∃ o, opens s h [] o ∧ o.live = false) →
    (s.core.rh h).write = false → (s.core.rh h).ver ≠ 0xFFFFFFFF →
    ∃ r, Says s r .unpin h (s.core.rh h) none ∧ exec (.unpin h) s = .next { s with
      core := s.core.leaves [.hreg h { s.core.rh h with ver := 0xFFFFFFFF }], reqs := s.reqs ++ [r], nextReq := s.nextReq + 1,
      agenda := s.agenda ++ [⟨s.cycle + 1, s.nextReq, .versionEvent⟩] }) ∧
  (∀ (s : State) (t : Fin 16) (u : Due), Ready s [.a t.val] → objectRoom s → slotFree s u →
    let a := (s.core.ra t).toNat
    let w := fun k => BitVec.ofNat 64 (memRead s.core.scratch (a + 8 * k) 8)
    a % 32 = 0 → a + 32 ≤ s.core.scrlim →
    ∃ r n, exec (.alloc t u) s = .next n ∧ r.op = .alloc (w 0) (w 1) (w 2) (w 3) false ∧ r.q = some u.q ∧
      Asks s (s.core.leaves [namedSlot s u false]) r .objectRequestPerform n)

/-- R220, R222: FETCH and GATHER claim the slot at TAIL, STORE and SCATTER take the slot at HEAD, bind that end and send the
request for the tile. A GATHER's or SCATTER's own i(r-2) is not tested (the model's choice: log 23). -/
def Obligations.TileTransfers : Prop :=
  ∀ (s : State) (o : Obj) (i : Instr) (x : Tile) (f : Fin 32) (wr : Bool) (op : ReqOp) (lst : Bool),
    let g := s.core.rh x.h
    let r0 := s.core.rf f
    tileForm s o i = some (x, f, wr, op, lst) → Ready s (tupleRegs x.t (o.rank + if lst then 1 else 0)) → g.due = none →
    opens s x.h [if wr then 1 else 0] o → (if wr then writesBy g o else readsBy g o) → objectRoom s →
    (if lst then listOk s x o else tileIn s x o) → slotFits r0 x o →
    (if wr then (r0.cons = 0 ∨ r0.cons = 1) ∧ 0 < r0.filled else (r0.prod = 0 ∨ r0.prod = 1) ∧ 0 < r0.free) →
    ∃ r t, exec i s = .next t ∧ Says s r op x.h g none ∧ Tiles s r x o ∧ r.furrow = some f ∧
      r.fslot = (if wr then r0.head else r0.tail) ∧
      Asks s { s.core.leaves (if wr then [.taken f 1] else []) with
        f := setAt s.core.f f (if wr then takenBy r0 s.nextReq else claimedBy r0 s.nextReq) } r .objectRequestPerform t

/-- R224 to R226, R240 to R245: COPYO, COLL, FREEZE, THAW and GRANT send the request for their tile; PREF asks for pages and
changes no register; THAWT refreshes its token.
With the page frozen PREF's lines may be casts (R237).
R223: PUSHR takes a filled slot of f[F] and a free one of the push map's mirror of the destination's furrow. -/
def Obligations.TileRequests : Prop :=
  ((∀ (s : State) (o : Obj) (i : Instr) (x : Tile) (u : Due) (rights : List Nat) (live thaw : Bool) (op : ReqOp),
    spanForm i = some (x, u, rights, live, thaw, op) → Ready s (tupleRegs x.t o.rank) → (s.core.rh x.h).due = none →
    opens s x.h rights o → (live = true → o.live = true) → slotFree s u → tileIn s x o →
    ∃ r t, exec i s = .next t ∧ Says s r op x.h (s.core.rh x.h) (some u.q) ∧ Tiles s r x o ∧
      Asks s (s.core.leaves [namedSlot s u thaw]) r .objectRequestPerform t) ∧
  (∀ (s : State) (o p : Obj) (x : Tile) (src : Fin 16) (u : Due), Ready s (tupleRegs x.t o.rank) →
    (s.core.rh x.h).due = none → (s.core.rh src).due = none → opens s x.h [1] o → opens s src [0] p →
    writesBy (s.core.rh x.h) o → readsBy (s.core.rh src) p → o.fmt = p.fmt → o.scale = p.scale → o.rank = p.rank →
    tileIn s x o → tileIn s x p → objectRoom s → slotFree s u →
    ∃ r t, exec (.copyo x src u) s = .next t ∧
      Says s r (.copyo p.home p.index p.gen (s.core.rh src).ver) x.h (s.core.rh x.h) (some u.q) ∧ Tiles s r x o ∧
      Asks s (s.core.leaves [namedSlot s u false]) r .objectRequestPerform t) ∧
  (∀ (s : State) (o : Obj) (k : CollKind) (x : Tile) (f : Fin 32) (u : Due),
    let g := s.core.rh x.h
    let r0 := s.core.rf f
    Ready s (tupleRegs x.t o.rank) → g.due = none → opens s x.h [if k = .bc then 0 else 1] o →
    (k = .red → fmtKind o.fmt = .flt .t16 → s.core.iss.emul = true) →
    (if k = .bc then readsBy g o else o.live = true) → objectRoom s → slotFree s u → tileIn s x o → slotFits r0 x o →
    (if k = .bc then (r0.prod = 0 ∨ r0.prod = 1) ∧ 0 < r0.free else (r0.cons = 0 ∨ r0.cons = 1) ∧ 0 < r0.filled) →
    ∃ r t, exec (.coll k x f u) s = .next t ∧ Says s r (.coll k) x.h g (some u.q) ∧ Tiles s r x o ∧ r.furrow = some f ∧
      Asks s { s.core.leaves ((if k = .bc then [] else [.taken f 1]) ++ [namedSlot s u false]) with
        f := setAt s.core.f f (if k = .bc then claimedBy r0 s.nextReq else takenBy r0 s.nextReq) } r .objectRequestPerform t) ∧
  (∀ (s : State) (o : Obj) (x : Tile), Ready s (tupleRegs x.t o.rank) → (s.core.rh x.h).due = none → opens s x.h [0] o →
    ∃ n as ms os lc, exec (.pref x) s =
        .next { s with core := s.core.done, freeCtr := n, agenda := as, mlc := ms, objs := os, localCasts := lc } ∧
      (¬ tileIn s x o → n = s.freeCtr ∧ as = s.agenda ∧ ms = s.mlc ∧ os = s.objs ∧ lc = s.localCasts) ∧
      os.length = s.objs.length ∧
      (∀ (k : Nat) (p q : Obj), s.objs[k]? = some p → os[k]? = some q → { q with frz := p.frz } = p) ∧
      (∀ p ∈ lc, p ∈ s.localCasts ∨ (p.home = o.home ∧ p.index = o.index ∧ o.frozenAt (o.verOf (s.core.rh x.h)) p.page = true)) ∧
      ∀ e ∈ as, (∃ d ∈ s.agenda, e.instr = d.instr ∧ e.subj = d.subj ∧ e.at_ ≤ d.at_) ∨
        ∃ p, (e.instr = .pagePromotion p ∨ e.instr = .objMissingResolve p) ∧ p.home = o.home ∧ p.index = o.index) ∧
  (∀ (s : State) (q : Fin 16) (w : Word), Ready s [] → s.core.rq q = .landed w true →
    let id := w.toNat / 2 ^ 32
    ∃ v, exec (.thawt q) s = .next { s with core := { s.core.done with
        q := setAt s.core.q q (.outstanding (s.core.issued + 1) 0 true (some ⟨v, none⟩)) } } ∧
      ∀ j, j < 64 → v.getLsbD j = (w.getLsbD j || (decide (j = 8) && (decide (w.toNat % 256 ≠ 0) || s.core.thawDone.contains id))))) ∧
  (∀ (s : State) (f : Fin 32) (t : Fin 16) (e : PushEntry),
    let v := (s.core.ra t).toNat
    let r0 := s.core.rf f
    Ready s [.a t.val] → v < 2 ^ 14 → v % 512 < 384 → objectRoom s → r0.init = true → (r0.cons = 0 ∨ r0.cons = 1) → 0 < r0.filled →
    0 < r0.count → s.core.pushMap.find? (fun m => m.core = v % 512 && m.furrow = v / 512) = some e → 0 < e.free → e.ended = false →
    ∃ r n, exec (.pushr f t) s = .next n ∧ r.op = .push (v % 512) (v / 512) e.inst [] [] ∧ r.furrow = some f ∧ r.fslot = r0.head ∧
      Asks s { s.core.leaves [.taken f 1] with
        f := setAt s.core.f f (takenBy r0 s.nextReq)
        pushMap := (s.core.pushMap.filter fun m => !(m.core = v % 512 && m.furrow = v / 512)) ++ [{ e with free := e.free - 1 }] }
        r .objectRequestPerform n)

/-- R207, R216, R217, R255: the checks at issue. A closed register or a missing right takes OBJ_RIGHTS, a wrong mode VERSION; a
tile takes VERSION, OBJ_BOUNDS or FURROW_CONFIG, the first that holds; a slot still outstanding holds the bundle.
R261, R265, R268: the checks at the issue of a synchronising syllable, the first that fails: OBJ_RIGHTS, VERSION,
FORMAT_MISMATCH, OBJ_BOUNDS. R266, R268, R291, R292: those of the barrier and ballot syllables; BPOST takes only the ballot of the task's
TASKSET. A hold for the slot or a limit comes before these causes (log 111). -/
def Obligations.RequestTraps : Prop :=
  ((∀ (s : State) (w : Bool) (h t : Fin 16) (u : Due), (s.core.rh h).due = none →
    (Ready s [.a t.val] → objectRoom s → slotFree s u → (s.core.rh h).opened = true →
      exec (.openH w h t u) s = .next (s.traps .objRights)) ∧
    (Ready s [] → (s.core.rh h).opened = false → exec (.close h) s = .next (s.traps .objRights) ∧
      exec (.free h) s = .next (s.traps .objRights) ∧ exec (.unpin h) s = .next (s.traps .objRights)) ∧
    (Ready s [] → slotFree s u → (s.core.rh h).opened = false ∨ (s.core.rh h).rights.getLsbD 0 = false →
      exec (.pin h u) s = .next (s.traps .objRights)) ∧
    (Ready s [] → slotFree s u → ∀ o, opens s h [0] o → o.live = true ∨ (s.core.rh h).write = true →
      exec (.pin h u) s = .next (s.traps .version)) ∧
    (Ready s [] → (∃ d id b, s.core.rq u.q = .outstanding d id b none) →
      ∀ k, exec (.info k h u) s = .next { s with core := { s.core with out := .held } })) ∧
  (∀ (s : State) (o : Obj) (x : Tile) (f : Fin 32) (m : FetchMod) (k : Cause), (s.core.rh x.h).due = none → objectRoom s →
    x.t.val + o.rank ≤ 16 → Ready s (tupleRegs x.t o.rank) → opens s x.h [0] o →
    tileTrap s x (s.core.rf f) false o k → exec (.fetch m x f) s = .next (s.traps k)) ∧
  (∀ (s : State) (o : Obj) (x : Tile) (f : Fin 32) (n : Bool) (k : Cause), (s.core.rh x.h).due = none → objectRoom s →
    x.t.val + o.rank ≤ 16 → Ready s (tupleRegs x.t o.rank) → opens s x.h [1] o →
    tileTrap s x (s.core.rf f) true o k → exec (.store n x f) s = .next (s.traps k))) ∧
  (∀ (s : State) (i : Instr) (h : Fin 16) (a : Fin 64) (k right : Nat) (u : Option Due) (sc : Scope) (op : ReqOp),
    syncForm s i = some (h, a, k, right, u, sc, op) → Ready s (xRun a k) → (s.core.rh h).due = none → yRoom s →
    (∀ d, u = some d → slotFree s d) →
    ((s.core.rh h).opened = false ∨ (s.core.rh h).rights.getLsbD right = false → exec i s = .next (s.traps .objRights)) ∧
    ∀ o, opens s h [right] o →
      (o.live = false → exec i s = .next (s.traps .version)) ∧
      (o.live = true → ¬ syncShape o → exec i s = .next (s.traps .formatMismatch)) ∧
      (syncShape o → o.count ≤ (s.core.rx a).toNat → exec i s = .next (s.traps .objBounds))) ∧
  (∀ (s : State) (i : Instr) (h : Fin 16) (srcs : List Reg) (right : Nat) (u : Option Due) (sc : Scope) (op : ReqOp) (ev : Instr),
    barForm s i = some (h, srcs, right, u, sc, op, ev) → Ready s srcs → (s.core.rh h).due = none → yRoom s →
    (∀ d, u = some d → slotFree s d) →
    ((s.core.rh h).opened = false ∨ (s.core.rh h).rights.getLsbD right = false → exec i s = .next (s.traps .objRights)) ∧
    ∀ o, opens s h [right] o →
      (o.live = false → op ≠ .bread → exec i s = .next (s.traps .version)) ∧
      (o.live = true ∨ op = .bread → ¬ lineOk o → exec i s = .next (s.traps .formatMismatch))) ∧
  (∀ (s : State) (h : Fin 16) (a : Fin 64) (t : Task) (p : Plot), Ready s [.x a.val] → (s.core.rh h).due = none → yRoom s →
    s.core.task = some t → s.plotAt t.plot = some p →
    (p.ballot ≠ (s.core.rh h).handle ∨ (s.core.rh h).opened = false ∨ (s.core.rh h).rights.getLsbD 2 = false →
      exec (.bpost h a) s = .next (s.traps .objRights)) ∧
    ∀ o, p.ballot = (s.core.rh h).handle → opens s h [2] o → ¬ lineOk o → exec (.bpost h a) s = .next (s.traps .formatMismatch))

/-! ### The Y slot and the system syllables (R105 to R107, R253 to R298, R307, R314) -/

/-- R256: QCLR takes the landed word and empties the slot; TSTAMP lands Now() of its issue cycle. R57, R36, R105, R106, R307:
NOP and an empty bundle do nothing, RETIRE stops issue, YIELD changes no register, BRK and TRAP take their causes. R43: a syllable
whose guard is false does nothing, but for a transfer and for VLDF and VSTF, which have statements of their own; where the guard
predicate awaits a result it takes STALL_SHORT. -/
def Obligations.SystemSyllables : Prop :=
  (∀ (s : State) (d : Fin 64) (q : Fin 16) (w : Word) (b : Bool), Ready s [] → s.core.rq q = .landed w b →
    exec (.qclr d q) s = .next { s with core := { s.core.gives (givesX s.core 1 d w) with q := setAt s.core.q q .empty } }) ∧
  (∀ (s : State) (u : Due), Ready s [] → slotFree s u →
    let now : Landing := ⟨BitVec.ofNat 64 s.ts, none⟩
    let fx : EndEffect := .named u.q (.outstanding (s.core.issued + u.off.val + 1) 0 false (some now))
    exec (.tstamp u) s = .next { s with core := s.core.leaves [fx] }) ∧
  (∀ s : State, exec .nop s = .next { s with core := s.core.done }) ∧
  (∀ s : State, exec .emptyBundle s = .next { s with core := s.core.done }) ∧
  (∀ s : State, Ready s [] → exec .retire s = .next { s with core := { s.core.done with run := .retiring, retireIss := true } }) ∧
  (∀ s : State, Ready s [] → ∃ as ds n, exec .yield s =
    .next { s with core := s.core.done, agenda := s.agenda ++ as, disps := ds, freeCtr := n }) ∧
  (∀ s : State, Ready s [] → exec .brk s =
    .next { s with core := { s.core with out := .trapped .break_ (BitVec.ofNat 64 s.core.iss.addr) } }) ∧
  (∀ (s : State) (a : Fin 64), Ready s [.x a.val] → exec (.trap a) s =
    .next { s with core := { s.core with out := .trapped .trapInsn (s.core.rx a) } }) ∧
  (∀ (i : Instr) (s : State), isSyllable i → i.isTransfer = false → movesFurrow i = false →
    (guardOff s → exec i s = .next { s with core := s.core.done }) ∧
    (i ≠ .nop → s.core.iss.guard = false → s.core.sbchk = true → s.core.pending (.p s.core.iss.gp.val) = true →
      exec i s = .next (s.traps .stallShort)))

/-- R270: FINIT resets a declared furrow that nothing uses, FPUSH gives n slots, FPOP takes n, FWAIT only waits; more slots than
the furrow has, or an f-register that is no furrow, trap. -/
def Obligations.FurrowInstructions : Prop :=
  ∀ (s : State) (i : Fin 32) (a : Fin 64),
    let f := s.core.rf i
    let n := (s.core.rx a).toNat
    (Ready s [] → f.decl = true → f.init = true → ¬ (f.remote = true ∧ f.pbnd = true) → s.furrowUsed i = false →
      exec (.finit i) s = .next { s with core := s.core.leaves [.finit i] }) ∧
    (Ready s [] → f.decl = false ∨ f.init = false ∨ (f.remote = true ∧ f.pbnd = true) → exec (.finit i) s = .next (s.traps .furrowConfig)) ∧
    (Ready s [.x a.val] → f.init = true → n ≤ f.count →
      (n = 0 → exec (.fpush i a) s = .next { s with core := s.core.done } ∧ exec (.fpop i a) s = .next { s with core := s.core.done }) ∧
      (0 < n → f.prod = 0 ∨ f.prod = 4 → n ≤ f.free → exec (.fpush i a) s = .next { s with core := { s.core.leaves [.fill i n] with
        f := setAt s.core.f i { f with prod := 4, free := f.free - n, tail := (f.tail + n) % f.count } } }) ∧
      (0 < n → f.cons = 0 ∨ f.cons = 4 → n ≤ f.filled → exec (.fpop i a) s = .next { s with core := { s.core.leaves [.release i n] with
        f := setAt s.core.f i { f with cons := 4, filled := f.filled - n, head := (f.head + n) % f.count } } }) ∧
      (n ≤ f.filled → exec (.fwait i a) s = .next { s with core := s.core.done })) ∧
    (Ready s [.x a.val] → f.init = false ∨ f.count < n → exec (.fpush i a) s = .next (s.traps .furrowConfig) ∧
      exec (.fpop i a) s = .next (s.traps .furrowConfig) ∧ exec (.fwait i a) s = .next (s.traps .furrowConfig))

/-- R261, R264 to R268, R290 to R292, R298: each synchronising syllable whose checks pass sends its request, with its scope and
its operands as read at issue. -/
def Obligations.SyncRequests : Prop :=
  (∀ (s : State) (i : Instr) (o : Obj) (h : Fin 16) (a : Fin 64) (k right : Nat) (u : Option Due) (sc : Scope) (op : ReqOp),
    syncForm s i = some (h, a, k, right, u, sc, op) → Ready s (xRun a k) → (s.core.rh h).due = none → opens s h [right] o →
    syncShape o → (s.core.rx a).toNat < o.count → yRoom s → (∀ d, u = some d → slotFree s d) →
    ∃ r t, exec i s = .next t ∧ Says s r op h (s.core.rh h) (u.map (·.q)) ∧ r.scope = sc ∧ r.n = (s.core.rx a).toNat ∧
      Asks s (s.core.leaves (u.map fun d => namedSlot s d false).toList) r .syncAccessPerform t) ∧
  (∀ (s : State) (i : Instr) (o : Obj) (h : Fin 16) (srcs : List Reg) (right : Nat) (u : Option Due) (sc : Scope) (op : ReqOp)
      (ev : Instr),
    barForm s i = some (h, srcs, right, u, sc, op, ev) → Ready s srcs → (s.core.rh h).due = none → opens s h [right] o →
    lineOk o → yRoom s → (∀ d, u = some d → slotFree s d) →
    ∃ r t, exec i s = .next t ∧ Says s r op h (s.core.rh h) (u.map (·.q)) ∧ r.scope = sc ∧
      Asks s (s.core.leaves (u.map fun d => namedSlot s d false).toList) r ev t) ∧
  (∀ (s : State) (o : Obj) (h : Fin 16) (a : Fin 64) (t : Task) (p : Plot), Ready s [.x a.val] → (s.core.rh h).due = none →
    opens s h [2] o → lineOk o → yRoom s → s.core.task = some t → s.plotAt t.plot = some p → p.ballot = (s.core.rh h).handle →
    ∃ r n, exec (.bpost h a) s = .next n ∧ Says s r (.bpost (s.core.rx a) (BitVec.ofNat 64 s.ts)) h (s.core.rh h) none ∧
      Asks s (s.core.leaves []) r .ballotPost n) ∧
  (∀ (s : State) (a : Fin 64) (u : Due), Ready s [.x a.val] → yRoom s → slotFree s u →
    let n := (s.core.rx a).toNat
    (n < 128 → n / 32 < 3 → ∃ r t, exec (.plotrd a u) s = .next t ∧ r.op = .plotrd (s.core.rx a) ∧ r.q = some u.q ∧
      Asks s (s.core.leaves [namedSlot s u false]) r .syncAccessPerform t) ∧
    (¬ (n < 128 ∧ n / 32 < 3) → exec (.plotrd a u) s = .next (s.traps .objBounds)))

/-- R314, R315: SVC sends eight words to a service port: its slot is outstanding, its call is listed with them and with Now(), and a call
of the object manager's own services has its step and its timeout to come, or waits for an acquire of its task (R264). A port to which
the task's ROOT binds nothing takes SVC_FAULT late. -/
def Obligations.ServiceCalls : Prop :=
  ∀ (s : State) (port a : Fin 64) (u : Due), Ready s (xRun a 8) → yRoom s → slotFree s u → (∀ q ∈ s.reqs, q.id ≠ s.nextReq) →
    s.core.task ≠ none →
    let msg := (List.range 8).map fun k => s.core.rx (xPlus a k)
    let op := ReqOp.svc port.val msg (BitVec.ofNat 64 s.ts)
    (∃ t r, exec (.svc port a u) s = .next t ∧ r ∈ t.reqs ∧ r.id = s.nextReq ∧ r.op = op ∧ r.q = some u.q ∧
      r.party = s.party s.core ∧ { t.core with late := s.core.late } = s.core.leaves [namedSlot s u false] ∧ t.objs = s.objs ∧
      t.plots = s.plots) ∧
    (port = 0 → ∀ ev, ((s.core.rx a).toNat % 2 ^ 16, ev) ∈ [(1, Instr.svcAllocx), (2, .svcSpill)] →
      ∃ r n m, s.cycle < n ∧ s.cycle ≤ m ∧ r.id = s.nextReq ∧ r.op = op ∧ r.phase = .sent ∧
        let t : State := { s with
          core := s.core.leaves [namedSlot s u false], reqs := s.reqs ++ [r], nextReq := s.nextReq + 1,
          agenda := s.agenda ++ [⟨m, r.id, .svcTimeout⟩] }
        (t.mustWait r = false →
          exec (.svc port a u) s = .next { t with freeCtr := s.freeCtr + 1, agenda := t.agenda ++ [⟨n, r.id, ev⟩] }) ∧
        (t.mustWait r = true →
          exec (.svc port a u) s = .next { t with agenda := t.agenda ++ [⟨s.cycle + 1, r.id, .svcAllocx⟩] })) ∧
    (∀ tk g, s.core.task = some tk → s.plotAt (s.rootOf tk.plot) = some g → 2 ≤ port.val → (∀ b ∈ g.ports, b.1 ≠ port.val) →
      ownRequests s = [] → ∃ t r, exec (.svc port a u) s = .next t ∧ r ∈ t.reqs ∧ r.id = s.nextReq ∧ r.op = op ∧
        r.phase = .failed .svcFault ∧ (s.cycle, s.nextReq) ∈ t.core.late)

/-- R286 to R289: SPAWN and SPAWNW create a TASKSET of n tasks under the parent of the task's own and land its identity; a
sibling's is denied, a bad count is invalid; with a full pool SPAWN lands FULL and SPAWNW is held, or lands FULL once the
dispatcher has converted its wait.
R289, R290: SOW creates a SIBGROUP of n siblings under the parent of the task's TASKSET, initialises its ballot, of which every word but
the first is 0 and no post is recorded, and lands the group's identity; a sibling's SOW is denied, and bad counts are invalid. R204: a
template on an ABSENT page holds the bundle until the page is resolved, and takes OBJ_MISSING when it cannot be (the model's choice:
log 126). -/
def Obligations.Launches : Prop :=
  (∀ (s : State) (h : Fin 16) (a : Fin 64) (u : Due) (o : Obj) (me p : Plot), Ready s [.x a.val] → (s.core.rh h).due = none →
    opens s h [0] o → templateOk o → templateHere s h o → yRoom s → slotFree s u → launches s me p → s.plots.length < 2 ^ 31 →
    let n := (s.core.rx a).toNat
    let d := templateOf s h o
    let die := s.core.id / 48
    ∀ i, i = .spawn h a u ∨ i = .spawnw h a u →
    (p.kind = kindSib → ∃ t, exec i s = .next t ∧ Lands s u (landWordOf 5 0) t ∧ keepsAll s t ∧ t.plots = s.plots) ∧
    (p.kind ≠ kindSib → n = 0 ∨ 2 ^ 32 ≤ n ∨ field d 0 4 ≠ kindTaskset ∨ badDesc d (some p) false = true →
      ∃ t, exec i s = .next t ∧ Lands s u (landWordOf 6 0) t ∧ keepsAll s t ∧ t.plots = s.plots) ∧
    (p.kind ≠ kindSib → 0 < n → n < 2 ^ 32 → field d 0 4 = kindTaskset → badDesc d (some p) false = false →
      s.poolOver p.id 1 = false →
      (s.poolUsed die < 4096 → ∃ t id w, exec i s = .next t ∧ freshId s id ∧ Lands s u (landWordOf 0 id) t ∧ keepsAll s t ∧
        w ∈ t.plots ∧ w.id = id ∧ w.kind = kindTaskset ∧ w.parent = p.id % 2 ^ 32 ∧ w.tasks = n ∧ w.state = stActive ∧
        w.pool = some die ∧ w.readyts = s.ts % 2 ^ 64) ∧
      (4096 ≤ s.poolUsed die → i = .spawn h a u → ∃ t, exec i s = .next t ∧ keepsAll s t ∧ t.plots = s.plots ∧
        Lands s u (landWordOf 2 0) t) ∧
      (4096 ≤ s.poolUsed die → i = .spawnw h a u → s.core.spawnFull = true → ∃ t, exec i s = .next t ∧ keepsAll s t ∧
        t.plots = s.plots ∧ Lands { s with core := { s.core with spawnFull := false } } u (landWordOf 2 0) t) ∧
      (4096 ≤ s.poolUsed die → i = .spawnw h a u → s.core.spawnFull = false → exec i s = .next { s with
        core := { s.core with out := .held, spawnW := some (s.core.spawnW.getD s.ts) } }))) ∧
  (∀ (s : State) (h : Fin 16) (a : Fin 64) (u : Due) (o : Obj) (me p : Plot), Ready s (xRun a 2) → (s.core.rh h).due = none →
    opens s h [0] o → templateOk o → templateHere s h o → yRoom s → slotFree s u → launches s me p → s.plots.length < 2 ^ 31 →
    let n := (s.core.rx a).toNat
    let q0 := (s.core.rx (xPlus a 1)).toNat
    let q := if q0 = 0 then n / 2 + 1 else q0
    let d := templateOf s h o
    let die := s.core.id / 48
    let group : Plot := ⟨0, newDesc (sowGroup d n q) (some p) 0, 0, false, [], none, false, none⟩
    (p.kind = kindSib → ∃ t, exec (.sow h a u) s = .next t ∧ Lands s u (landWordOf 5 0) t ∧ keepsAll s t ∧ t.plots = s.plots) ∧
    (p.kind ≠ kindSib → n < 2 ∨ 64 < n ∨ n < q0 ∨ field d 0 4 ≠ kindTaskset →
      ∃ t, exec (.sow h a u) s = .next t ∧ Lands s u (landWordOf 6 0) t ∧ keepsAll s t ∧ t.plots = s.plots) ∧
    (∀ b, p.kind ≠ kindSib → 2 ≤ n → n ≤ 64 → q0 ≤ n → me.level ≤ 6 → field d 0 4 = kindTaskset →
      badDesc (sowGroup d n q) (some p) true = false → badDesc d (some group) true = false →
      s.objOf (BitVec.ofNat 64 (field d 832 64)) = some b → lineOk b → (s.rightsOf b me.id).getLsbD 2 = true → b.ballot = none →
      s.poolOver p.id n = false → group.lpool = 0 ∨ n ≤ group.lpool → s.poolUsed die + n ≤ 4096 →
      ∃ t id, exec (.sow h a u) s = .next t ∧ freshId s id ∧ Lands s u (landWordOf 0 id) t ∧ keepsAll s t ∧
        (∃ g ∈ t.plots, g.id = id ∧ g.kind = kindSib ∧ g.sibs = n ∧ g.quorum = q ∧ g.parent = p.id % 2 ^ 32) ∧
        (∀ i, i < n → ∃ k ∈ t.plots, k.kind = kindTaskset ∧ k.parent = id % 2 ^ 32 ∧ k.sibix = i ∧ k.tasks = 1 ∧ k.pool = some die) ∧
        ∃ b', t.objAt b.home b.index = some b' ∧ b'.ballot = some ⟨id, [], [], []⟩ ∧
          (wordsHeld b → b'.word 0 = 2 ^ 63 + n * 2 ^ 24 + q * 2 ^ 17 ∧ ∀ k, 0 < k → k < 8 → b'.word k = 0))) ∧
  (∀ (s : State) (h : Fin 16) (a : Fin 64) (u : Due) (o : Obj) (p : PageRef) (i : Instr), Ready s (xRun a 2) → (s.core.rh h).due = none →
    opens s h [0] o → templateOk o → templateAbsent s h o p → yRoom s → slotFree s u → i = .spawn h a u ∨ i = .spawnw h a u ∨ i = .sow h a u →
    (s.core.tmplW = some (p, true) → exec i s = .next (s.traps .objMissing)) ∧
    (s.core.tmplW ≠ some (p, true) → exec i s = .next { s with core := { s.core with out := .held, tmplW := some (p, false) } }))

/-! ### Results, landings and homes (R38, R202 to R245, R255) -/

/-- R38, R73, R21: at the end of a cycle every ready result is written, the later-issued last, then the bundle's deferred effects are
applied in slot order: bytes of scratch and marks, furrow counts, the scoreboard switch, h-registers, the landing slots named, MABORT's
end of the engine's work; nothing else of the core, and no object, changes. R213: the slots at the front of those claimed that are
written count as filled, in claim order. R255: a slot named anew discards its word, but the h-register takes the state that word
brought. R223: slots popped return to remote producers. -/
def Obligations.WriteBack : Prop :=
  ∀ s : State, ∃ c as n, exec .resultWriteback s = .next { s with core := c, agenda := s.agenda ++ as, freeCtr := n } ∧
    let now := s.core.inflight.filter fun f => decide (f.ready ≤ s.core.cyc)
    let fx := s.core.endFx
    c.inflight = s.core.inflight.filter (fun f => decide (s.core.cyc < f.ready)) ∧
    c.loads = s.core.loads.filter (fun l => decide (s.core.cyc < l.ready)) ∧ c.endFx = [] ∧
    (∀ r : Fin 64, c.x.get r = if r = 0 then s.core.x.get r else
      ((now.filterMap fun f => match f.wr with | .x q v => if q = r then some v else none | _ => none).getLast?).getD (s.core.x.get r)) ∧
    (∀ r : Fin 16, c.a.get r =
      ((now.filterMap fun f => match f.wr with | .a q v => if q = r then some v else none | _ => none).getLast?).getD (s.core.a.get r)) ∧
    (∀ r : Fin 32, c.v.get r =
      ((now.filterMap fun f => match f.wr with | .v q v => if q = r then some v else none | _ => none).getLast?).getD (s.core.v.get r)) ∧
    (∀ r : Fin 8, c.m.get r =
      ((now.filterMap fun f => match f.wr with | .m q v => if q = r then some v else none | _ => none).getLast?).getD (s.core.m.get r)) ∧
    (∀ r : Fin 8, c.mp.get r =
      ((now.filterMap fun f => match f.wr with | .mp q v => if q = r then some v else none | _ => none).getLast?).getD (s.core.mp.get r)) ∧
    (∀ r : Fin 16, c.p.getLsbD r.val = if r = 0 then s.core.p.getLsbD 0 else
      ((now.filterMap fun f => match f.wr with | .p q v => if q = r then some v else none | _ => none).getLast?).getD
        (s.core.p.getLsbD r.val)) ∧
    (Memory.wf s.core.scratch → ∀ a, memGet c.scratch a = (fxByte fx a).getD (memGet s.core.scratch a)) ∧
    (∀ l, l < 4096 → c.marks.getLsbD l = (fxMark fx l).getD (s.core.marks.getLsbD l)) ∧
    (∀ f : Fin 32, c.f.get f = fx.foldl (furrowAfter f) (s.core.f.get f)) ∧
    c.sbchk = (fxSbchk fx).getD s.core.sbchk ∧
    (∀ q : Fin 16, c.q.get q = (fxSlot fx q).getD (s.core.q.get q)) ∧
    ((∀ e ∈ fx, ∀ q v, e ≠ .named q v) → ∀ h : Fin 16, c.h.get h = (fxHandle fx h).getD (s.core.h.get h)) ∧
    (∀ q v, fx = [.named q v] →
      (∀ d id b l g, s.core.rq q = .outstanding d id b (some l) → l.hset = some g → c.h = setAt s.core.h g.1 g.2) ∧
      ((∀ d id b l g, s.core.rq q = .outstanding d id b (some l) → l.hset ≠ some g) → c.h = s.core.h)) ∧
    (.mabort ∉ fx → c.eng = s.core.eng) ∧
    (.mabort ∈ fx → c.eng.active = none ∧ c.eng.pending = none ∧ c.eng.load = none ∧ c.eng.done = true ∧ c.eng.fault = false ∧
      c.eng.fcode = 0 ∧ c.eng.work = s.core.eng.work ∧ c.eng.vis = s.core.eng.vis ∧ c.eng.b0 = s.core.eng.b0 ∧ c.eng.b1 = s.core.eng.b1 ∧
      c.eng.bact = s.core.eng.bact ∧ c.eng.store = s.core.eng.store) ∧
    { c with
      x := s.core.x, a := s.core.a, v := s.core.v, m := s.core.m, mp := s.core.mp, p := s.core.p, q := s.core.q, h := s.core.h
      f := s.core.f, scratch := s.core.scratch, marks := s.core.marks, sbchk := s.core.sbchk, eng := s.core.eng
      inflight := s.core.inflight, loads := s.core.loads, endFx := fx } = s.core ∧
    ((∀ e ∈ fx, ∀ f k, e ≠ .release f k) → as = [] ∧ n = s.freeCtr) ∧
    (∀ f, fx = [.release f 1] → (s.core.rf f).remote = true → (s.core.rf f).pbnd = true → ∀ tk, s.core.task = some tk →
      ∃ k, s.cycle < k ∧ as = [⟨k, 0, .pushSlotReturn (s.core.rf f).pcore (tk.inst * 8 + tk.member) f.val⟩])

/-- R216, R228 to R236: the home events. OPEN lands its status with the register's new state, PIN and a satisfied SUBSC pin the
current version, PUBL makes the pending version current, CLOSE and UNPIN release a pin, and a SUBSC that waits too long times out. -/
def Obligations.VersionEvents : Prop :=
  (Completes .versionEvent ∧ Completes .subscTimeout) ∧
  (∀ (s : State) (r : Req), Acts s r →
    (∀ w, r.op = .openH w → s.objOf r.reg.handle = none → ∃ t, exec .versionEvent s = .next t ∧ coresKept s t ∧ t.objs = s.objs ∧
      Answers s t r (landWordOf 4 0) (some (r.h, HReg.closed))) ∧
    (∀ w o, r.op = .openH w → s.objOf r.reg.handle = some o →
      let rights := s.rightsOf o r.party.plot
      let g (v : Nat) : HReg := ⟨r.reg.handle, true, w, rights, BitVec.ofNat 32 v, none⟩
      (rights.getLsbD (if w then 1 else 0) = false → ∃ t, exec .versionEvent s = .next t ∧ coresKept s t ∧ t.objs = s.objs ∧
        Answers s t r (landWordOf 5 0) (some (r.h, HReg.closed))) ∧
      (rights.getLsbD (if w then 1 else 0) = true → o.live = true → ∃ t, exec .versionEvent s = .next t ∧ coresKept s t ∧
        t.objs = s.objs ∧ Answers s t r (landWordOf 0 0) (some (r.h, g 0))) ∧
      (rights.getLsbD 0 = true → w = false → o.live = false → o.pinc < 2 ^ 32 - 1 → ∃ t o', exec .versionEvent s = .next t ∧
        coresKept s t ∧ t.objAt o.home o.index = some o' ∧ o'.pinc = o.pinc + 1 ∧ o'.curv = o.curv ∧
        Answers s t r (landWordOf 0 o.curv) (some (r.h, g o.curv))) ∧
      (rights.getLsbD 1 = true → w = true → o.live = false → o.curv < 2 ^ 32 - 2 → o.pwrt = 0 → ∃ t o', exec .versionEvent s = .next t ∧
        coresKept s t ∧ t.objAt o.home o.index = some o' ∧ o'.curv = o.curv ∧
        (∃ v ∈ o'.vers, v.num = o.curv + 1 ∧ v.st = .pending ∧ v.writer = some r.party) ∧
        Answers s t r (landWordOf 0 (o.curv + 1)) (some (r.h, g (o.curv + 1)))) ∧
      (rights.getLsbD 1 = true → w = true → o.live = false → o.curv < 2 ^ 32 - 2 → o.pwrt ≠ 0 → ∃ t, exec .versionEvent s = .next t ∧
        coresKept s t ∧ t.objs = s.objs ∧ Answers s t r (landWordOf 1 0) (some (r.h, HReg.closed)))) ∧
    (∀ o, s.objAt r.home r.index = some o → o.gen = r.gen → r.reg.ver = 0xFFFFFFFF → o.curv < 2 ^ 32 - 1 → o.pinc < 2 ^ 32 - 1 →
      ∀ x, r.op = .pin ∨ (r.op = .subsc x ∧ x.toNat < o.curv) → ∃ t o', exec .versionEvent s = .next t ∧
        t.objAt r.home r.index = some o' ∧ o'.pinc = o.pinc + 1 ∧ sameButFrames s.core t.core ∧
        Answers s t r (landWordOf 0 o.curv) (some (r.h, landed { r.reg with ver := BitVec.ofNat 32 o.curv }))) ∧
    (∀ o x, s.objAt r.home r.index = some o → o.gen = r.gen → r.op = .subsc x → o.curv ≤ x.toNat → x.toNat < 2 ^ 32 →
      exec .versionEvent s = .next { s with reqs := phased s r.id .waiting, agenda := s.agenda ++
        [⟨s.cycle + (r.issued + s.timeout r.party - s.cycle), r.id, .subscTimeout⟩] }) ∧
    (∀ o, s.objAt r.home r.index = some o → o.gen = r.gen → r.op = .publ → r.reg.ver.toNat < 2 ^ 32 - 2 →
      s.reqs.Pairwise (fun a b => a.id ≠ b.id) → ∃ t o' q, exec .versionEvent s = .next t ∧
        t.objAt r.home r.index = some o' ∧ o'.curv = r.reg.ver.toNat ∧ q ∈ t.reqs ∧ q.id = r.id ∧
        q.phase = .answered ⟨landWordOf 0 r.reg.ver.toNat, some (r.h, landed { r.reg with ver := r.reg.ver + 1 })⟩) ∧
    (∀ o, s.objAt r.home r.index = some o → r.op = .close ∨ r.op = .unpin → r.home = handleHome r.reg.handle →
      r.index = handleIndex r.reg.handle → r.reg.opened = true → r.reg.write = false → o.live = false → o.valid = true →
      r.reg.ver.toNat = o.curv → r.reg.ver ≠ 0xFFFFFFFF → 0 < o.pinc → ∃ t o', exec .versionEvent s = .next t ∧
        t.objAt r.home r.index = some o' ∧ o'.pinc = o.pinc - 1 ∧ sameButFrames s.core t.core ∧
        t.reqs = s.reqs.filter (fun q => q.id ≠ r.id))) ∧
  (∀ (s : State) (r : Req), Named s r → r.phase = .waiting → ∃ t, exec .subscTimeout s = .next t ∧ coresKept s t ∧ t.objs = s.objs ∧
    Answers s t r (landWordOf 7 0) (some (r.h, landed r.reg)))

/-- R255, R355, R205, R213: a word that arrives is kept with its slot; that of a request which was held follows the completion
messages on their way to its core (the model's choice: log 105). A slot's bytes arrive whole (log 121), and its claim is marked written,
to be counted in claim order at the end of the cycle. R72: a fill in a cycle that the bank frame does not count comes before the phase-3 cycle of a load that the scalar
port still holds, which returns the bytes filled. -/
def Obligations.LandingsAndFills : Prop :=
  (Completes .landingArrival ∧ Completes .slotFilled) ∧
  (∀ (s : State) (r : Req) (l : Landing) (q : Fin 16) (due : Nat) (b : Bool), Named s r → r.phase = .answered l → r.q = some q →
    isCurrent s r.party → s.core.rq q = .outstanding due r.id b none →
    (r.arr = 0 ∨ ∀ e ∈ s.agenda, ∀ n, e.instr ≠ .thawCompleteMsg r.core n) → ∃ t, exec .landingArrival s = .next t ∧
      t.core = { s.core with q := setAt s.core.q q (.outstanding due r.id b (some l)) } ∧
      t.reqs = s.reqs.filter (fun k => k.id ≠ r.id) ∧ t.objs = s.objs ∧ t.agenda = s.agenda) ∧
  (∀ (s : State) (r : Req) (l : Landing) (q : Fin 16) (e : Event) (n : Nat), Named s r → r.phase = .answered l → r.q = some q →
    r.arr ≠ 0 → e ∈ s.agenda → e.instr = .thawCompleteMsg r.core n →
    ∃ t, exec .landingArrival s = .next t ∧ Again s t r.id .landingArrival) ∧
  (∀ (s : State) (r : Req) (data : List Byte) (marks : List Bool) (f : Fin 32), Named s r →
    r.phase = .filling data marks → r.furrow = some f → r.q = none → isCurrent s r.party → Memory.wf s.core.scratch →
    s.core.run ≠ .saving →
    let g := s.core.rf f
    let a := g.base + g.slotsz * r.fslot
    ∃ t, exec .slotFilled s = .next t ∧ t.reqs = s.reqs.filter (fun k => k.id ≠ r.id) ∧ t.objs = s.objs ∧
      (s.core.stage ≠ .halted ∨ s.core.loads = [] → t.core.inflight = s.core.inflight) ∧
      (∀ l x, s.core.stage = .halted → s.core.loads = [l] → s.core.inflight = [⟨l.ready, .x l.reg x⟩] → l.nth = 0 → l.size ≤ 8 →
        s.core.cyc ≤ l.port → ∃ y : Word, t.core.inflight = [⟨l.ready, .x l.reg y⟩] ∧ ∀ k, k < l.size →
          byteAt y.toNat k = if a ≤ l.addr + k ∧ l.addr + k < a + data.length then data.getD (l.addr + k - a) 0 else byteAt x.toNat k) ∧
      t.core = { s.core with
        scratch := t.core.scratch, marks := t.core.marks, inflight := t.core.inflight
        f := setAt s.core.f f { g with claims := g.claims.map fun k => if k.req = r.id then { k with done := true } else k }
        endFx := s.core.endFx ++ [.settle f] } ∧
      ∀ k, memGet t.core.scratch k = if a ≤ k ∧ k < a + data.length then data.getD (k - a) 0 else memGet s.core.scratch k)

/-- R202, R205, R217 to R222, R241 to R245: the home performs a request. INFO reads the entry, FETCH and GATHER read each element
of the tile with zeros beyond the dimensions, a STORE puts the slot's elements and pops it, FREEZE counts, GRANT gives grains,
ALLOC makes an object; a request whose object is gone, or was freed meanwhile, takes OBJ_RIGHTS late; a read of an ABSENT page waits
while the page is resolved. A tile is read and written whole in one step (the model's choice: log 90), and what a write leaves of a
poisoned line is log 27's. -/
def Obligations.ObjectPerforms : Prop :=
  (Completes .objectRequestPerform) ∧
  ∀ (s : State) (r : Req), Acts s r →
    (s.objAt r.home r.index = none → (∀ a b c d e, r.op ≠ .alloc a b c d e) →
      (∀ a b c d e, r.op ≠ .push a b c d e) → isCurrent s r.party → ∃ t, exec .objectRequestPerform s = .next t ∧
        t.reqs = failing s r.id .objRights ∧ sameButLate s.core t.core ∧ (s.cycle, r.id) ∈ t.core.late ∧ t.objs = s.objs) ∧
    (∀ o q v, s.objAt r.home r.index = some o → r.op = .info q v → o.gen ≠ r.gen → isCurrent s r.party →
      ∃ t, exec .objectRequestPerform s = .next t ∧ t.reqs = failing s r.id .objRights ∧ sameButLate s.core t.core ∧ t.objs = s.objs) ∧
    (∀ o q v, s.objAt r.home r.index = some o → r.op = .info q v → o.gen = r.gen → ∃ t, exec .objectRequestPerform s = .next t ∧ coresKept s t ∧
      t.objs = s.objs ∧ Answers s t r (BitVec.ofNat 64 (infoSays o v q)) none) ∧
    (∀ o l m, s.objAt r.home r.index = some o → r.op = .fetch m ∨ r.op = .gather l → isCurrent s r.party →
      (o.gen ≠ r.gen → ∃ t, exec .objectRequestPerform s = .next t ∧ t.reqs = failing s r.id .objRights ∧
        sameButLate s.core t.core ∧ t.objs = s.objs) ∧
      (∀ n g, o.gen = r.gen → o.hostsh = false → n ∈ spanPages r o → o.pageAt (o.verOf r.reg) n = some g → g.res = .absent → r.arr = 0 →
        ∃ t, exec .objectRequestPerform s = .next t ∧ coresKept s t ∧ t.objs = s.objs ∧
          t.reqs = updFirst (fun q => q.id = r.id) (fun q => { q with phase := .waiting, arr := s.nextReq, absent := true }) s.reqs ∧
          (∃ e ∈ t.agenda, e.instr = .objMissingResolve ⟨o.home, o.index, g.ver, g.num⟩) ∧
          ⟨s.cycle + 1, r.id, .objectRequestPerform⟩ ∈ t.agenda) ∧
      (o.gen = r.gen → reachable o → noneAbsent s → ∃ t b data marks, exec .objectRequestPerform s = .next t ∧
        t.reqs = filling s r.id b data marks ∧ (∃ n, s.cycle < n ∧ ⟨n, r.id, .slotFilled⟩ ∈ t.agenda) ∧
        t.core.x = s.core.x ∧ t.core.scratch = s.core.scratch ∧ t.core.f = s.core.f ∧
        ((∃ x, r.rowB = rowSize x o ∧ rowSize x o * 8 % elemBits o.fmt = 0) →
          ∀ k e, k < r.rows → e < r.rowB * 8 / elemBits o.fmt → slotElem r o data k e =
            if inDims (r.cell k e) o.dims then o.readElem (o.verOf r.reg) (r.cell k e) else 0))) ∧
    (∀ o n f, s.objAt r.home r.index = some o → r.op = .store n → o.gen = r.gen → o.live = true → reachable o → noneAbsent s → spanOpen s r o →
      (∀ b ∈ r.bytes o, ∃ g, o.grains.find? (fun g => g.g = b / 512) = some g ∧ g.owner.sameTask r.party = true) → isCurrent s r.party →
      r.furrow = some f → ∃ t o', exec .objectRequestPerform s = .next t ∧ t.reqs = s.reqs.filter (fun q => q.id ≠ r.id) ∧
        t.objAt r.home r.index = some o' ∧ o'.entry = o.entry ∧
        o'.vers = (o.putElems 0 (r.puts o (s.slotData r).1 (s.slotData r).2)).vers ∧ t.core.scratch = s.core.scratch ∧
        t.core.f = setAt s.core.f f (poppedBy (s.core.rf f) r.id)) ∧
    (∀ o, s.objAt r.home r.index = some o → r.op = .freeze → o.gen = r.gen → o.hostsh = false → o.pwrt = 0 →
      (∀ g ∈ o.grains, g.owner.sameTask r.party = true) → (∀ n, freezeCount o n < 255) →
      s.heldAt r o (spanPages r o) false (if o.live then 0 else o.curv) = false →
      ∃ t o', exec .objectRequestPerform s = .next t ∧ Answers s t r (landWordOf 0 (spanPages r o).length) none ∧
        t.objAt r.home r.index = some o' ∧ o'.entry = o.entry ∧ o'.vers = o.vers ∧ sameButFrames s.core t.core ∧
        ∀ n, freezeCount o' n = freezeCount o n + if n ∈ spanPages r o then 1 else 0) ∧
    (∀ o, s.objAt r.home r.index = some o → r.op = .thaw → o.gen = r.gen → (∀ n ∈ spanPages r o, 1 < freezeCount o n) →
      (∀ z ∈ o.frz, z.thawing = false) → ∃ t o', exec .objectRequestPerform s = .next t ∧ coresKept s t ∧
        Answers s t r (BitVec.ofNat 64 (s.token * 2 ^ 32 + 256)) none ∧ t.objAt r.home r.index = some o' ∧
        ∀ n, freezeCount o' n = freezeCount o n - if n ∈ spanPages r o then 1 else 0) ∧
    (∀ o, s.objAt r.home r.index = some o → r.op = .grant → o.gen = r.gen →
      (∀ g ∈ o.grains, g.g ∈ (r.bytes o).map (· / 512) → g.owner.sameTask r.party = true) → (∀ n ∈ spanPages r o, freezeCount o n = 0) →
      s.heldAt r o (spanPages r o) false 0 = false → ∃ t o' n, exec .objectRequestPerform s = .next t ∧ coresKept s t ∧
        Answers s t r (landWordOf 0 n) none ∧ t.objAt r.home r.index = some o' ∧
        ∀ b ∈ r.bytes o, ∃ g ∈ o'.grains, g.g = b / 512 ∧ g.owner.sameTask r.party = true) ∧
    (∀ a b c d e, r.op = .alloc a b c d e → badForm a.toNat b.toNat c.toNat d.toNat false = true →
      ∃ t, exec .objectRequestPerform s = .next t ∧ coresKept s t ∧ t.objs = s.objs ∧ Answers s t r (landWordOf 6 0) none) ∧
    (∀ a b c d, r.op = .alloc a b c d false → badForm a.toNat b.toNat c.toNat d.toNat false = false →
      (∀ q ∈ s.ancestors r.party.plot, q.hbmb = 0) → ∃ t, exec .objectRequestPerform s = .next t ∧ coresKept s t ∧
        ((∃ w o, Allocated s t a b c d w o ∧ t.reqs = phased s r.id (.answered ⟨w, none⟩)) ∨
        (t.objs = s.objs ∧ t.reqs = phased s r.id (.answered ⟨landWordOf 2 0, none⟩))))

/-- R223, R237, R239, R243, R355: a pop returns a slot to the producer's mirror, an ended task marks the entries for it, a push
fills the destination's slot at TAIL; a place drops its casts of a thawing page and acknowledges, once the fills in flight that may form
one are complete, the last acknowledgement opens the page, and the completion message is recorded. The message bodies, and the
acknowledgement of a rack, are the model's choice: logs 62 and 72. -/
def Obligations.PushesAndCasts : Prop :=
  (∀ a b c p place, Completes (.castInvalidate p place) ∧ Completes (.thawAck p place) ∧ Completes (.pushSlotReturn a b c) ∧ Completes (.pushDestEnded a) ∧ Completes .pushArrival ∧
    Completes (.thawCompleteMsg a b)) ∧
  (∀ (s : State) (dest f : Nat), ∃ t, exec (.pushSlotReturn s.core.id dest f) s = .next t ∧
    let more (e : PushEntry) : PushEntry := { e with free := min e.slots (e.free + 1) }
    t.core = { s.core with pushMap := updFirst (fun e => e.inst = dest && e.furrow = f) more s.core.pushMap } ∧ t.reqs = s.reqs ∧ t.objs = s.objs ∧ t.agenda = s.agenda) ∧
  (∀ (s : State) (n : Nat), ∃ t, exec (.pushDestEnded n) s = .next t ∧
    let mark (e : PushEntry) : PushEntry := { e with ended := e.ended || decide (e.inst / 8 = n) }
    t.core = { s.core with pushMap := s.core.pushMap.map mark } ∧
    t.reqs = s.reqs ∧ t.objs = s.objs ∧ t.agenda = s.agenda) ∧
  (∀ (s : State) (r : Req) (dest f inst : Nat) (ds data : List Byte) (ms marks : List Bool) (k : Task), Named s r →
    r.op = .push dest f inst ds ms → r.phase = .filling data marks → s.reqs = [r] → s.core.task = some k →
    inst = k.inst * 8 + k.member → k.member < 8 → f < 32 → Memory.wf s.core.scratch →
    let i : Fin 32 := Fin.ofNat 32 f
    let g := s.core.rf i
    let a := slotAddr g g.tail
    0 < g.count → ∃ t, exec .pushArrival s = .next t ∧ t.reqs = [] ∧ t.objs = s.objs ∧
      (s.core.stage ≠ .halted ∨ s.core.loads = [] → t.core.inflight = s.core.inflight) ∧
      t.core = { s.core with
        scratch := t.core.scratch, marks := t.core.marks, inflight := t.core.inflight
        f := setAt s.core.f i { g with tail := nextSlot g g.tail, free := g.free - 1 }
        endFx := s.core.endFx ++ [.fill i 1] } ∧
      ∀ b, memGet t.core.scratch b = if a ≤ b ∧ b < a + data.length then data.getD (b - a) 0 else memGet s.core.scratch b) ∧
  (∀ (s : State) (p : PageRef),
    (s.castFill p = false → ∃ t, exec (.castInvalidate p .here) s = .next t ∧
      (p.home = s.pkg → Later s t 0 (.thawAck p .here)) ∧
      (p.home ≠ s.pkg → ∃ k ∈ t.peers, k.pkg = p.home ∧ ∃ u ∈ k.unacked,
        u.body = .castAck p (if p.home / 128 = s.pkg / 128 then .position (s.pkg % 128) else .rack (s.pkg / 128))) ∧
      (∀ q ∈ t.localCasts, ¬ (q.home = p.home ∧ q.index = p.index ∧ q.page = p.page)) ∧ sameButFrames s.core t.core ∧ t.objs = s.objs) ∧
    (s.castFill p = true → ∃ t, exec (.castInvalidate p .here) s = .next t ∧ Again s t 0 (.castInvalidate p .here)) ∧
    (∀ n, ∃ t, exec (.castInvalidate p (.rack n)) s = .next t ∧ coresKept s t ∧
      (∀ q ∈ s.peers, q.pkg / 128 = n → ∃ k ∈ t.peers, k.pkg = q.pkg ∧ ∃ u ∈ k.unacked, u.body = .invalidate p) ∧
      ((∀ q ∈ s.peers, q.pkg / 128 ≠ n) → Later s t 0 (.thawAck p (.rack n)))) ∧
    ∀ n q, s.peers.find? (fun k => k.pkg = s.pkg / 128 * 128 + n) = some q → ∃ t, exec (.castInvalidate p (.position n)) s = .next t ∧
      (∃ k ∈ t.peers, k.pkg = q.pkg ∧ ⟨q.sendSeq, s.ts, .invalidate p⟩ ∈ k.unacked) ∧ coresKept s t ∧ t.objs = s.objs) ∧
  (∀ (s : State) (p : PageRef) (place : CastPlace) (o : Obj) (z : Frz), s.objAt p.home p.index = some o → o.frz = [z] → z.page = p.page →
    z.thawing = true →
    (z.awaited = [place] → ∃ t o', exec (.thawAck p place) s = .next t ∧ coresKept s t ∧ t.objAt p.home p.index = some o' ∧ o'.frz = []) ∧
    (∀ other, other ≠ place → other ∈ z.awaited → ∃ t o', exec (.thawAck p place) s = .next t ∧ coresKept s t ∧
      t.objAt p.home p.index = some o' ∧ o'.frz = [{ z with awaited := z.awaited.filter fun x => x ≠ place }] ∧ t.agenda = s.agenda)) ∧
  (∀ (s : State) (token : Nat), ∃ t, exec (.thawCompleteMsg s.core.id token) s = .next t ∧ token ∈ t.core.thawDone ∧
    { t.core with thawDone := s.core.thawDone } = s.core ∧ t.objs = s.objs ∧ t.reqs = s.reqs)

/-- R226: a collective whose only participant has joined is performed: BC fills its slot with the tile, AG and RED write the
object and pop the slot, once no earlier request is held at their pages; one that is not complete in time lands TIMEOUT and moves
nothing, a BC's slot being filled with zeros. A mismatch that is found late (log 27), the sum of RAW elements (log 81) and the tile
moved in one step (log 90) are the model's choices. -/
def Obligations.Collectives : Prop :=
  (Completes .collComplete ∧ Completes .collTimeout) ∧
  (∀ (s : State) (r : Req) (k : Coll) (j : Joined) (o : Obj), s.colls = [k] → k.id = s.subj → k.joined = [j] → j.req = r.id → s.reqs = [r] →
    s.objAt k.home k.index = some o → isCurrent s r.party →
    (k.kind = .bc → o.gen = r.gen → reachable o → s.heldReads = [] → ∃ t o' b, exec .collComplete s = .next t ∧ t.colls = [] ∧
      t.objAt k.home k.index = some o' ∧ o'.entry = o.entry ∧ o'.vers = o.vers ∧
      t.reqs = filling s r.id b (r.readTile o (o.verOf r.reg)).1 (r.readTile o (o.verOf r.reg)).2 ∧
      ∃ n, s.cycle < n ∧ ⟨n, r.id, .slotFilled⟩ ∈ t.agenda) ∧
    (k.kind = .bc → o.gen ≠ r.gen → ∃ t, exec .collComplete s = .next t ∧ t.colls = [] ∧ t.objs = s.objs ∧
      t.reqs = failing s r.id .objRights ∧ sameButLate s.core t.core) ∧
    (k.kind ≠ .bc → o.gen = r.gen → o.live = true → reachable o → s.heldReads = [] → o.grains = [] → (∀ n, freezeCount o n = 0) →
      let held := s.heldAt r o (pagesOf ((k.puts o r).map fun p => o.elemBytes p.at_).flatten) true 0
      (held = false → ∃ t o', exec .collComplete s = .next t ∧ t.colls = [] ∧ t.objAt k.home k.index = some o' ∧
        o'.vers = (o.putElems 0 (k.puts o r)).vers ∧ o'.entry = o.entry ∧ t.reqs = phased s r.id (.answered ⟨landWordOf 0 0, none⟩) ∧
        ∀ f, r.furrow = some f → t.core.f = setAt s.core.f f (poppedBy (s.core.rf f) r.id)) ∧
      (held = true → ∃ t, exec .collComplete s = .next t ∧ coresKept s t ∧ t.colls = s.colls ∧ t.objs = s.objs ∧
        t.agenda = s.agenda ++ [⟨s.cycle + 1, k.id, .collComplete⟩]))) ∧
  (∀ (s : State) (r : Req) (k : Coll) (j : Joined) (o : Obj), Named s r → s.reqs = [r] → s.colls = [k] → k.joined = [j] → j.req = r.id →
    s.objAt k.home k.index = some o →
    (o.shn = 1 → exec .collTimeout s = .next s) ∧
    (s.cycle < r.issued + s.timeout r.party → exec .collTimeout s = .next s) ∧
    (o.shn ≠ 1 → r.issued + s.timeout r.party ≤ s.cycle →
      (k.kind ≠ .bc → ∃ t, exec .collTimeout s = .next t ∧ t.colls = [] ∧ t.objs = s.objs ∧
        t.reqs = phased s r.id (.answered ⟨landWordOf 7 0, none⟩)) ∧
      (k.kind = .bc → ∃ t, exec .collTimeout s = .next t ∧ t.colls = [] ∧ t.objs = s.objs ∧
        t.reqs = [{ r with fin := 7, phase := .filling (List.replicate (r.rows * r.rowB) 0) [] }] ∧
        ∃ n, s.cycle < n ∧ ⟨n, r.id, .slotFilled⟩ ∈ t.agenda)))

/-- R257, R258, R261 to R264: the engine reads the element, writes the new value in its width, records the scope with the line and
lands the old value, sign-extended for I32 and I64; RED lands nothing; a release first writes back the lines that the task's object
cache holds dirty (R209). R298: PLOTRD reads a word of the plot's descriptor. -/
def Obligations.SyncPerforms : Prop :=
  (Completes .syncAccessPerform) ∧
  (∀ (s : State) (r : Req) (o : Obj) (sg : Bool) (w : Nat), Acts s r → homeUp s r → s.objAt r.home r.index = some o → passes s r o →
    fmtKind o.fmt = .int sg w →
    let e := coordsOf o.dims r.n
    let old := o.readElem 0 e
    let low (x : Word) : Nat := x.toNat % 2 ^ (8 * w)
    let m := r.n * elemBits o.fmt / 512
    (∀ op ord x cmp, r.op = .atom op ord x cmp → ∃ t o', exec .syncAccessPerform s = .next t ∧ coresButFrames s t ∧
      t.objAt r.home r.index = some o' ∧ (∃ l ∈ o'.lines, l.line = m ∧ l.record = some ⟨r.scope, r.party⟩) ∧
      o'.vers = (if op = .cas ∧ old ≠ low cmp then o else o.writeElem 0 e (atomSays op sg w old (low x) (low cmp))).vers ∧
      Answers s t r (landedWord sg w old) none ∧ (ord = .rlx ∨ ord = .acq → coresKept s t)) ∧
    (∀ op rel x, r.op = .red op rel x → op ≠ .cas → ∃ t o', exec .syncAccessPerform s = .next t ∧ coresButFrames s t ∧
      t.objAt r.home r.index = some o' ∧ o'.vers = (o.writeElem 0 e (atomSays op sg w old (low x) 0)).vers ∧ t.reqs = without s r ∧
      t.agenda = s.agenda ∧ (rel = true → isCurrent s r.party → ∀ f ∈ t.core.frames, f.dirty = false) ∧ (rel = false → coresKept s t)) ∧
    (∀ acq, r.op = .ldsync acq → ∃ t o', exec .syncAccessPerform s = .next t ∧ coresKept s t ∧ t.objAt r.home r.index = some o' ∧
      o'.vers = o.vers ∧ Answered s t r (landedWord sg w old) none) ∧
    (∀ rel x, r.op = .stsync rel x → ∃ t o', exec .syncAccessPerform s = .next t ∧ coresButFrames s t ∧ t.objAt r.home r.index = some o' ∧
      o'.vers = (o.writeElem 0 e (low x)).vers ∧ t.reqs = without s r ∧ (rel = false → coresKept s t))) ∧
  (∀ (s : State) (r : Req) (sel : Word) (p : Plot), Acts s r → homeUp s r → r.op = .plotrd sel → sel.toNat < 32 →
    s.plotAt r.party.plot = some p → ∃ t, exec .syncAccessPerform s = .next t ∧ coresKept s t ∧ t.objs = s.objs ∧
      Answers s t r (BitVec.ofNat 64 (plotField p (64 * sel.toNat) 64)) none) ∧
  (∀ (s : State) (r : Req) (o : Obj) (op : AtomOp) (ord : Ord) (x cmp : Word), Acts s r → homeUp s r → r.op = .atom op ord x cmp →
    s.objAt r.home r.index = some o → reachable o → o.gen ≠ r.gen → isCurrent s r.party → ∃ t, exec .syncAccessPerform s = .next t ∧
      t.reqs = failing s r.id .objRights ∧ t.objs = s.objs ∧ sameButLate s.core t.core)

/-- R265 to R269, R292: BARINIT sets up a barrier under the parent that word 1 names, or clears INIT; an arrival is counted; the last one
of a root barrier advances PHASE and counts anew; a completed child's arrival counts at its parent, or is held, or waits there, and a
parent's flip advances the child, with what it held counted; a BARW lands when its phase has ended, and a BREAD when its ballot has
settled, else they wait; a wait that lasts too long takes BARRIER_TIMEOUT late, counted for a BARW from the last arrival at its barrier or
an ancestor (log 38). -/
def Obligations.Barriers : Prop :=
  (∀ child, Completes .barrierArrival ∧ Completes (.barrierParentArrival child) ∧ Completes (.barrierChildFlip child) ∧
    Completes .barrierTimeout) ∧
  (∀ (s : State) (r : Req) (o : Obj) (b : BarState), Acts s r → homeUp s r → r.op = .barr → s.objAt r.home r.index = some o → wordsHeld o →
    barUsable r o b → b.waits = [] → b.held = 0 →
    let w := o.word 0
    (barField w 17 20 + 1 < barField w 37 20 → ∃ t o', exec .barrierArrival s = .next t ∧ coresButFrames s t ∧ t.reqs = without s r ∧
      t.objAt r.home r.index = some o' ∧ o'.word 0 = w + 2 ^ 17 ∧ t.agenda = s.agenda) ∧
    (barField w 17 20 + 1 = barField w 37 20 → handleIndex b.parent = 0 → (∀ k ∈ s.objs, ∀ c ∈ k.bar, handleIndex c.parent ≠ r.index) →
      ∃ t o', exec .barrierArrival s = .next t ∧ coresButFrames s t ∧ t.reqs = without s r ∧ t.objAt r.home r.index = some o' ∧
        barField (o'.word 0) 0 17 = (barField w 0 17 + 1) % 2 ^ 17 ∧ barField (o'.word 0) 17 20 = 0 ∧
        barField (o'.word 0) 37 27 = barField w 37 27) ∧
    (barField w 17 20 + 1 = barField w 37 20 → handleIndex b.parent ≠ 0 → ∃ t o', exec .barrierArrival s = .next t ∧
      t.objAt r.home r.index = some o' ∧ o'.word 0 = w + 2 ^ 17 ∧ Later s t 0 (.barrierParentArrival ⟨r.home, r.index, 0, 0⟩))) ∧
  (∀ (s : State) (child : PageRef) (k o : Obj) (kb b : BarState), s.objAt child.home child.index = some k → k.bar = some kb →
    s.objOf kb.parent = some o → o.bar = some b → wordsHeld o →
    let w := o.word 0
    let n := barField w 17 20
    let e := barField w 37 20
    (n < e → n + 1 ≠ e → ∃ t o', exec (.barrierParentArrival child) s = .next t ∧ coresKept s t ∧ t.reqs = s.reqs ∧
      t.objAt o.home o.index = some o' ∧ o'.word 0 = w + 2 ^ 17) ∧
    (n + 1 = e → handleIndex b.parent ≠ 0 → ∃ t o', exec (.barrierParentArrival child) s = .next t ∧ coresKept s t ∧ t.reqs = s.reqs ∧
      t.objAt o.home o.index = some o' ∧ o'.word 0 = w + 2 ^ 17 ∧ Later s t 0 (.barrierParentArrival ⟨o.home, o.index, 0, 0⟩)) ∧
    (n + 1 = e → handleIndex b.parent = 0 → b.held < 2 ^ 20 → ∃ t o', exec (.barrierParentArrival child) s = .next t ∧ coresKept s t ∧
      t.objAt o.home o.index = some o' ∧ barField (o'.word 0) 37 27 = barField w 37 27 ∧
      barField (o'.word 0) 17 20 = (if b.held = e then 0 else b.held) ∧
      barField (o'.word 0) 0 17 = (barField w 0 17 + if b.held = e then 2 else 1) % 2 ^ 17) ∧
    (e ≤ n → b.held < e → ∃ t o' c, exec (.barrierParentArrival child) s = .next t ∧ coresKept s t ∧ t.reqs = s.reqs ∧
      t.objAt o.home o.index = some o' ∧ o'.word 0 = w ∧ o'.bar = some c ∧ c.held = b.held + 1 ∧ c.waits = b.waits) ∧
    (e ≤ n → e ≤ b.held → ∃ t, exec (.barrierParentArrival child) s = .next t ∧ Again s t 0 (.barrierParentArrival child))) ∧
  (∀ (s : State) (child : PageRef), (s.objAt child.home child.index = none → exec (.barrierParentArrival child) s = .next s ∧
      exec (.barrierChildFlip child) s = .next s) ∧
    ∀ k, s.objAt child.home child.index = some k → (k.bar = none → exec (.barrierParentArrival child) s = .next s ∧
        exec (.barrierChildFlip child) s = .next s) ∧
      ∀ kb, k.bar = some kb → (s.objOf kb.parent = none ∨ ∃ o, s.objOf kb.parent = some o ∧ o.bar = none) →
        exec (.barrierParentArrival child) s = .next s) ∧
  (∀ (s : State) (child : PageRef) (o : Obj) (b : BarState), s.objAt child.home child.index = some o → o.bar = some b → wordsHeld o →
    ∃ t o', exec (.barrierChildFlip child) s = .next t ∧ coresKept s t ∧ t.objAt child.home child.index = some o' ∧
      barField (o'.word 0) 0 17 = (barField (o.word 0) 0 17 + 1) % 2 ^ 17 ∧ barField (o'.word 0) 17 20 = b.held % 2 ^ 20 ∧
      barField (o'.word 0) 37 27 = barField (o.word 0) 37 27 ∧ (b.waits = [] → t.reqs = s.reqs) ∧
      (b.held = barField (o.word 0) 37 20 → handleIndex b.parent ≠ 0 →
        ∃ n, s.cycle < n ∧ ⟨n, 0, .barrierParentArrival ⟨child.home, child.index, 0, 0⟩⟩ ∈ t.agenda)) ∧
  (∀ (s : State) (r : Req) (o : Obj) (e : Word), Acts s r → homeUp s r → r.op = .barinit e → s.objAt r.home r.index = some o →
    o.gen = r.gen → wordsHeld o →
    let w := o.word 0
    let par := BitVec.ofNat 64 (o.word 1)
    let off (t : State) : Prop := ∃ o', t.objAt r.home r.index = some o' ∧ o'.word 0 = w % 2 ^ 63
    let set (t : State) (level : Nat) : Prop := ∃ o' b, t.objAt r.home r.index = some o' ∧ o'.bar = some b ∧ b.init = r.party ∧
      b.parent = par ∧ b.held = 0 ∧ barField (o'.word 0) 63 1 = 1 ∧ barField (o'.word 0) 60 3 = r.scope.code ∧
      barField (o'.word 0) 57 3 = level ∧ barField (o'.word 0) 37 20 = e.toNat ∧ barField (o'.word 0) 17 20 = 0 ∧
      barField (o'.word 0) 0 17 = barField w 0 17
    ∃ t, exec .syncAccessPerform s = .next t ∧ coresKept s t ∧ t.reqs = without s r ∧
      (e.toNat = 0 ∨ 2 ^ 20 ≤ e.toNat → off t) ∧
      (0 < e.toNat → e.toNat < 2 ^ 20 →
        (handleIndex par = 0 → set t 0) ∧
        (handleIndex par ≠ 0 → s.objOf par = none → off t) ∧
        (∀ p, handleIndex par ≠ 0 → s.objOf par = some p → p.bar = none → off t) ∧
        (∀ p b, handleIndex par ≠ 0 → s.objOf par = some p → p.bar = some b →
          let x := p.word 0
          (barField x 63 1 = 0 ∨ barField x 57 3 = 5 ∨ barField x 60 3 < r.scope.code → off t) ∧
          (barField x 63 1 = 1 → barField x 57 3 < 5 → r.scope.code ≤ barField x 60 3 → inDom (scopeOf (barField x 60 3)) b.init r.party = true →
            set t (barField x 57 3 + 1))))) ∧
  (∀ (s : State) (r : Req) (o : Obj) (b : BarState) (x : Option Nat), Acts s r → homeUp s r → r.op = .barw x → s.objAt r.home r.index = some o →
    barUsable r o b →
    let now := barField (o.word 0) 0 17
    let target := ((b.phases.find? fun y => y.1 = r.party && y.2.1 = r.h).map fun y => y.2.2).getD now
    let d := (now + 2 ^ 17 - target) % 2 ^ 17
    (1 ≤ d → d ≤ 2 ^ 16 → ∃ t, exec .syncAccessPerform s = .next t ∧ coresKept s t ∧
      Answers s t r (BitVec.ofNat 64 ((target + 1) % 2 ^ 17)) none) ∧
    (¬ (1 ≤ d ∧ d ≤ 2 ^ 16) → ∃ t o', exec .syncAccessPerform s = .next t ∧ coresKept s t ∧ t.reqs = phased s r.id .waiting ∧
      t.objAt r.home r.index = some o' ∧ o'.bar = some { b with waits := b.waits ++ [(r.id, target)] } ∧
      t.agenda = s.agenda ++ [⟨s.cycle + (r.issued + s.timeout r.party - s.cycle), r.id, .barrierTimeout⟩])) ∧
  (∀ (s : State) (r : Req) (o : Obj), Acts s r → homeUp s r → r.op = .bread → s.objAt r.home r.index = some o → o.gen = r.gen →
    (o.ballot = none ∨ barField (o.word 0) 63 1 = 0 → o.word 0 < 2 ^ 64 → isCurrent s r.party → ∃ t, exec .syncAccessPerform s = .next t ∧
      t.reqs = failing s r.id .orphanWait ∧ t.objs = s.objs ∧ sameButLate s.core t.core) ∧
    ∀ b, o.ballot = some b → barField (o.word 0) 63 1 = 1 →
      (barField (o.word 0) 62 1 = 1 → ∃ t, exec .syncAccessPerform s = .next t ∧ coresKept s t ∧ t.objs = s.objs ∧
        Answers s t r (BitVec.ofNat 64 (o.word 0)) none) ∧
      (barField (o.word 0) 62 1 = 0 → ∃ t o', exec .syncAccessPerform s = .next t ∧ coresKept s t ∧ t.reqs = phased s r.id .waiting ∧
        t.objAt r.home r.index = some o' ∧ o'.ballot = some { b with waits := b.waits ++ [r.id] } ∧
        t.agenda = s.agenda ++ [⟨s.cycle + (r.issued + s.timeout r.party - s.cycle), r.id, .barrierTimeout⟩])) ∧
  (∀ (s : State) (r : Req) (start : Nat), Named s r → r.phase = .waiting →
    ((r.op = .bread ∧ start = r.issued) ∨ ∃ x o b, r.op = .barw x ∧ s.objAt r.home r.index = some o ∧ o.bar = some b ∧
      ((s.objOf b.parent = none ∧ start = max r.issued b.last) ∨ ∃ p c, s.objOf b.parent = some p ∧ p.bar = some c ∧
        s.objOf c.parent = none ∧ start = max r.issued (max b.last c.last))) →
    (start + s.timeout r.party ≤ s.cycle → isCurrent s r.party → ∃ t, exec .barrierTimeout s = .next t ∧
      t.reqs = failing s r.id .barrierTimeout ∧ sameButLate s.core t.core) ∧
    (s.cycle < start + s.timeout r.party → exec .barrierTimeout s = .next { s with
      agenda := s.agenda ++ [⟨start + s.timeout r.party, r.id, .barrierTimeout⟩] }))

/-- R290 to R296: a post of an unsettled ballot is counted, and the one that fills the quorum settles it; a sibling that ends is
noted; a sibling whose cancellation reaches it stops on each of its cores at the core's next bundle boundary, after any late fault
there (log 87), and is CANCELLED once it has left them all; its release list is applied, all of it in one step (log 39): each entry that
passes its checks lowers its element by one, and the others are counted in RLFAIL of the group. -/
def Obligations.Ballots : Prop :=
  (∀ plot, Completes .ballotPost ∧ Completes (.siblingEndMsg plot) ∧ Completes (.siblingCancel plot) ∧
    Completes (.releaseListApply plot)) ∧
  (∀ (s : State) (r : Req) (o : Obj) (b : BallotState) (p : Plot) (hash ts : Word), Acts s r → r.op = .bpost hash ts →
    s.objAt r.home r.index = some o → s.plotAt r.party.plot = some p → wordsHeld o → o.ballot = some b → b.group = p.parent →
    barField (o.word 0) 62 1 = 0 → (∀ x ∈ b.posts, x.sib ≠ p.sibix) →
    let n := postsOf b hash + 1
    (n ≠ barField (o.word 0) 17 7 → (∃ i, i < barField (o.word 0) 24 7 ∧ i ≠ p.sibix ∧ (∀ x ∈ b.posts, x.sib ≠ i) ∧ i ∉ b.ended) →
      ∃ t o', exec .ballotPost s = .next t ∧ coresKept s t ∧ t.reqs = without s r ∧ t.objAt r.home r.index = some o' ∧
        o'.ballot = some { b with posts := b.posts ++ [⟨p.sibix, hash, ts⟩] } ∧
        barField (o'.word 0) 47 7 = (b.posts.length + 1) % 128 ∧ barField (o'.word 0) 62 1 = 0) ∧
    (n = barField (o.word 0) 17 7 → o.valid = true → noMap s o →
      (∀ i c u k, o.maker = some i → (c ∈ s.cores ∨ ∃ v ∈ s.saved, v.core = c) → c.task = some u → u.inst = i → k ∈ s.plots →
        k.id = u.plot → k.parent ≠ b.group) → ∃ t o', exec .ballotPost s = .next t ∧ t.objAt r.home r.index = some o' ∧
      barField (o'.word 0) 62 1 = 1 ∧ barField (o'.word 0) 60 2 = 0 ∧ o'.word 1 = hash.toNat)) ∧
  (∀ (s : State) (p : Plot) (r : Req) (h n : Word), r ∈ s.reqs → r.party.plot = p.id → r.op = .bpost h n →
    ∃ t, exec (.siblingEndMsg p.id) s = .next t ∧ Again s t 0 (.siblingEndMsg p.id)) ∧
  (∀ (s : State) (p g : Plot) (o : Obj) (b : BallotState), s.plotAt p.id = some p → s.plotAt p.parent = some g →
    (∀ r ∈ s.reqs, r.party.plot = p.id → ∀ h n, r.op ≠ .bpost h n) →
    s.objAt (handleHome g.ballot) (handleIndex g.ballot) = some o → o.ballot = some b → b.group = g.id →
    (barField (o.word 0) 62 1 = 1 ∨
      ∃ i, i < barField (o.word 0) 24 7 ∧ i ≠ p.sibix ∧ (∀ x ∈ b.posts, x.sib ≠ i) ∧ i ∉ b.ended) →
    ∃ t o', exec (.siblingEndMsg p.id) s = .next t ∧ coresKept s t ∧ t.objAt o.home o.index = some o' ∧
      o'.ballot = some { b with ended := b.ended ++ [p.sibix] } ∧ o'.vers = o.vers) ∧
  (∀ (s : State) (p : Plot), plotsUnique s → s.plotAt p.id = some p → p.kind = kindTaskset →
    (p.state ≠ stActive → exec (.siblingCancel p.id) s = .next s) ∧
    (p.state = stActive → s.endings = [] → (∀ c ∈ s.cores, c.runs p.id = false) → (∀ v ∈ s.saved, v.core.runs p.id = false) →
      ∃ t q, exec (.siblingCancel p.id) s = .next t ∧ coresKept s t ∧ q ∈ t.plots ∧ q.id = p.id ∧ q.state = stCancelled ∧
        Asked s t (.releaseListApply p.id)) ∧
    (p.state = stActive → s.endings = [] → (∀ c, c ∈ s.cores ∨ (∃ v ∈ s.saved, v.core = c) → c.runs p.id = true → c.retireIss = false) →
      (∀ c ∈ s.cores, c.runs p.id = true → c.run = .running ∨ c.run = .retiring → c.atBoundary = true ∧ c.lateNow = false) →
      ∃ t q, exec (.siblingCancel p.id) s = .next t ∧ (∀ c ∈ t.cores, c.runs p.id = false) ∧ q ∈ t.plots ∧ q.id = p.id ∧
        q.state = stCancelled ∧ Asked s t (.releaseListApply p.id)) ∧
    (p.state = stActive → s.endings = [] → s.saved = [] → (∀ c ∈ s.behind ++ s.ahead, c.runs p.id = false) → s.core.runs p.id = true →
      s.core.retireIss = false → s.core.run = .running → s.core.atBoundary = false ∨ s.core.lateNow = true →
      ∃ t, exec (.siblingCancel p.id) s = .next t ∧ t.core = s.core ∧ t.endings = [⟨p.id, true, 0, [p.id], []⟩]) ∧
    (∀ c, c ∈ s.cores ∨ (∃ v ∈ s.saved, v.core = c) → c.runs p.id = true → c.retireIss = true →
      exec (.siblingCancel p.id) s = .next s)) ∧
  (∀ (s : State) (p : Plot), s.plotAt p.id = some p → s.reqs = [] → s.hostHeld = [] →
    (s.objOf p.rlist = none → exec (.releaseListApply p.id) s = .next s) ∧
    ∀ l b g sg sb w, s.objOf p.rlist = some l → l.live = true → l.tiled = false → l.rank = 2 → fmtKind l.fmt = .int sg 8 → l.dim 0 ≤ l.dim 1 →
      p.sibix < l.dim 0 → s.plotAt p.parent = some g →
      let k := l.readElem 0 [p.sibix, 0]
      let handle (j : Nat) : Word := BitVec.ofNat 64 (l.readElem 0 [p.sibix, 1 + 2 * j])
      let index (j : Nat) : Nat := l.readElem 0 [p.sibix, 2 + 2 * j]
      let fails (j : Nat) : Bool := (s.objOf (handle j)).isNone
      let lowered (o : Obj) (j : Nat) : Obj :=
        if fails j = true then o
        else o.writeElem 0 (coordsOf o.dims (index j)) ((o.readElem 0 (coordsOf o.dims (index j)) + 2 ^ (8 * w) - 1) % 2 ^ (8 * w))
      1 + 2 * k ≤ l.dim 1 → (∀ j, j < k → fails j = true ∨ (s.objOf (handle j) = some b ∧ index j < b.count)) →
      s.objAt b.home b.index = some b → (s.rightsOf b p.id).getLsbD 2 = true → p.party = none →
      syncShape b → fmtKind b.fmt = .int sb w → b.frz = [] → b.grains = [] → b.lines = [] → (∀ q ∈ b.pages, q.moving = false) →
      ∃ t b' q, exec (.releaseListApply p.id) s = .next t ∧ coresKept s t ∧ t.objAt b.home b.index = some b' ∧
        b'.vers = ((List.range k).foldl lowered b).vers ∧ q ∈ t.plots ∧ q.id = g.id ∧
        plotField q 1120 32 = (plotField g 1120 32 + ((List.range k).filter fails).length) % 2 ^ 32)

/-! ### Traps, tasks, memories (R105, R204, R277 to R320) -/

/-- R301 to R306, R314, R315: the first recorded late fault stops its core with the slot replay of its request; the policy holds the
task or ends its fault domain with the cause, unless the end of the task has reached it already (R301); an emulated bundle runs again, an
emulated MCALL after the routine has run to its end on the engine (the model's choice: log 6). The object manager's calls answer, and a
call without a reply lands TIMEOUT. -/
def Obligations.TrapsAndServices : Prop :=
  (∀ n, Completes (.lateFault n) ∧ Completes (.trapPolicy n) ∧ Completes (.emulationDone n) ∧ Completes .svcAllocx ∧
    Completes .svcSpill ∧ Completes .svcTimeout) ∧
  (∀ (s : State) (n id : Nat) (rest : List (Nat × Nat)), s.core.late = (n, id) :: rest → coresUnique s →
    (∀ r k, id ≠ 0 → s.reqs.find? (fun q => q.id = id) = some r → r.phase = .failed k → ∃ t, exec (.lateFault s.core.id) s = .next t ∧
      t.core = { s.core with
        late := rest, run := .trapped, cause := some k, targ := 0, out := .performed, fwait := none, spawnW := none
        spawnFull := false, tmplW := none, stopTs := s.ts
        replay := some ⟨r.bundle, ~~~ (perfBit r.slot), some id, [], [], []⟩ } ∧
      t.behind = s.behind ∧ t.ahead = s.ahead ∧ t.reqs = s.reqs ∧ t.objs = s.objs ∧ Later s t s.core.id (.trapPolicy s.core.id)) ∧
    (id = 0 → ∃ t, exec (.lateFault s.core.id) s = .next t ∧ t.core.run = .trapped ∧ t.core.cause = some .orphanWait ∧
      t.core.replay = none ∧ t.core.late = rest ∧ t.reqs = s.reqs)) ∧
  (∀ (s : State) (tk : Task) (k : Cause) (p : Plot), coresUnique s → plotsUnique s → s.core.run = .trapped → s.core.cause = some k →
    s.core.task = some tk → s.plotAt tk.plot = some p →
    ((∃ e ∈ s.endings, tk.plot ∈ e.ids) → exec (.trapPolicy s.core.id) s = .next s) ∧
    ((∀ e ∈ s.endings, tk.plot ∉ e.ids) → s.holds tk k = true → ∃ t, exec (.trapPolicy s.core.id) s = .next t ∧ t.core.run = .draining ∧ t.core.cause = some k ∧
      t.core.x = s.core.x ∧ t.core.pc = s.core.pc ∧ Asked s t (.snapshotSave s.core.id) ∧
      (∀ d ∈ s.behind ++ s.ahead, ∀ u, d.task = some u → u.inst = tk.inst → Asked s t (.preempt d.id)) ∧
      (s.journWait = [] → s.placeTaken = false → t.nextSeq = s.nextSeq + 1)) ∧
    ((∀ e ∈ s.endings, tk.plot ∉ e.ids) → s.holds tk k = false → ∃ t q, exec (.trapPolicy s.core.id) s = .next t ∧
      freedCore s.core t.core ∧ q ∈ t.plots ∧
      q.id = s.domainOf tk.plot ∧ q.state = stTerminated ∧ plotField q 1280 8 = causeCode k)) ∧
  (∀ s : State, s.core.run = .trapped → s.core.cause = some .formatEmulate → coresUnique s →
    (s.core.emulatedCall = none → exec (.emulationDone s.core.id) s = .next { s with core := { s.core with
      run := if s.core.retireIss then .retiring else .running, cause := none, targ := 0, lateKeep := s.core.late.length } }) ∧
    ∀ n, s.core.emulatedCall = some n → exec (.emulationDone s.core.id) s = .next { s with core := { s.core with
      run := .emulating, cause := none, eng := s.core.eng.give (.routine n s.core.mp) } }) ∧
  (∀ (s : State) (r : Req) (port : Nat) (msg : List Word) (ts : Word), Named s r → r.phase = .sent → r.op = .svc port msg ts →
    (∃ t, exec .svcTimeout s = .next t ∧ coresKept s t ∧ t.objs = s.objs ∧ Answers s t r (landWordOf 7 0) none) ∧
    (s.objOf (msg.getD 1 0) = none → ∃ t, exec .svcSpill s = .next t ∧ coresKept s t ∧ t.objs = s.objs ∧
      Answers s t r (landWordOf 4 0) none) ∧
    (∀ o, s.objOf (msg.getD 1 0) = some o → isCurrent s r.party → (∃ h, (s.core.rh h).opened = true ∧ (s.core.rh h).handle = msg.getD 1 0) →
      ∃ t, exec .svcSpill s = .next t ∧ coresKept s t ∧ t.reqs = phased s r.id (.answered ⟨landWordOf 0 0, none⟩) ∧
        ((∀ p ∈ o.pages, o.spillable p = false) → t.objs = s.objs)) ∧
    (port = 0 → (msg.getD 0 0).toNat % 2 ^ 16 = 1 → s.mustWait r = false →
      badForm (msg.getD 1 0).toNat (msg.getD 2 0).toNat (msg.getD 3 0).toNat (msg.getD 4 0).toNat false = true →
      ∃ t, exec .svcAllocx s = .next t ∧ coresKept s t ∧ t.objs = s.objs ∧ Answers s t r (landWordOf 6 0) none) ∧
    (s.mustWait r = true → ∃ t, exec .svcAllocx s = .next t ∧ Again s t r.id .svcAllocx) ∧
    (port = 0 → (msg.getD 0 0).toNat % 2 ^ 16 = 1 → s.mustWait r = false →
      badForm (msg.getD 1 0).toNat (msg.getD 2 0).toNat (msg.getD 3 0).toNat (msg.getD 4 0).toNat false = false →
      (∀ q ∈ s.ancestors (s.rootOf r.party.plot), q.hbmb = 0) → ∃ t, exec .svcAllocx s = .next t ∧ coresKept s t ∧
        ((∃ w o, Allocated s t (msg.getD 1 0) (msg.getD 2 0) (msg.getD 3 0) (msg.getD 4 0) w o ∧
            t.reqs = phased s r.id (.answered ⟨w, none⟩)) ∨
        (t.objs = s.objs ∧ t.reqs = phased s r.id (.answered ⟨landWordOf 2 0, none⟩)))))

/-- R70, R75, R126, R173, R277 to R283, R288: what the dispatcher's steps do. A selected candidate gets an admission; a granted core
counts, a refused admission backs off; a commit gives the task its index and RCORES; a task starts with its registers at their
start values but for what its directives give x, h and f, and drops the cached lines of the range that its S cedes (R352); a back-off
ends; a task without an issue is overdue; the oldest held SPAWNW is to land FULL. The second test of R277 at COMMIT and the wait for
victims (log 33), and the code captured at the start (log 37), are the model's choices; a core fenced after its grant is left to another
commit (R343). -/
def Obligations.Dispatching : Prop :=
  (∀ a b c d e, Completes (.dispatchSelect a) ∧ Completes (.reserve a b) ∧ Completes (.commit a b) ∧ Completes (.backoffExpiry a b) ∧
    Completes (.taskStart a b c d e) ∧ Completes (.taskOverdue a) ∧ Completes (.spawnwDeadlockBreak a)) ∧
  (∀ (s : State) (die : Nat), s.power ≠ .running → exec (.dispatchSelect die) s = .next s) ∧
  (∀ (s : State) (die : Nat) (d : Disp) (c : Cand) (p : Plot) (cs : List Nat), plotsUnique s → s.power = .running →
    s.disps = [d] → d.die = die → d.cands = [c] → d.adms = [] → s.plotAt c.plot = some p → c.until_ = none → s.mayStart p die = true →
    s.fits p = true → s.placement p die = some cs → s.ep p < 16 → gangSize p.gang ≤ p.deficit →
    ∃ t e a q, exec (.dispatchSelect die) s = .next t ∧ coresKept s t ∧ t.disps = [e] ∧ e.adms = [a] ∧ a.plot = p.id ∧ a.cores = cs ∧
      a.granted = 0 ∧ Later s t 0 (.reserve die a.id) ∧ q ∈ t.plots ∧ q.id = p.id ∧ q.deficit = p.deficit - gangSize p.gang) ∧
  (∀ (s : State) (die : Nat) (d : Disp) (a : Adm) (core : Nat), s.disps = [d] → d.die = die → d.adms = [a] →
    (∀ c, a.cores[a.granted]? = some core → a.waits = true → s.coreAt core = some c → c.run ≠ .idle → s.fenced.contains core = false →
      ∃ t, exec (.reserve die a.id) s = .next t ∧ Again s t 0 (.reserve die a.id)) ∧
    (a.cores[a.granted]? = some core → a.waits = false → s.refuses die a.id core = false → ∃ t, exec (.reserve die a.id) s = .next t ∧
      coresKept s t ∧ t.plots = s.plots ∧ t.disps = [{ d with adms := [{ a with granted := a.granted + 1 }] }] ∧
      Later s t 0 (if a.granted + 1 = a.cores.length then .commit die a.id else .reserve die a.id)) ∧
    (∀ c, a.cores[a.granted]? = some core → a.waits = false → s.refuses die a.id core = true → d.cands = [c] → c.plot = a.plot →
      let n := 64 * 2 ^ min (c.tries + 1) 10 + s.ts % 64
      ∃ t, exec (.reserve die a.id) s = .next t ∧ coresKept s t ∧
        t.disps = [{ d with adms := [], cands := [{ c with tries := c.tries + 1, until_ := some (s.cycle + n) }] }] ∧
        t.agenda = s.agenda ++ [⟨s.cycle + n, 0, .backoffExpiry die a.plot⟩]) ∧
    (∀ p, plotsUnique s → s.plotAt a.plot = some p → s.mayCommit p die a = false → ∃ t q, exec (.commit die a.id) s = .next t ∧
      coresKept s t ∧ t.nextInst = s.nextInst ∧ t.saved = s.saved ∧ (∃ e, t.disps = [e] ∧ e.adms = []) ∧ q ∈ t.plots ∧ q.id = p.id ∧
      q.deficit = (p.deficit + a.cost) % 2 ^ 32 ∧ q.rcores = p.rcores) ∧
    (∀ p i, plotsUnique s → s.plotAt a.plot = some p → p.state = stActive → a.resume = some i → (s.preempted p.id die).contains i = true →
      s.fitsWith p (fun _ => 0) = true → (∀ c ∈ a.cores, s.fenced.contains c = false) → ∃ t, exec (.commit die a.id) s = .next t ∧
      coresKept s t ∧ t.nextInst = s.nextInst ∧ (∃ e, t.disps = [e] ∧ e.adms = []) ∧
      ∀ v ∈ s.saved, ∀ u, v.core.task = some u → u.inst = i → ∀ c, a.cores[u.member]? = some c →
        ∃ n, ⟨n, 0, .taskResumption i c⟩ ∈ t.agenda) ∧
    (∀ c ∈ a.cores, s.fenced.contains c = true → ∀ p, s.plotAt a.plot = some p → s.mayCommit p die a = false) ∧
    (∀ p, plotsUnique s → s.plotAt a.plot = some p → p.state = stActive → a.resume = none → p.nextix < p.tasks →
      s.fitsWith p (fun _ => 0) = true → (∀ c ∈ a.cores, s.fenced.contains c = false) → p.rcores + gangSize p.gang < 2 ^ 16 → ∃ t q, exec (.commit die a.id) s = .next t ∧ coresKept s t ∧ t.nextInst = s.nextInst + 1 ∧
        (∃ e, t.disps = [e] ∧ e.adms = []) ∧ q ∈ t.plots ∧ q.id = p.id ∧ q.nextix = p.nextix + 1 ∧
        q.rcores = p.rcores + gangSize p.gang ∧
        ∀ k, k < a.cores.length → ∃ n, n < s.cycle + 64 ∧
          ⟨n, 0, .taskStart (a.cores.getD k 0) p.id p.nextix s.nextInst k⟩ ∈ t.agenda)) ∧
  (∀ (s : State) (die plot : Nat) (d : Disp) (c : Cand), s.disps = [d] → d.die = die → d.cands = [c] → c.plot = plot →
    ∃ t, exec (.backoffExpiry die plot) s = .next t ∧ coresKept s t ∧ t.disps = [{ d with cands := [{ c with until_ := none }] }] ∧
      Wants s t (.dispatchSelect die)) ∧
  (∀ (s : State) (p : Plot) (ix inst member : Nat), coresUnique s → s.plotAt p.id = some p → p.state = stActive → s.core.task = none →
    let code := s.codeOf p.code
    ∃ (t : State) (x : Vector Word 64) (h : Vector HReg 16) (f : Vector Furrow 32),
      exec (.taskStart s.core.id p.id ix inst member) s = .next t ∧ t.behind = s.behind ∧ t.ahead = s.ahead ∧ x.get 0 = 0 ∧
      (∀ k : Fin 32, f.get k = Furrow.none ∨ ((f.get k).decl = true ∧ (f.get k).filled = 0 ∧ (f.get k).free = (f.get k).count)) ∧
      (t.core = { Core.reset s.core.id with
        run := .running, stage := s.core.stage, pc := p.entry, scrlim := p.sgran * 16384, x := x, h := h, f := f
        task := some ⟨p.id, ix, inst, member, p.gang, p.seed, 0, 0, (0, 0, 0, 0)⟩
        frames := s.core.frames.filter fun l => decide (p.sgran * 16384 ≤ 128 * l.frame)
        code := memPut [] 0 code, codeLen := code.length, lastIss := s.cycle } ∨
      (t.core.run = .trapped ∧ t.core.cause = some .furrowConfig ∧ t.core.pc = p.entry ∧ t.core.x = x ∧ t.core.h = h ∧ t.core.f = f ∧
        ∃ k : Fin 32, (f.get k).decl = true))) ∧
  (∀ s : State, coresUnique s → exec (.taskOverdue s.core.id) s = .next { s with core := { s.core with overdue := true } }) ∧
  (∀ (s : State) (n : Nat), coresUnique s → s.core.run = .running → s.core.spawnW = some n → s.core.spawnFull = false →
    (∀ c ∈ s.behind ++ s.ahead, c.spawnW = none) →
    exec (.spawnwDeadlockBreak (s.core.id / 48)) s = .next { s with core := { s.core with spawnFull := true } }) ∧
  (∀ n : Nat,
    let c := Core.reset n
    (∀ r : Fin 64, c.rx r = 0) ∧ (∀ r : Fin 16, c.ra r = 0) ∧ (∀ r : Fin 16, c.rp r = decide (r = 0)) ∧ c.tags = [] ∧
    c.cyc = 0 ∧ c.bundles = 0 ∧ c.clkstop = 0 ∧ c.waits = 0 ∧ (∀ r : Fin 32, c.rv r = ⟨0, ⟨fmtRaw, 0, false⟩⟩) ∧ (∀ r : Fin 8, c.rm r = 0) ∧
    (∀ r : Fin 8, c.rmp r = 0) ∧ (∀ q : Fin 16, c.rq q = .empty) ∧ (∀ h : Fin 16, (c.rh h).opened = false) ∧ c.loops = [] ∧ c.calls = [] ∧
    c.eng.work = ⟨.f32, [], [], 0⟩ ∧ c.eng.vis = ⟨.f32, [], [], 0⟩ ∧ c.eng.b0 = ⟨[], false⟩ ∧ c.eng.b1 = ⟨[], false⟩ ∧ c.eng.done = true ∧
    c.eng.fault = false ∧ c.eng.fcode = 0 ∧ c.eng.active = none)

/-- R105, R212, R301, R304, R308 to R311: a core that is asked to stop does so at its boundary and drains, gives way to a late fault,
and waits while a trap is delivered or emulated by a routine; its snapshot takes its time, the member is saved and its core is
free; a saved member resumes with its state, as the row holds it where there is one; the end of RETIRE's wait frees the core, and
the last member's counts the task and gives back its cores; an engine that waits on a furrow without a live producer takes
ORPHAN_WAIT late. The choices behind the row's image, what a stop in an emulation does, the late faults of the drain and of a held gang,
and what a pre-emption gives way to, are the model's: logs 18, 48, 101, 102 and 114. -/
def Obligations.SavingAndRetiring : Prop :=
  (∀ a n, Completes (.preempt n) ∧ Completes (.snapshotSave n) ∧ Completes (.taskResumption a n) ∧ Completes (.retireComplete n) ∧
    Completes (.orphanCheck n)) ∧
  (∀ (s : State) (n : Nat), (∀ c, s.coreAt n = some c → c.run ≠ .running ∧ c.run ≠ .retiring ∧ c.run ≠ .trapped ∧ c.run ≠ .emulating) →
    exec (.preempt n) s = .next s) ∧
  (∀ (s : State) (n : Nat) (c : Core), s.coreAt n = some c →
    (c.run = .running ∨ c.run = .retiring →
      let waits := if s.gangHeld c = true then c.atBoundary = false else c.late ≠ []
      (¬ waits → ∃ t d, exec (.preempt n) s = .next t ∧ Asked s t (.snapshotSave n) ∧ t.coreAt n = some d ∧ { d with task := c.task } =
        { c with run := .draining, spawnFull := false, tmplW := none, lateKeep := c.late.length, stopTs := s.ts } ∧ t.reqs = s.reqs ∧ t.objs = s.objs) ∧
      (waits → ∃ t, exec (.preempt n) s = .next t ∧ Again s t 0 (.preempt n))) ∧
    (c.run = .emulating ∨ (c.run = .trapped ∧ c.cause ≠ some .formatEmulate) →
      ∃ t, exec (.preempt n) s = .next t ∧ Again s t 0 (.preempt n)) ∧
    (c.run = .trapped → c.cause = some .formatEmulate → ∃ t d, exec (.preempt n) s = .next t ∧ Asked s t (.snapshotSave n) ∧
      t.coreAt n = some d ∧ d.run = .draining ∧ d.cause = none ∧ d.stopTs = s.ts ∧
      (c.emulatedCall = none → d.inflight = c.inflight ++ c.emulated) ∧
      (∀ k r, c.emulatedCall = some k → c.replay = some r → d.inflight = c.inflight ∧
        d.replay = some { r with perf := r.perf &&& ~~~ (perfBit .m), emul := r.emul.dropLast }) ∧
      d.x = c.x ∧ d.pc = c.pc ∧ d.late = c.late ∧ t.reqs = s.reqs ∧ t.objs = s.objs)) ∧
  (∀ (s : State) (tk : Task), coresUnique s → solo s tk →
    (s.core.run = .draining → s.reqs = [] → exec (.snapshotSave s.core.id) s = .next { s with
      core := { s.core with run := .saving }
      agenda := s.agenda ++ [⟨s.cycle + max 1 ((s.core.snapSize + 511) / 512), 0, .snapshotSave s.core.id⟩] }) ∧
    (∀ m id rest r k, s.core.run = .draining → s.drained s.core = true → s.core.replay = none →
      s.core.late.drop s.core.lateKeep = (m, id) :: rest → s.reqs.find? (fun q => q.id = id) = some r → r.phase = .failed k → ∃ t, exec (.snapshotSave s.core.id) s = .next t ∧
        t.core = { s.core with
          run := .saving, late := s.core.late.take s.core.lateKeep ++ rest
          replay := some ⟨r.bundle, ~~~ (perfBit r.slot), some r.id, [], [], []⟩ } ∧
        t.reqs = s.reqs ∧ t.objs = s.objs) ∧
    (s.core.run = .draining → s.drained s.core = false → ∃ t, exec (.snapshotSave s.core.id) s = .next t ∧
      Again s t 0 (.snapshotSave s.core.id)) ∧
    (∀ p, s.core.run = .saving → s.plotAt tk.plot = some p → ∃ t v, exec (.snapshotSave s.core.id) s = .next t ∧
      t.core = freed s.core ∧ t.saved = s.saved ++ [v] ∧ v.core = { s.core with frames := [] } ∧ v.cause = s.core.cause ∧
      v.held = s.core.cause.isSome ∧ v.die = s.core.id / 48)) ∧
  (∀ (s : State) (v : Saved) (tk : Task), coresUnique s → s.saved = [v] → v.core.task = some tk →
    let back (c : Core) : Core := { c with
      id := s.core.id, stage := s.core.stage, lastIss := s.cycle, overdue := false, cause := none, targ := 0
      frames := s.core.frames.filter fun l => decide (c.scrlim ≤ 128 * l.frame)
      lateKeep := c.late.length, run := if c.retireIss then .retiring else .running }
    (v.slot = none ∨ s.saveArea v.core = none → v.core.pushMap = [] → ∃ t, exec (.taskResumption tk.inst s.core.id) s = .next t ∧
      t.saved = [] ∧ t.core = back v.core) ∧
    ∀ k o, v.slot = some k → s.saveArea v.core = some o →
      (badImage (o.rowRead k) = false → v.core.pushMap = [] → ∃ t, exec (.taskResumption tk.inst s.core.id) s = .next t ∧ t.saved = [] ∧
        t.core = back (v.core.ofImage v.wrote (o.rowRead k))) ∧
      (∀ p, badImage (o.rowRead k) = true → plotsUnique s → s.plotAt tk.plot = some p →
        ∃ t q, exec (.taskResumption tk.inst s.core.id) s = .next t ∧ q ∈ t.plots ∧ q.id = s.domainOf tk.plot ∧
          q.state = stTerminated ∧ plotField q 1280 8 = causeCode .illegal)) ∧
  (∀ (s : State) (n : Nat), (∀ c, s.coreAt n = some c → s.retireReady c = false) → exec (.retireComplete n) s = .next s) ∧
  (∀ (s : State) (n : Nat) (c : Core) (tk : Task) (p : Plot), coresUnique s → plotsUnique s → s.coreAt n = some c → c.task = some tk →
    s.retireReady c = true → s.plotAt tk.plot = some p → p.kind = kindTaskset →
    ∃ t d q, exec (.retireComplete n) s = .next t ∧ t.coreAt n = some d ∧ freedCore c d ∧ q ∈ t.plots ∧ q.id = p.id ∧
      (lastMember s n tk.inst → p.donen < p.tasks → gangSize tk.shape ≤ p.rcores → q.donen = p.donen + 1 ∧
        q.rcores = p.rcores - gangSize tk.shape ∧
        q.state = (if p.donen + 1 = p.tasks ∧ p.state = stActive then stDone else p.state)) ∧
      (¬ lastMember s n tk.inst → (∀ e ∈ s.cores, ∀ u, e.task = some u → u.inst = tk.inst → u.member = tk.member → e.id = n) →
        (∀ v ∈ s.saved, ∀ u, v.core.task = some u → u.inst = tk.inst → u.member ≠ tk.member) →
        q.donen = p.donen ∧ q.rcores = p.rcores ∧ q.state = p.state)) ∧
  (∀ (s : State) (n : Nat),
    (∀ c f, s.coreAt n = some c → c.engineWait = some f → s.prodLive c (c.rf f) false = false → (∀ e ∈ c.late, e.2 ≠ 0) →
      exec (.orphanCheck n) s = .next (s.modCoreAt n fun c => { c with
        late := c.late.filter (fun e => decide (e.1 < s.cycle)) ++ [(s.cycle, 0)] ++ c.late.filter fun e => !decide (e.1 < s.cycle) })) ∧
    ((∀ c, s.coreAt n = some c → (c.engineWait = none ∨ (∃ f, c.engineWait = some f ∧ s.prodLive c (c.rf f) false = true) ∨
      ∃ e ∈ c.late, e.2 = 0)) → exec (.orphanCheck n) s = .next s))

/-- R204, R317, R318, R320, R353: an ABSENT page comes back or its lines are lost; an eviction starts a move to LPDDR, where a page
that only pins of RETAINED versions hold is ABSENT with its copy until it is resolved in place; a promotion starts one to HBM, and a move that is complete changes the tier; a page whose lines were lost moves
as such. A row's activations count to the threshold, whose alert blocks the bank for an RFM, which refreshes the rows beside it;
an ACT to a blocked bank waits and is served after the RFM; a new window clears the counters. Which copy is kept or given up (log 77),
and the tenant for which an eviction makes room (log 84), are the model's choices. -/
def Obligations.MemoryTiers : Prop :=
  (∀ r w a b, Completes (.objMissingResolve r) ∧ Completes (.pagePromotion r) ∧ Completes (.pageMoveComplete r) ∧
    Completes (.pageEviction a) ∧ Completes (.rowActivation w) ∧ Completes (.rfmComplete a b)) ∧
  (∀ (s : State) (r : PageRef) (o : Obj) (p : Page), s.objAt r.home r.index = some o → o.pages = [p] → p.ver = r.ver → p.num = r.page →
    (p.res ≠ .absent → exec (.objMissingResolve r) s = .next s) ∧
    (∀ d, p.res = .absent → p.copy = false → s.place p.die = some (.hbm, d) → ∃ t o' q, exec (.objMissingResolve r) s = .next t ∧ coresKept s t ∧
      t.objAt r.home r.index = some o' ∧ o'.pages = [q] ∧ q.die = d ∧ q.charge = p.charge ∧ o'.vers = o.vers ∧
      (p.source = true → q.res = .hbm) ∧
      ((q.res = .hbm ∧ q.lost = p.lost) ∨ (q.res = .poison ∧ q.lost = (List.range 512).map fun k => 512 * p.num + k))) ∧
    (p.res = .absent → p.copy = false → s.place p.die = none → s.allHeld (s.rootOf p.charge) = false →
      ∃ t, exec (.objMissingResolve r) s = .next t ∧ coresKept s t ∧ t.objs = s.objs ∧ Later s t 0 (.objMissingResolve r)) ∧
    (∀ q, p.res = .absent → p.copy = false → s.place p.die = none → s.allHeld (s.rootOf p.charge) = true → s.waitFor r = [q] →
      isCurrent s q.party → ∃ t, exec (.objMissingResolve r) s = .next t ∧ t.objs = s.objs ∧ t.reqs = failing s q.id .objMissing ∧
        (s.cycle, q.id) ∈ t.core.late ∧ (s.core.tmplW = some (r, false) → t.core.tmplW = some (r, true))) ∧
    (p.tier = .lpddr → p.moving = false → 0 < s.freeHbm p.die → ∃ t o', exec (.pagePromotion r) s = .next t ∧ coresKept s t ∧
      t.objAt r.home r.index = some o' ∧ o'.pages = [{ p with moving := true }] ∧ t.hbmUsed = bump p.die 1 s.hbmUsed ∧
      Later s t 0 (.pageMoveComplete r)) ∧
    (p.tier ≠ .lpddr → p.res ≠ .peer → exec (.pagePromotion r) s = .next s) ∧
    (p.moving = false → exec (.pageMoveComplete r) s = .next s) ∧
    (p.moving = true → p.res = .poison → ∃ t o', exec (.pageMoveComplete r) s = .next t ∧ coresKept s t ∧
      t.objAt r.home r.index = some o' ∧ o'.pages = [{ p with moving := false, low := !p.low }] ∧ o'.vers = o.vers ∧
      t.lpddrUsed = if p.low = true then s.lpddrUsed - 1 else s.lpddrUsed) ∧
    (p.moving = true → p.res = .lpddr → ∃ t o', exec (.pageMoveComplete r) s = .next t ∧ coresKept s t ∧
      t.objAt r.home r.index = some o' ∧ o'.pages = [{ p with moving := false, res := .hbm }] ∧ t.lpddrUsed = s.lpddrUsed - 1) ∧
    (p.moving = true → p.res = .hbm → ∃ t o', exec (.pageMoveComplete r) s = .next t ∧ coresKept s t ∧
      t.objAt r.home r.index = some o' ∧ o'.pages = [{ p with moving := false, res := if p.copy then .absent else .lpddr }] ∧ o'.vers = o.vers) ∧
    (p.res = .absent → p.copy = true → ∃ t o', exec (.objMissingResolve r) s = .next t ∧ coresKept s t ∧ t.objAt r.home r.index = some o' ∧
      o'.pages = [{ p with res := .lpddr, copy := false, stamp := s.stamp }] ∧ o'.vers = o.vers ∧ t.lpddrUsed = s.lpddrUsed)) ∧
  (∀ (s : State) (die : Nat), 2048 ≤ s.freeHbm die + s.leaving die → exec (.pageEviction die) s = .next s) ∧
  (∀ (s : State) (o : Obj) (p : Page), s.objs = [o] → o.pages = [p] → s.freeHbm p.die < 2048 → p.tier = .hbm → p.moving = false →
    s.guarded p = false ∨ s.rootOf p.charge = s.roomFor → o.stuck p = false → s.lpddrUsed < Config.lpddrPages → ∃ t o', exec (.pageEviction p.die) s = .next t ∧
      coresKept s t ∧ t.objs = [o'] ∧ o'.pages = [{ p with moving := true, copy := decide (o.evictClass p = some 2) }] ∧ t.lpddrUsed = s.lpddrUsed + 1 ∧
      (∃ n, s.cycle < n ∧ ⟨n, 0, .pageMoveComplete ⟨o.home, o.index, p.ver, p.num⟩⟩ ∈ t.agenda) ∧
      ∃ n, s.cycle < n ∧ ⟨n, 0, .pageEviction p.die⟩ ∈ t.agenda) ∧
  (∀ (s : State) (r : RowRef) (b : BankRows), s.window = s.ts / 32000000 → s.rows = [b] → b.ctrl = r.ctrl → b.bank = r.bank →
    let beside (l : List Nat) (n : Nat) : Prop := ∀ k, k ∈ l ↔ (k ≠ n ∧ k < Config.bankRows b.ctrl ∧ k ≤ n + 2 ∧ n ≤ k + 2)
    (b.alerts = [] → b.counts = [(r.row, countOf r.row b.counts)] →
      (countOf r.row b.counts + 1 < Config.rowThreshold → exec (.rowActivation r) s = .next { s with
        rows := [{ b with counts := [(r.row, countOf r.row b.counts + 1)] }] }) ∧
      (Config.rowThreshold ≤ countOf r.row b.counts + 1 → ∃ t l, exec (.rowActivation r) s = .next t ∧ coresKept s t ∧
        t.rows = [{ b with counts := [], alerts := [r.row], alerted := b.alerted + 1, blocked := s.ts + rfmTime b.ctrl
                           rfms := b.rfms + 1, refreshed := l }] ∧ beside l r.row ∧ Asked s t (.rfmComplete r.ctrl r.bank))) ∧
    (b.alerts ≠ [] → exec (.rowActivation r) s = .next { s with rows := [{ b with waiting := b.waiting ++ [r.row] }] }) ∧
    (b.alerts.length ≤ 1 → b.waiting = [] →
      exec (.rfmComplete r.ctrl r.bank) s = .next { s with rows := [{ b with alerts := [], blocked := 0 }] }) ∧
    (b.alerts.length ≤ 1 → b.waiting = [r.row] → b.counts = [(r.row, countOf r.row b.counts)] →
      countOf r.row b.counts + 1 < Config.rowThreshold → exec (.rfmComplete r.ctrl r.bank) s = .next { s with
        rows := [{ b with alerts := [], blocked := 0, waiting := [], counts := [(r.row, countOf r.row b.counts + 1)] }] }) ∧
    ∀ x y, b.alerts = [x, y] → ∃ t l, exec (.rfmComplete r.ctrl r.bank) s = .next t ∧ coresKept s t ∧
      t.rows = [{ b with alerts := [y], blocked := s.ts + rfmTime b.ctrl, rfms := b.rfms + 1, refreshed := l }] ∧ beside l y ∧
      Asked s t (.rfmComplete r.ctrl r.bank)) ∧
  (∀ s : State, ∃ t, exec .activationWindowReset s = .next t ∧ t = { s with window := t.window, rows := t.rows } ∧
    t.window = s.ts / 32000000 ∧ ∀ b ∈ t.rows, b.counts = [])

/-! ### The host port, the links and management (R326 to R349) -/

/-- R332, R335: doorbells set a ring's index, the enabling check starts a pair or says why not, disabling stops acceptance, and the
oldest completion is written with its phase bit unless the ring is full; the end of a queue core's pass sends the vector of a pair
for which it has written, once. The model's choices here: a ring of n entries is full with n - 1, and which fields of a pair that drains
may be written (log 54). -/
def Obligations.QueuePairs : Prop :=
  (∀ (s : State) (n : Nat) (q : QPair) (v : BitVec 32), s.pairs = [q] → q.n = n → n < 1024 → pairField q 296 8 = 1 →
    exec (.sqTailDoorbell n v) s = .next { s with pairs := [{ q with sqTail := v.toNat % 2 ^ pairField q 224 8 }] } ∧
    exec (.registerWrite (0x1000 + 16 * n) v) s = exec (.sqTailDoorbell n v) s ∧
    exec (.registerWrite (0x1004 + 16 * n) v) s = exec (.cqHeadDoorbell n v) s ∧
    exec (.registerWrite (0x1008 + 16 * n) v) s = exec (.mqHeadDoorbell n v) s ∧
    exec (.mqHeadDoorbell n v) s = .next { s with pairs := [{ q with mqHead := v.toNat % 2 ^ pairField q 240 8 }] } ∧
    (∃ t, exec (.cqHeadDoorbell n v) s = .next t ∧ coresKept s t ∧ t.pairs = [{ q with cqHead := v.toNat % 2 ^ pairField q 232 8 }] ∧
      (q.pend ≠ [] → ∃ k, s.cycle < k ∧ ⟨k, 0, .completionWrite n⟩ ∈ t.agenda)) ∧
    ∃ p, exec (.qpDisable n) s = .next { s with pairs := [p] } ∧ pairField p 288 1 = 0 ∧ p.sqHead = q.sqHead ∧ p.pend = q.pend ∧
      pairField p 296 8 = (if q.pend = [] ∧ q.active = [] then 0 else 1)) ∧
  (∀ (s : State) (n : Nat) (q : QPair), s.pairs = [q] → q.n = n → n < 1024 → pairField q 296 8 ≠ 1 →
    let bad := q.badFields
    let root := pairField q 192 32
    let refused := if root = 0 then s.adminOk = false else ∀ r, s.plotAt root = some r → r.kind ≠ kindRoot
    (pairField q 288 1 = 0 → exec (.qpEnable n) s = .next s) ∧
    (∀ v : BitVec 32, pairField q 288 1 = 0 → v.getLsbD 0 = true → ∃ t p, exec (.registerWrite (0x8024 + 64 * n) v) s = .next t ∧
      coresKept s t ∧ t.pairs = [p] ∧ pairField p 288 1 = 1 ∧ Later s t 0 (.qpEnable n)) ∧
    (pairField q 288 1 = 1 → ∃ p, exec (.qpEnable n) s = .next { s with pairs := [p] } ∧
      (bad = true → pairField p 296 8 = 2 ∧ pairField p 288 1 = 0) ∧
      (bad = false → refused → pairField p 296 8 = 3 ∧ pairField p 288 1 = 0) ∧
      (bad = false → ¬ refused → pairField p 296 8 = 1 ∧ pairField p 288 1 = 1 ∧ p.sqHead = 0 ∧ p.sqTail = 0 ∧
        p.cqHead = 0 ∧ p.cqTail = 0 ∧ p.cqPhase = true ∧ p.pend = [] ∧ p.active = []))) ∧
  (∀ (s : State) (n k : Nat) (q : QPair) (v : BitVec 32), s.pairs = [q] → q.n = n → n < 1024 → k < 7 → pairField q 288 1 = 0 →
    ∃ p, exec (.registerWrite (0x8000 + 64 * n + 4 * k) v) s = .next { s with pairs := [p] } ∧
      pairField p (32 * k) 32 = v.toNat ∧ ∀ j, j < 16 → j ≠ k → pairField p (32 * j) 32 = pairField q (32 * j) 32) ∧
  (∀ (s : State) (q : QPair) (c : BitVec 128) (rest : List (BitVec 128)), s.pairs = [q] → q.pend = c :: rest → Memory.wf s.hostMem →
    let n := 2 ^ pairField q 232 8
    let a := pairField q 64 64 + 16 * q.cqTail
    ((q.cqTail + 1) % n = q.cqHead → exec (.completionWrite q.n) s = .next s) ∧
    ((q.cqTail + 1) % n ≠ q.cqHead → ∃ t p, exec (.completionWrite q.n) s = .next t ∧ coresKept s t ∧ t.pairs = [p] ∧ p.pend = rest ∧
      p.cqTail = (q.cqTail + 1) % n ∧ p.cqPhase = (if (q.cqTail + 1) % n = 0 then !q.cqPhase else q.cqPhase) ∧
      memRead t.hostMem a 16 = (c.toNat + if q.cqPhase then 2 ^ 40 else 0) % 2 ^ 128 ∧
      (∀ b, b < a ∨ a + 16 ≤ b → memGet t.hostMem b = memGet s.hostMem b) ∧
      t.irqs = s.irqs ∧ p.wrote = true)) ∧
  (∀ (s : State) (q : QPair), s.pairs = [q] → s.endPass (q.n % 64) = { s with
    pairs := [{ q with wrote := false }]
    irqs := s.irqs ++ if q.wrote = true ∧ pairField q 289 1 = 1 then [pairField q 256 10] else [] })

/-- R335, R336: a read of BAR0 gives the mailbox, the registers that the device holds, and 0 where nothing is listed; an unmapped
window answers as unsupported and discards writes, a mapped LIVE object is read and written, lost lines read as all ones and
poisoned, and a write stays behind what is held at its pages. R328, R329: the owner's access to a granule is performed, any other is
held and starts the transfer, once the owner has had it for 2,000 ns; while it runs every access is held; when it ends the owner has
changed, and the bytes that the host held dirty are at the home. The model's choices here: a read of BAR0 is one step (log 110), the
attestation report stands from offset 0x20000 (log 127), and what the host stores under its ownership stays dirty until the transfer
(log 88). -/
def Obligations.AperturesAndGranules : Prop :=
  (∀ (s : State) (off n : Nat), ∃ x, exec (.hostBar2Read (.bar0 off) n) s = .next { s with answers := s.answers ++ [x] } ∧
    x.bytes.length = n ∧ x.poisoned = false ∧ x.unsupported = false ∧ ∀ k, k < n →
      (off + k < 8 → x.bytes.getD k 0 = byteAt s.mailbox.toNat (off + k)) ∧
      (0x8000 ≤ off + k → off + k < 0x18000 →
        x.bytes.getD k 0 = byteAt (s.pair ((off + k - 0x8000) / 64)).regs.toNat ((off + k) % 64)) ∧
      (0x60 ≤ off + k ∧ off + k < 0x1000 ∨ 0x5000 ≤ off + k ∧ off + k < 0x8000 → x.bytes.getD k 0 = 0) ∧
      (0x20000 ≤ off + k → x.bytes.getD k 0 = (s.reports.getLastD []).getD (off + k - 0x20000) 0)) ∧
  (∀ (s : State) (off n : Nat) (data : List Byte), s.aperture (off / 4194304) = none →
    exec (.hostBar2Read (.bar2 off) n) s = .next { s with answers := s.answers ++ [⟨[], false, true⟩] } ∧
    ∃ t, exec (.hostBar2Write off data) s = .next t ∧ coresKept s t ∧ t.objs = s.objs ∧ Journals s t) ∧
  (∀ (s : State) (off n : Nat) (data : List Byte) (a : Aperture) (o : Obj), s.aperture (off / 4194304) = some a → s.objOf a.handle = some o →
    o.live = true → reachable o → a.ver = 0 → a.start + off % 4194304 + n ≤ o.size →
    let first := a.start + off % 4194304
    let ns := pagesOf ((List.range n).map (first + ·))
    (∃ t x, exec (.hostBar2Read (.bar2 off) n) s = .next t ∧ coresKept s t ∧ t.answers = s.answers ++ [x] ∧ x.unsupported = false ∧
      x.poisoned = (List.range n).any (fun k => o.poisoned 0 (first + k)) ∧ x.bytes.length = n ∧
      ∀ k, k < n → x.bytes.getD k 0 = if o.poisoned 0 (first + k) then 0xFF
        else if o.padding (first + k) then 0 else o.byteOf 0 (first + k)) ∧
    (a.write = true → data.length = n → 0 < n → o.grains = [] → o.frz = [] →
      (s.hostMustHold (barKey off) o 0 ns = false → ∃ t o', exec (.hostBar2Write off data) s = .next t ∧ coresKept s t ∧
        t.objAt o.home o.index = some o' ∧ o'.vers = (o.hostBytes 0 first data).vers ∧ o'.entry = o.entry ∧ t.nextSeq = s.nextSeq) ∧
      (s.hostMustHold (barKey off) o 0 ns = true → ∃ t, exec (.hostBar2Write off data) s = .next t ∧ coresKept s t ∧ t.objs = s.objs ∧
        t.agenda = s.agenda ++ [⟨s.cycle + 1, 0, .hostBar2Write off data⟩])) ∧
    (a.write = false → ∃ t, exec (.hostBar2Write off data) s = .next t ∧ coresKept s t ∧ t.objs = s.objs ∧ Journals s t)) ∧
  (∀ (s : State) (g : GranuleRef) (a : GranuleAccess), s.cxl = false → exec (.granuleTransfer g a) s = .next s) ∧
  (∀ (s : State) (g : GranuleRef) (x : Granule) (o : Obj), s.cxl = true → s.granules = [x] → x.at_ = g →
    s.objAt g.home g.index = some o → o.valid = true → o.hostsh = true →
    let begin_ : Granule := { x with moving := true }
    (∀ a : GranuleAccess, GranuleAccess.host a = true ∨ a ∉ x.queue →
      let queued : Granule := { x with queue := x.queue ++ [a] }
      (x.moving = true → exec (.granuleTransfer g a) s = .next { s with granules := [queued] }) ∧
      (x.moving = false → GranuleAccess.host a = x.accel → x.since = 0 ∨ x.since + 2000 ≤ s.ts → ∃ t, exec (.granuleTransfer g a) s = .next t ∧
        t.granules = [{ queued with moving := true }] ∧ Later s t 0 (.granuleTransferDone g) ∧ sameButFrames s.core t.core) ∧
      (x.moving = false → GranuleAccess.host a = x.accel → x.since ≠ 0 → s.ts < x.since + 2000 → ∃ t, exec (.granuleTransfer g a) s = .next t ∧
        coresKept s t ∧ t.granules = [queued] ∧ Asked s t (.granuleTenureExpiry g))) ∧
    (x.moving = false → x.accel = false → ∀ off n, ∃ t w, exec (.granuleTransfer g (.load off n)) s = .next t ∧ coresKept s t ∧
      t.granules = s.granules ∧ t.answers = s.answers ++ [w] ∧ w.bytes.length = n ∧ w.unsupported = false ∧
      ∀ k, k < n → w.bytes.getD k 0 = hostByteOf x o (2097152 * g.granule + off + k)) ∧
    (x.moving = false → x.accel = false → ∀ off data, ∃ m, exec (.granuleTransfer g (.store off data)) s =
      .next { s with granules := [{ x with dirty := m }] } ∧
      let a := 2097152 * g.granule + off
      ∀ b, (m.find? fun c => c.1 = b) = if a ≤ b ∧ b < a + data.length then some (b, data.getD (b - a) 0)
        else x.dirty.find? fun c => c.1 = b) ∧
    (∀ a : GranuleAccess, GranuleAccess.host a = false → x.moving = false → x.accel = true → a ∉ x.queue →
      exec (.granuleTransfer g a) s = .next s) ∧
    (x.moving = false → exec (.granuleTransferDone g) s = .next s) ∧
    (x.moving = true → x.accel = false → x.dirty ≠ [] → (∀ p ∈ o.pages, p.res ≠ .absent) →
      s.hostMustHold (GranuleRef.key g) o 0 (pagesOf (x.dirty.map (·.1))) = true → ∃ t, exec (.granuleTransferDone g) s = .next t ∧
      coresKept s t ∧ t.objs = s.objs ∧ t.granules = s.granules ∧ t.agenda = s.agenda ++ [⟨s.cycle + 1, 0, .granuleTransferDone g⟩]) ∧
    (x.moving = true → x.queue = [] → (x.accel = true ∨ x.dirty = [] ∨ (∀ p ∈ o.pages, p.res ≠ .absent) ∧
      s.hostMustHold (GranuleRef.key g) o 0 (pagesOf (x.dirty.map (·.1))) = false) →
      ∃ t o', exec (.granuleTransferDone g) s = .next t ∧ coresKept s t ∧
      t.granules = [{ x with accel := !x.accel, since := s.ts, moving := false, dirty := [] }] ∧ t.objAt g.home g.index = some o' ∧
      o'.entry = o.entry ∧ o'.vers = (if x.accel = true then o else o.hostPairs 0 x.dirty).vers) ∧
    (∀ off n, x.moving = true → x.accel = true → x.queue = [.load off n] → ∃ t w, exec (.granuleTransferDone g) s = .next t ∧ coresKept s t ∧
      t.granules = [{ x with accel := false, since := s.ts, moving := false, dirty := [], queue := [] }] ∧ t.answers = s.answers ++ [w] ∧
      w.bytes.length = n) ∧
    (x.moving = true ∨ x.queue = [] → exec (.granuleTenureExpiry g) s = .next s) ∧
    (∀ a rest, x.moving = false → x.queue = a :: rest → GranuleAccess.host a = x.accel →
      (x.since = 0 ∨ x.since + 2000 ≤ s.ts → ∃ t, exec (.granuleTenureExpiry g) s = .next t ∧ t.granules = [begin_] ∧
        Later s t 0 (.granuleTransferDone g)) ∧
      (x.since ≠ 0 → s.ts < x.since + 2000 → ∃ t, exec (.granuleTenureExpiry g) s = .next t ∧ t.granules = [x] ∧
        Asked s t (.granuleTenureExpiry g))))

/-- R272 to R275, R304, R305, R315, R316, R333, R334: the commands on plots and held tasks, from an administrative pair: each acts and
ends with OK and its result; a bad descriptor is INVALID. The model's choices here: what a refused command leaves in its record (log 53),
and which bytes the pool of MINHBM_SET has (log 79). -/
def Obligations.PlotCommands : Prop :=
  (∀ s : State, byAdmin s s.cmd → s.plots.length < 2 ^ 31 →
    let d := BitVec.ofNat 2048 (memRead s.hostMem s.cmd.w0.toNat 256)
    plainArgs s.cmd 0 64 0 0 0 0 → s.cmd.w0.toNat % 64 = 0 → s.cmd.plot = 0 → s.plotAt 0 = none →
    (badDesc d none false = true → ∃ t, exec .plotCreate s = .next t ∧ coresKept s t ∧ t.plots = s.plots ∧ Ended s t s.cmd 6 0) ∧
    (badDesc d none false = false → ∃ t id q, exec .plotCreate s = .next t ∧ coresKept s t ∧ freshId s id ∧ Ended s t s.cmd 0 id ∧
      q ∈ t.plots ∧ q.id = id ∧ q.kind = kindRoot ∧ q.level = 0 ∧ q.domain = true ∧ q.weight = field d 16 16 ∧ q.state = stActive)) ∧
  (∀ (s : State) (p : Plot), byAdmin s s.cmd → plotsUnique s → s.plotAt s.cmd.plot.toNat = some p → p.kind = kindRoot →
    (plainArgs s.cmd 0 0 0 0 0 0 → p.state = stActive → (∀ k ∈ s.children p.id, 2 ≤ k.state) → ∃ t q, exec .plotClose s = .next t ∧
      Ended s t s.cmd 0 0 ∧ q ∈ t.plots ∧ q.id = p.id ∧ q.state = stDone ∧ q.closed = true) ∧
    (plainArgs s.cmd 0 0 0 0 0 0 → p.state = stActive → (∀ c ∈ s.cores, c.task = none) → s.saved = [] → s.endings = [] → ∃ t q,
      exec .domainTerminate s = .next t ∧ coresKept s t ∧ Ended s t s.cmd 0 0 ∧ q ∈ t.plots ∧ q.id = p.id ∧ q.state = stTerminated) ∧
    (plainArgs s.cmd 0 27 0 0 0 0 → s.cmd.w0.getLsbD 0 = false → s.cmd.w0.getLsbD 6 = false → ∃ t q, exec .policySet s = .next t ∧
      coresKept s t ∧ Ended s t s.cmd 0 0 ∧ q ∈ t.plots ∧ q = { p with policy := s.cmd.w0.setWidth 27 }) ∧
    (plainArgs s.cmd 1 0 0 0 0 0 → ∃ t q, exec .debugAttach s = .next t ∧ coresKept s t ∧ Ended s t s.cmd 0 0 ∧ q ∈ t.plots ∧
      q = { p with debug := s.cmd.a32.getLsbD 0 }) ∧
    (plainArgs s.cmd 0 48 0 0 0 0 → ((s.plots.filter fun k => k.kind = kindRoot && k.id ≠ p.id).map (·.minhbm)).sum + s.cmd.w0.toNat ≤
        s.poolBytes → ∃ t q, exec .minhbmSet s = .next t ∧ coresKept s t ∧ Ended s t s.cmd 0 0 ∧ q ∈ t.plots ∧
        q.id = p.id ∧ q.minhbm = s.cmd.w0.toNat) ∧
    (plainArgs s.cmd 6 2 10 0 0 0 → 2 ≤ s.cmd.a32.toNat → s.cmd.w0 = 1 → ∃ t q, exec .portBind s = .next t ∧ coresKept s t ∧
      Ended s t s.cmd 0 0 ∧ q ∈ t.plots ∧ q.id = p.id ∧
      q.ports = (p.ports.filter fun b => b.1 ≠ s.cmd.a32.toNat) ++ [(s.cmd.a32.toNat, .ring s.cmd.w1.toNat)])) ∧
  (∀ (s : State) (p : Plot) (o : Obj), byAdmin s s.cmd → s.plots.length < 2 ^ 31 → s.plotAt s.cmd.plot.toNat = some p →
    p.kind = kindRoot → p.state = stActive → s.objOf s.cmd.w0 = some o → templateOk o → plainArgs s.cmd 0 64 4 0 0 0 → s.cmd.w1.toNat < 8 →
    let d := o.template (if o.live then 0 else o.curv)
    field d 0 4 = kindTaskset → badDesc d (some p) false = false → ∃ t id q, exec .tasksetSubmit s = .next t ∧ coresKept s t ∧
      freshId s id ∧ Ended s t s.cmd 0 id ∧ q ∈ t.plots ∧ q.id = id ∧ q.kind = kindTaskset ∧ q.parent = p.id % 2 ^ 32 ∧
      q.tasks = field d 928 32 ∧ Wants s t (.dispatchSelect s.cmd.w1.toNat)) ∧
  (∀ (s : State) (v : Saved) (tk : Task), byAdmin s s.cmd → plainArgs s.cmd 0 32 0 0 0 0 → (s.plotAt s.cmd.plot.toNat).isSome = true →
    s.saved = [v] → v.core.task = some tk → tk.plot = s.cmd.plot.toNat → tk.inst = s.cmd.w0.toNat →
    (v.held = true → ∃ t, exec .taskResume s = .next t ∧ coresKept s t ∧ t.saved = [{ v with held := false }] ∧ Ended s t s.cmd 0 0) ∧
    (v.held = false → ∃ t, exec .taskResume s = .next t ∧ coresKept s t ∧ t.saved = s.saved ∧ Ended s t s.cmd 1 0))

/-- R310, R333, R336, R338: the commands on snapshots, the journal and objects, from an administrative pair; a write stays behind what is
held at its pages. The model's choices here: what a refused command leaves in its record (log 53), the place that a held
OBJ_WRITE takes in arrival order (log 56), and BUSY of a SNAP_WRITE to a frozen row (log 85). -/
def Obligations.ObjectCommands : Prop :=
  (∀ s : State, byAdmin s s.cmd → plainArgs s.cmd 0 64 64 0 64 0 → s.cmd.plot = 0 → s.cmd.w1 ≠ 0 → s.cmd.w1.toNat ≤ 65536 → s.cmd.w3.toNat % 64 = 0 →
    let es := s.journal.filter fun e => decide (s.cmd.w0.toNat ≤ e.1) && decide (e.1 < s.cmd.w0.toNat + s.cmd.w1.toNat)
    (∀ e ∈ s.journal.head?, e.1 ≤ s.cmd.w0.toNat) → s.journal ≠ [] → Memory.wf s.hostMem →
    ∃ t, exec .journalRead s = .next t ∧ coresKept s t ∧ t.journal = s.journal ∧ Ended s t s.cmd 0 es.length ∧
      (s.cmd.w5 = 0 → ∀ k, k < es.length → memRead t.hostMem (s.cmd.w3.toNat + 64 * k) 64 = (es.getD k (0, 0)).2.toNat)) ∧
  (∀ (s : State) (v : Saved) (tk : Task) (p : Plot) (o : Obj) (k : Nat), byAdmin s s.cmd → plainArgs s.cmd 1 35 64 64 64 0 →
    s.cmd.w1.toNat + s.cmd.w2.toNat ≤ 921600 → s.saved = [v] → v.core.task = some tk → tk.plot = s.cmd.plot.toNat →
    tk.inst = s.cmd.w0.toNat % 2 ^ 32 → tk.member = s.cmd.w0.toNat / 2 ^ 32 → s.plotAt s.cmd.plot.toNat = some p → s.objOf p.save = some o →
    v.slot = some k → Memory.wf s.hostMem → (∀ g ∈ o.pages, g.res ≠ .absent) →
    let held := s.hostMustHold s.cmd.seq o 0 (pagesOf ((List.range s.cmd.w2.toNat).map (921600 * k + s.cmd.w1.toNat + ·)))
    (∃ t o', exec .snapRead s = .next t ∧ coresKept s t ∧ Ended s t s.cmd 0 0 ∧ t.objAt o.home o.index = some o' ∧
      o'.vers = o.vers ∧ o'.entry = o.entry ∧
      (s.cmd.w5 = 0 → memRead t.hostMem s.cmd.w3.toNat s.cmd.w2.toNat = o.rowRead k s.cmd.w1.toNat s.cmd.w2.toNat)) ∧
    (v.held = false ∨ o.rowFrozen k = true → ∃ t, exec .snapWrite s = .next t ∧ coresKept s t ∧ t.objs = s.objs ∧ Ended s t s.cmd 1 0) ∧
    (v.held = true → o.rowFrozen k = false → held = true → ∃ t, exec .snapWrite s = .next t ∧ coresKept s t ∧ t.objs = s.objs ∧
      t.cmdWait = s.cmdWait ++ [s.cmd] ∧ t.agenda = s.agenda ++ [⟨s.cycle + 1, s.cmd.seq, .snapWrite⟩]) ∧
    (v.held = true → o.rowFrozen k = false → held = false → ∃ t bs o', exec .snapWrite s = .next t ∧ coresKept s t ∧
      Ended s t s.cmd 0 0 ∧ t.objAt o.home o.index = some o' ∧ o'.entry = o.entry ∧
      o'.vers = (o.rowWrite k [(s.cmd.w1.toNat, bs)]).vers ∧ bs.length = s.cmd.w2.toNat ∧
      ∀ j, j < s.cmd.w2.toNat → let a := s.cmd.w1.toNat + j
        let new := memGet s.hostMem (s.cmd.w3.toNat + j)
        let rw := BitVec.ofNat 8 (headerRw a)
        bs.getD j 0 = if 64 ≤ a then new else (new &&& rw) ||| (BitVec.ofNat 8 (o.rowRead k a 1) &&& ~~~ rw))) ∧
  (∀ s : State, byAdmin s s.cmd → (s.plotAt s.cmd.plot.toNat).isSome = true → plainArgs s.cmd 0 64 64 64 64 14 →
    (s.cmd.w0.getLsbD 19 = true → ¬ (s.cxl = true ∧ s.cmd.w0.getLsbD 17 = true) → ∃ t, exec .objCreate s = .next t ∧ coresKept s t ∧
      t.objs = s.objs ∧ Ended s t s.cmd 6 0) ∧
    (badForm s.cmd.w0.toNat s.cmd.w1.toNat s.cmd.w2.toNat s.cmd.w3.toNat s.cxl = true → ∃ t, exec .objCreate s = .next t ∧ coresKept s t ∧
      t.objs = s.objs ∧ Ended s t s.cmd 6 0) ∧
    (badForm s.cmd.w0.toNat s.cmd.w1.toNat s.cmd.w2.toNat s.cmd.w3.toNat s.cxl = false →
      (s.cmd.w0.getLsbD 19 = true → s.cxl = true ∧ s.cmd.w0.getLsbD 17 = true) → (∀ q ∈ s.ancestors s.cmd.plot.toNat, q.hbmb = 0) → ∃ t, exec .objCreate s = .next t ∧ coresKept s t ∧
        ((∃ w o, Allocated s t s.cmd.w0 s.cmd.w1 s.cmd.w2 s.cmd.w3 w o ∧ o.ownr = s.cmd.w4.toNat % 128 ∧ o.tenr = s.cmd.w4.toNat / 128 ∧
          o.ownp = s.cmd.plot.toNat ∧ Ended s t s.cmd 0 w.toNat) ∨ (t.objs = s.objs ∧ Ended s t s.cmd 2 0)))) ∧
  (∀ (s : State) (o : Obj), byAdmin s s.cmd → s.cmd.plot = 0 → s.objOf s.cmd.w0 = some o →
    (plainArgs s.cmd 0 64 0 0 0 0 → ∃ t, exec .objFree s = .next t ∧ coresKept s t ∧ Ended s t s.cmd 0 0 ∧ t.objOf s.cmd.w0 = none) ∧
    (plainArgs s.cmd 0 64 64 64 64 0 → o.live = true → reachable o → o.grains = [] → o.frz = [] →
      s.cmd.w2 ≠ 0 → s.cmd.w2.toNat ≤ 2 ^ 32 → s.cmd.w1.toNat + s.cmd.w2.toNat ≤ o.size →
      let held := s.hostMustHold s.cmd.seq o 0 (pagesOf ((List.range s.cmd.w2.toNat).map (s.cmd.w1.toNat + ·)))
      (held = false → ∃ t o', exec .objWrite s = .next t ∧ coresKept s t ∧
        Ended s t s.cmd 0 0 ∧ t.objAt o.home o.index = some o' ∧ o'.entry = o.entry ∧
        o'.vers = (o.hostBytes 0 s.cmd.w1.toNat (memBytes s.hostMem s.cmd.w3.toNat s.cmd.w2.toNat)).vers) ∧
      (held = true → ∃ t, exec .objWrite s = .next t ∧ coresKept s t ∧ t.objs = s.objs ∧ t.cmdWait = s.cmdWait ++ [s.cmd] ∧
        t.agenda = s.agenda ++ [⟨s.cycle + 1, s.cmd.seq, .objWrite⟩])) ∧
    (plainArgs s.cmd 0 64 64 64 64 32 → o.live = true → reachable o → o.readable 0 = true → s.pinOfCmd s.cmd = none → s.cmd.w2 ≠ 0 → s.cmd.w2.toNat ≤ 2 ^ 32 →
      s.cmd.w1.toNat + s.cmd.w2.toNat ≤ o.size → Memory.wf s.hostMem → ∃ t, exec .objRead s = .next t ∧ coresKept s t ∧ Ended s t s.cmd 0 0 ∧
        (s.cmd.w5 = 0 → ∀ j, j < s.cmd.w2.toNat → o.poisoned 0 (s.cmd.w1.toNat + j) = false →
          memGet t.hostMem (s.cmd.w3.toNat + j) = if o.padding (s.cmd.w1.toNat + j) then 0 else o.byteOf 0 (s.cmd.w1.toNat + j))) ∧
    (plainArgs s.cmd 10 64 64 64 0 0 → s.cmd.w0 ≠ 0 → o.live = true → o.readable 0 = true → o.hostsh = false → s.cmd.w2.toNat < 2 →
      s.cmd.w1.toNat % 4096 = 0 → s.apertures = [] → ∃ t, exec .apertureSet s = .next t ∧ coresKept s t ∧ Ended s t s.cmd 0 0 ∧
        t.apertures = [⟨s.cmd.a32.toNat, s.cmd.w0, s.cmd.w1.toNat, s.cmd.w2.getLsbD 0, 0, 0⟩]))

/-- R327, R340 to R344: messages of a peer are performed in their sending order, in its rack in the order of each virtual channel, once
each, and acknowledged; an acknowledgement ends the sending, a message without one is sent again, a peer out of reach for 1,000,000 ns
is lost and leaves its pages to be resolved; a package heard of for the first time is greeted; nothing comes when no port runs. The
timestamp's rate is kept within 100 ppm; a resource's third error in the window makes its fault lasting; an uncorrectable error of the
kernel's data leaves the package fallow. The model's choices here: the message bodies, the port of a message and what comes too early
(log 62), the slew's clamp and its new start (log 47), and the numbers of the ports (log 115). -/
def Obligations.LinksAndErrors : Prop :=
  (∀ (s : State) (src seq : Nat) (b : LinkBody), s.portTo src = none → exec (.linkMessageReceive src seq b) s = .next s) ∧
  (∀ (s : State) (src k : Nat) (b : Bool), s.peers = [] → s.portTo src = some k → s.heldReads = [] → ∃ t,
    exec (.linkMessageReceive src 0 (.hello b)) s = .next t ∧ coresKept s t ∧
    t.peers = [⟨src, 1, [⟨0, s.ts, .hello true⟩], setAt (Vector.replicate 5 0) (s.chanOf src (.hello b)) 1, false, b⟩] ∧
    t.outbox = s.outbox ++ [⟨src, k, (s.chanOf src (.hello b)).val, 0, .hello true⟩, ⟨src, k, (s.chanOf src (.ack 0)).val, 0, .ack 0⟩]) ∧
  (∀ (s : State) (p : Peer) (k seq : Nat) (b : LinkBody) (r : PageRef) (place : CastPlace), s.peers = [p] → s.heldReads = [] →
    s.portTo p.pkg = some k →
    let acked : List Packet := s.outbox ++ [⟨p.pkg, k, (s.chanOf p.pkg (.ack seq)).val, seq, .ack seq⟩]
    let next (b : LinkBody) : Nat := p.recvd.get (s.chanOf p.pkg b)
    let may (b : LinkBody) : Prop := if s.sameRack p.pkg = true then next b ≤ seq else seq = next b
    let got (b : LinkBody) : Peer := { p with recvd := setAt p.recvd (s.chanOf p.pkg b) (seq + 1), lost := false }
    (isAck b = false → seq < next b → exec (.linkMessageReceive p.pkg seq b) s = .next { s with outbox := acked }) ∧
    (isAck b = false → next b < seq → s.sameRack p.pkg = false → exec (.linkMessageReceive p.pkg seq b) s = .next s) ∧
    (may (.castAck r place) → (∀ n, place ≠ .rack n) → exec (.linkMessageReceive p.pkg seq (.castAck r place)) s = .next { s with
      peers := [got (.castAck r place)], outbox := acked, agenda := s.agenda ++ [⟨s.cycle, 0, .thawAck r place⟩] }) ∧
    (∀ n o z, may (.castAck r place) → place = .rack n → s.objAt r.home r.index = some o → o.frz = [z] → z.page = r.page →
      let left := z.racks.filter fun k => k ≠ p.pkg
      ∃ t o', exec (.linkMessageReceive p.pkg seq (.castAck r place)) s = .next t ∧ coresKept s t ∧
        t.objAt r.home r.index = some o' ∧ o'.frz = [{ z with racks := left }] ∧ t.outbox = acked ∧
        t.agenda = s.agenda ++ if left.any (fun k => k / 128 = n) then [] else [⟨s.cycle, 0, .thawAck r place⟩]) ∧
    (∀ l : Bool, may (.hello l) → exec (.linkMessageReceive p.pkg seq (.hello l)) s = .next { s with
      peers := [{ got (.hello l) with lines := l }], outbox := acked }) ∧
    (∀ n, exec (.linkMessageReceive p.pkg seq (.ack n)) s = .next { s with
      peers := [{ p with lost := false, unacked := p.unacked.filter fun m => m.seq ≠ n }] }) ∧
    ((∀ m ∈ p.unacked, m.seq ≠ seq) → exec (.linkRetransmit p.pkg seq) s = .next s) ∧
    (∀ since, p.unacked = [⟨seq, since, b⟩] →
      let sent : State := { s with outbox := s.outbox ++ [⟨p.pkg, k, (s.chanOf p.pkg b).val, seq, b⟩]
                                   agenda := s.agenda ++ [⟨s.cycle + s.cyclesIn 8000, 0, .linkRetransmit p.pkg seq⟩] }
      (p.lost = true ∨ s.ts < since + 1000000 → exec (.linkRetransmit p.pkg seq) s = .next sent) ∧
      (p.lost = false → since + 1000000 ≤ s.ts → ∃ t n, exec (.linkRetransmit p.pkg seq) s = .next t ∧ coresKept s t ∧ s.cycle < n ∧
        t.outbox = sent.outbox ∧ t.agenda = sent.agenda ++ [⟨n, 0, .peerUnreachable p.pkg⟩])) ∧
    ∃ os, exec (.peerUnreachable p.pkg) s = .next { s with peers := [{ p with lost := true }], objs := os } ∧ os.length = s.objs.length ∧
      ∀ (k : Nat) (o o' : Obj), s.objs[k]? = some o → os[k]? = some o' → o'.entry = o.entry ∧ o'.vers = o.vers ∧ o'.pages.length = o.pages.length ∧
        ∀ (j : Nat) (q q' : Page), o.pages[j]? = some q → o'.pages[j]? = some q' →
          q' = if q.res = .peer ∧ q.die = p.pkg then { q with res := .absent } else q) ∧
  (∀ (s : State) (ppm : Int), ∃ t, exec (.timestampCorrection ppm) s = .next t ∧ t = { s with slew := t.slew, slewAcc := 0 } ∧
    (-100 ≤ ppm → ppm ≤ 100 → t.slew = ppm) ∧ -100 ≤ t.slew ∧ t.slew ≤ 100) ∧
  (∀ (s : State) (port lane t1 t2 : Nat), port < 20 → lane < 16 → s.errors = [⟨.lane port lane, [t1, t2], 0, false⟩] →
    s.ts < t1 + 86400000000000 → s.ts < t2 + 86400000000000 → ∃ t, exec (.correctedError (.lane port lane)) s = .next t ∧ coresKept s t ∧
      t.errors = [⟨.lane port lane, [], 0, true⟩] ∧ Journals s t ∧ t.portLanes port = 8) ∧
  (∀ (s : State) (r : Resource), Resource.exists_ r = false → exec (.correctedError r) s = .next s) ∧
  (∀ (s : State) (r : Resource), Resource.exists_ r = true → s.errors = [] → ∃ t, exec (.correctedError r) s = .next t ∧ coresKept s t ∧ t.objs = s.objs ∧
    t.errors = [⟨r, [s.ts], 0, false⟩] ∧ Journals s t) ∧
  (∀ (s : State) (line : Nat) (r : PageRef) (o : Obj) (p : Page),
    exec (.uncorrectableError .cleanCache) s = .next s ∧
    (∀ io core : Nat, io < 2 → core < 4 → ∃ t, exec (.uncorrectableError (.dirtyKernel io core)) s = .next t ∧ t.power = .fallow ∧
      t.reason = 4 ∧ t.unit = s.pkg * 2 ^ 15 + io * 2 ^ 12 + 0x300 + core ∧ t.reqs = [] ∧ t.objs = []) ∧
    (coresUnique s → line < 4096 → ∃ m, exec (.uncorrectableError (.scratch s.core.id line)) s = .next { s with
      core := { s.core with marks := m } } ∧ ∀ l, l < 4096 → m.getLsbD l = (s.core.marks.getLsbD l || decide (l = line))) ∧
    (s.objAt r.home r.index = some o → o.pages = [p] → p.ver = r.ver → p.num = r.page → p.res = .hbm → line / 512 = p.num →
      ∃ t o', exec (.uncorrectableError (.line r line)) s = .next t ∧ coresKept s t ∧ t.objAt r.home r.index = some o' ∧ o'.vers = o.vers ∧
        (o'.pages = [p] ∨ o'.pages = [{ p with res := .poison, lost := [line], low := false }])))

/-- R334, R345 to R349: powering on starts the compute cores, and greets the peers that are known, or leaves the package fallow, with
the reason: 1 when an image is not signed with one of the three parameter sets or does not verify; the trip temperature does the
latter; a cap outside 1,200 to 3,400 W is not accepted; firmware takes effect at the next reset, which turns administration off and
keeps the time; a report holds the nonce, the measurement of each image and the identity, signed. The model's choices here: which state a
reset keeps (log 10), the layout of a report (log 14) and what goes with the power (log 59). -/
def Obligations.PowerAndManagement : Prop :=
  (∀ s : State, (s.power ≠ .starting → exec .powerOn s = .next s) ∧
    (s.power = .starting → ∃ t, exec .powerOn s = .next t ∧
      let good (f : FwImage) : Prop := (∀ n, f.set ≠ .other n) ∧ Config.signatureOk f = true
      ((t.power = .running ∧ t.cores = (List.range 384).map Core.reset ∧ Journals s t ∧ (∀ f ∈ s.firmware, good f) ∧
        t.peers.map (·.pkg) = s.peers.map (·.pkg) ∧ ∀ q ∈ t.peers, ∃ m ∈ q.unacked, m.body = .hello true) ∨
      (t.power = .fallow ∧ (t.reason = 1 ∨ t.reason = 2) ∧ (t.reason = 1 ↔ ¬ ∀ f ∈ s.firmware, good f) ∧ t.objs = [] ∧
        t.journal = s.journal ∧ t.plots = s.plots))) ∧
    ∃ t, exec .reset s = .next t ∧ t.power = .starting ∧ t.adminOk = false ∧ t.ts = s.ts ∧ t.hostMem = s.hostMem ∧ t.nextSeq = 1 ∧
      t.plots = [] ∧ t.objs = [] ∧ t.core = Core.reset 0 ∧ t.firmware = s.staged.getD s.firmware ∧ t.staged = none ∧
      t.agenda = [⟨s.cycle, 0, .powerOn⟩]) ∧
  (∀ (s : State) (die w : Nat) (on : Bool) (image : List FwImage) (nonce : BitVec 256),
    (∃ t, exec (.thermalTrip die) s = .next t ∧ t.power = .fallow ∧ t.reason = 3 ∧ t.reqs = [] ∧ t.objs = [] ∧ t.journal = s.journal ∧
      t.core = Core.reset s.core.id) ∧
    (∃ ds, exec (.thermalThrottle die) s = .next { s with throttled := ds } ∧ ∀ d, d ∈ ds ↔ d = die ∨ d ∈ s.throttled) ∧
    exec (.powerCapSet w) s = .next (if 1200 ≤ w ∧ w ≤ 3400 then { s with powerCap := w } else s) ∧
    exec (.hostAdminPermit on) s = .next { s with adminOk := on } ∧
    exec (.firmwareUpdate image) s = .next { s with staged := some image } ∧
    let body := toBytes 32 nonce.toNat ++ (s.firmware.map fun f => sha256 f.bytes).flatten ++ Config.identity
    exec (.attestationReport nonce) s = .next { s with reports := s.reports ++ [body ++ Config.signature body] })

/-! ### The machine as a whole -/

/-- R36 to R40, R43, R91, R300: a step at the issue of a bundle that decodes is exec of its syllables in slot order, each with its own
guard, on the state in which the due landing slots have landed; the bundle is then counted and its STALL applied. A bundle of one
syllable that traps stops the core on that cause with nothing else changed; one that is held, or whose vector and mask results would
pass 48 in flight, costs a cycle and nothing else; one that waits for its landing stops the clock; a fault or a refusal of the
syllable is the step's. The code with which the engine's work will complete in this cycle is known to the
syllables. R40: FIRST and LAST let a bundle issue in the iterations they name, withhold it in others (the delay slots and the fetch cost
of one that holds a transfer follow log 117), and a level that is not active takes LOOP_NEST. -/
def Obligations.StepRunsDecoded : Prop :=
  (∀ (s : State) (b : Bundle) (k : Nat), reachesIssue s b → testLevel b.test = some k → ∃ f : Option Nat,
    (levelNo s.core k = none → step s = .next (((foreseen s f).takeTrap .loopNest 0).toStage .halted)) ∧
    ∀ l, levelNo s.core k = some l → ¬ testSays b.test l → step s = .next (skippedFor (foreseen s f) b)) ∧
  ∀ (s : State) (b : Bundle), issues s b → ∃ f : Option Nat, (s.core.eng.active = none → f = none) ∧
    let s0 := foreseen s f
    let addr := s.core.pc
    let len := s.core.lenAt s.core.pc
    let s1 := landedFor s0
    let n := s1.core.inflight.length
    let full := decide (48 < s.core.vWould none b.sylls)
    (∀ t, b.sylls ≠ [] → performs addr len n b.sylls s1 t →
      (t.core.vInFlight ≤ 48 → step s = .next (issuedAs t addr len b.stall.val)) ∧
      (48 < t.core.vInFlight → step s = .next (heldFor s0 t []))) ∧
    (∀ t, b.sylls = [] → exec .emptyBundle s1 = .next t → t.core.vInFlight ≤ 48 → step s = .next (issuedAs t addr len b.stall.val)) ∧
    (∀ y, b.sylls = [y] →
      (∀ t k w, exec y.instr (inSlot s1 addr len n y) = .next t → t.core.out = .trapped k w →
        ∃ rs, (k ≠ .formatEmulate → rs = []) ∧
          step s = .next (if full then heldFor s0 t rs else trapFor s0 (inSlot s1 addr len n y).core.iss k w rs)) ∧
      (∀ t, exec y.instr (inSlot s1 addr len n y) = .next t → t.core.out = .stopped →
        step s = .next (if full then heldFor s0 t [] else stoppedFor s0)) ∧
      (∀ t, exec y.instr (inSlot s1 addr len n y) = .next t → t.core.out = .orphaned →
        step s = .next (trapFor s0 (inSlot s1 addr len n y).core.iss .orphanWait 0 [])) ∧
      (∀ t, exec y.instr (inSlot s1 addr len n y) = .next t → t.core.out = .held → step s = .next (heldFor s0 t [])) ∧
      (∀ k, exec y.instr (inSlot s1 addr len n y) = .fault k → step s = .fault k) ∧
      (∀ k, exec y.instr (inSlot s1 addr len n y) = .refused k → step s = .refused k))

/-- R35, R36, R42, R61, R64, R65, R67: words written out from the encodings of the spec decode to the instructions they stand for. -/
def Obligations.DecodesWords : Prop :=
  decodeTableWord 128 (0x01 + 2 ^ 64 * 0x0000000030810002) = some (.add 1 2 3) ∧
  decodeTableWord 128 (0x01 + 2 ^ 64 * 0x0FFFFFFFF1441222) = some (.addi 4 5 0xFFFFFFFF) ∧
  decodeTableWord 128 (0xABCDEF0123020001 + 2 ^ 64 * 0x0000000000060021) = some (.movl 6 0xABCDEF0123) ∧
  decodeTableWord 128 (0x01 + 2 ^ 64 * 0x0000000640C7A038) = some (.lds .ws 7 3 100) ∧
  decodeTableWord 128 (0x01 + 2 ^ 64 * 0x007FFFFFFF900060) = some (.br .mdone 0xFFFFFFFE true) ∧
  decodeTableWord 128 (0x04 + 2 ^ 64 * 0x000001C00C410002) = some (.vadd .rne 1 2 3 (.mask 4 true)) ∧
  decodeTableWord 128 (0x02 + 2 ^ 64 * 0x17FFFFFFF8030024) = some (.vmovi 3 0xFFFFFFFE 5) ∧
  decodeTableWord 128 (0x02 + 2 ^ 64 * 0x0022000400450030) = some (.vld 5 2 512 (.mask 1 false)) ∧
  decodeTableWord 128 (0x08 + 2 ^ 64 * 0x0000007000C00008) = some (.mpset 7 3) ∧
  decodeTableWord 128 (0x20 + 2 ^ 64 * 0x0000700009520010) = some (.fetch .plain ⟨2, 5, 7⟩ 9) ∧
  decodeTableWord 128 (0x40 + 2 ^ 64 * 0x0000304225010002) = some (.atom .add .acqrel .die 1 20 ⟨2, 4⟩) ∧
  decodeTableWord 128 (0x40 + 2 ^ 64 * 0x0002304225010002) = none ∧
  decodeTableWord 128 (0x40 + 2 ^ 64 * 0x0000304225010003) = none ∧
  decodeTableWord 128 (0x40 + 2 ^ 64 * 0x01) = some .nop ∧
  decodeTableWord 64 0 = some .emptyBundle ∧ decodeMicro 10 = .ok .mend ∧ decodeMicro 11 = .error 1 ∧ decodeMicro (10 + 2 ^ 127) = .error 8

/-- R42 to R48, R61 to R69, R184: no bit of an encoding is dropped. Every well-formed syllable in a slot of its kind, under any
guard and with every operand value the encoding admits, decodes to itself, the long immediate standing in the header; its bundle of
one syllable decodes to it; every microword is 128 bits and decodes to itself. -/
def Obligations.RoundTrips : Prop :=
  (∀ (slot : Slot) (g : Guard) (i : Instr) (limm w : Nat), i.wf = true → encodeSyllable slot g i = some w →
    (i.readsLimm = true → limm = i.limm) → w < 2 ^ 64 ∧ decodeSyllable slot limm w = .ok ⟨slot, g, i⟩) ∧
  (∀ (i : Instr) (ws : List Nat) (n : Nat), i.wf = true → i.loopEndOk 16 = true → encode i = some ws →
    decodeTableWord n (numOf ws) = some i) ∧
  (∀ (i : Instr) (w : Nat), encodeMicro i = some w → w < 2 ^ 128 ∧ decodeMicro w = .ok i)

/-- R6: a number written to memory as bytes reads back, little-endian, and every byte outside it reads as before; two memories in
canonical form with the same bytes are the same data. -/
def Obligations.MemoryIsLittleEndian : Prop :=
  (∀ (m : Mem) (a n v : Nat), Memory.wf m →
    memRead (memWrite m a n v) a n = v % 256 ^ n ∧
    (∀ k, k < n → memGet (memWrite m a n v) (a + k) = BitVec.ofNat 8 (v / 256 ^ k)) ∧
    ∀ b, (b < a ∨ a + n ≤ b) → memGet (memWrite m a n v) b = memGet m b) ∧
  (∀ m m' : Mem, Memory.wf m → Memory.wf m' → (∀ a, memGet m a = memGet m' a) → m = m')

/-- R3, R327, R348: every step keeps host memory in its canonical form, the power cap between 1,200 and 3,400 W, the timestamp's
phase below 21 cycles, its correction within 100 parts per million and the fraction of it not yet applied below one nanosecond (the
fraction is the model's own field: log 47). -/
def Obligations.StepKeepsSteady : Prop := ∀ s t : State, Steady s → step s = .next t → Steady t

/-- What every step keeps holds right after reset; the cap, the slew and the phase that reset gives are the model's choices (log 10). -/
def Obligations.ResetIsSteady : Prop := Steady State.reset
end

