-- ==== Sys2Proof/Laws/Memory.lean ====
section
/-! SUPPORT. Sparse maps and memories: every operation keeps the canonical form; what a read gives after a write; bytes and
numbers. -/
namespace Sys2Proof.Machine

/-! ### Sparse maps -/

theorem sparseWf_mono {α : Type} [DecidableEq α] {d : α} {lo lo' : Nat} (h : lo' ≤ lo) :
    ∀ {m : List (Nat × α)}, sparseWf d lo m = true → sparseWf d lo' m = true
  | [], _ => rfl
  | (j, w) :: r, hm => by
    simp only [sparseWf, Bool.and_eq_true, decide_eq_true_eq] at hm ⊢
    exact ⟨⟨Nat.le_trans h hm.1.1, hm.1.2⟩, hm.2⟩

/-- Below the least key nothing is listed. -/
theorem sparseGet_below {α : Type} [DecidableEq α] {d : α} {lo : Nat} :
    ∀ {m : List (Nat × α)}, sparseWf d lo m = true → ∀ k, k < lo → sparseGet d m k = d
  | [], _, _, _ => rfl
  | (j, w) :: r, hm, k, hk => by
    simp only [sparseWf, Bool.and_eq_true, decide_eq_true_eq] at hm
    have h1 : ¬ j = k := by omega
    have h2 : k < j := by omega
    simp [sparseGet, h1, h2]

/-- Setting a key keeps the canonical form. -/
theorem sparseSet_wf {α : Type} [DecidableEq α] {d : α} (k : Nat) (v : α) :
    ∀ {m : List (Nat × α)} {lo : Nat}, lo ≤ k → sparseWf d lo m = true → sparseWf d lo (sparseSet d m k v) = true
  | [], lo, hk, _ => by
    unfold sparseSet
    split
    · rfl
    · simp [sparseWf, *]
  | (j, w) :: r, lo, hk, hm => by
    have hm' := hm
    simp only [sparseWf, Bool.and_eq_true, decide_eq_true_eq] at hm
    unfold sparseSet
    split
    · split
      · exact hm'
      · rename_i h1 h2
        have : k + 1 ≤ j := h1
        simp [sparseWf, hk, h2, hm.1.2, this, hm.2]
    · split
      · subst_vars
        split
        · exact sparseWf_mono (by omega) hm.2
        · rename_i h2
          simp [sparseWf, hk, h2, hm.2]
      · have hjk : j + 1 ≤ k := by omega
        simp [sparseWf, hm.1.1, hm.1.2, sparseSet_wf k v hjk hm.2]

theorem sparseGet_cons {α : Type} (d : α) (j : Nat) (w : α) (r : List (Nat × α)) (k : Nat) :
    sparseGet d ((j, w) :: r) k = if j = k then w else if k < j then d else sparseGet d r k := rfl
/-- A key that was set reads as it was set; every other key reads as before. -/
theorem sparseGet_set {α : Type} [DecidableEq α] {d : α} (k : Nat) (v : α) :
    ∀ {m : List (Nat × α)} {lo : Nat}, sparseWf d lo m = true → ∀ a,
      sparseGet d (sparseSet d m k v) a = if a = k then v else sparseGet d m a
  | [], _, _, a => by
    unfold sparseSet
    by_cases hv : v = d
    · by_cases ha : a = k <;> simp [sparseGet, hv, ha]
    · by_cases ha : a = k
      · simp [sparseGet, hv, ha]
      · have : ¬ k = a := fun h => ha h.symm
        simp [sparseGet, hv, ha, this]
  | (j, w) :: r, lo, hm, a => by
    simp only [sparseWf, Bool.and_eq_true, decide_eq_true_eq] at hm
    unfold sparseSet
    split
    · rename_i h1
      by_cases hv : v = d
      · simp only [hv, if_true]
        by_cases ha : a = k
        · subst ha
          have h3 : ¬ j = a := by omega
          simp [sparseGet, h3, h1]
        · simp [ha]
      · simp only [hv, if_false]
        by_cases ha : a = k
        · simp [sparseGet, ha]
        · have h3 : ¬ k = a := fun h => ha h.symm
          rw [if_neg ha, sparseGet_cons d k v, if_neg h3]
          split
          · rename_i h4
            have h5 : ¬ j = a := by omega
            have h6 : a < j := by omega
            simp [sparseGet, h5, h6]
          · rfl
    · split
      · rename_i h1 h2
        subst h2
        by_cases hv : v = d
        · simp only [hv, if_true]
          by_cases ha : a = k
          · rw [if_pos ha, ha]
            exact sparseGet_below hm.2 k (by omega)
          · have h3 : ¬ k = a := fun h => ha h.symm
            rw [if_neg ha, sparseGet_cons d k w, if_neg h3]
            split
            · exact sparseGet_below hm.2 a (by omega)
            · rfl
        · simp only [hv, if_false]
          by_cases ha : a = k
          · simp [sparseGet, ha]
          · have h3 : ¬ k = a := fun h => ha h.symm
            simp [sparseGet, ha, h3]
      · rename_i h1 h2
        have ih := sparseGet_set k v hm.2 a
        by_cases hj : j = a
        · have : ¬ a = k := by omega
          simp [sparseGet, hj, this]
        · by_cases hl : a < j
          · have : ¬ a = k := by omega
            simp [sparseGet, hj, hl, this]
          · simp [sparseGet, hj, hl, ih]

/-! ### Memories -/

theorem memSet_wf {m : Mem} (h : Memory.wf m) (a : Nat) (b : Byte) : Memory.wf (memSet m a b) :=
  sparseSet_wf a b (Nat.zero_le a) h
theorem memGet_set {m : Mem} (h : Memory.wf m) (a : Nat) (b : Byte) (c : Nat) :
    memGet (memSet m a b) c = if c = a then b else memGet m c := sparseGet_set a b h c
/-- Writing bytes keeps the canonical form. -/
theorem memPut_wf : ∀ (bs : List Byte) {m : Mem} (a : Nat), Memory.wf m → Memory.wf (memPut m a bs)
  | [], _, _, h => h
  | b :: bs, _, a, h => memPut_wf bs (a + 1) (memSet_wf h a b)
theorem memWrite_wf {m : Mem} (a n v : Nat) (h : Memory.wf m) : Memory.wf (memWrite m a n v) := memPut_wf _ a h
theorem memEmpty_wf : Memory.wf ([] : Mem) := rfl
/-- Below the written bytes a memory reads as before. -/
theorem memGet_put_below : ∀ (bs : List Byte) {m : Mem} (a : Nat), Memory.wf m → ∀ c, c < a → memGet (memPut m a bs) c = memGet m c
  | [], _, _, _, _, _ => rfl
  | b :: bs, m, a, h, c, hc => by
    have h1 : ¬ c = a := by omega
    rw [memPut, memGet_put_below bs (a + 1) (memSet_wf h a b) c (by omega), memGet_set h, if_neg h1]
/-- A byte after bytes were written: the written byte within them, and the old one outside. -/
theorem memGet_put : ∀ (bs : List Byte) {m : Mem} (a : Nat), Memory.wf m → ∀ c,
    memGet (memPut m a bs) c = if a ≤ c ∧ c < a + bs.length then bs.getD (c - a) 0 else memGet m c
  | [], _, a, _, c => by
    have : ¬ (a ≤ c ∧ c < a + ([] : List Byte).length) := by simp only [List.length_nil]; omega
    rw [if_neg this]; rfl
  | b :: bs, m, a, h, c => by
    rw [memPut, memGet_put bs (a + 1) (memSet_wf h a b) c, memGet_set h]
    by_cases hc : c = a
    · subst hc
      have h1 : ¬ (c + 1 ≤ c ∧ c < c + 1 + bs.length) := by omega
      have h2 : c ≤ c ∧ c < c + (b :: bs).length := by simp
      rw [if_neg h1, if_pos rfl, if_pos h2]; simp
    · rw [if_neg hc]
      by_cases h1 : a + 1 ≤ c ∧ c < a + 1 + bs.length
      · have h2 : a ≤ c ∧ c < a + (b :: bs).length := by simp only [List.length_cons]; omega
        rw [if_pos h1, if_pos h2]
        obtain ⟨k, hk⟩ : ∃ k, c = a + 1 + k := ⟨c - (a + 1), by omega⟩
        subst hk
        rw [show a + 1 + k - (a + 1) = k by omega, show a + 1 + k - a = k + 1 by omega]
        rfl
      · have h2 : ¬ (a ≤ c ∧ c < a + (b :: bs).length) := by simp only [List.length_cons]; omega
        rw [if_neg h1, if_neg h2]

/-! ### Bytes and numbers -/

@[simp] theorem toBytes_length : ∀ n v, (toBytes n v).length = n
  | 0, _ => rfl
  | n + 1, v => by simp [toBytes, toBytes_length n]
@[simp] theorem memBytes_length (m : Mem) : ∀ n a, (memBytes m a n).length = n
  | 0, _ => rfl
  | n + 1, a => by simp [memBytes, memBytes_length m n]
/-- Byte k of a number. -/
theorem toBytes_getD : ∀ n v k, k < n → (toBytes n v).getD k 0 = BitVec.ofNat 8 (v / 256 ^ k)
  | 0, _, _, h => absurd h (Nat.not_lt_zero _)
  | n + 1, v, 0, _ => by simp [toBytes]
  | n + 1, v, k + 1, h => by
    have := toBytes_getD n (v / 256) k (by omega)
    rw [toBytes, List.getD_cons_succ, this, Nat.div_div_eq_div_mul, Nat.pow_succ, Nat.mul_comm]
/-- The number that the bytes of a number hold. -/
theorem ofBytes_toBytes : ∀ n v, ofBytes (toBytes n v) = v % 256 ^ n
  | 0, v => by simp [toBytes, ofBytes, Nat.mod_one]
  | n + 1, v => by
    rw [toBytes, ofBytes, ofBytes_toBytes n (v / 256), Nat.pow_succ, Nat.mul_comm (256 ^ n) 256, Nat.mod_mul]
    rfl
/-- The bytes read are those that each address holds. -/
theorem memBytes_getD (m : Mem) : ∀ n a k, k < n → (memBytes m a n).getD k 0 = memGet m (a + k)
  | 0, _, _, h => absurd h (Nat.not_lt_zero _)
  | n + 1, a, 0, _ => by simp [memBytes]
  | n + 1, a, k + 1, h => by
    rw [memBytes, List.getD_cons_succ, memBytes_getD m n (a + 1) k (by omega), show a + 1 + k = a + (k + 1) by omega]

end Sys2Proof.Machine
end

