-- ==== Sys2Proof/Laws/PerInstr.lean ====
section
/-! SUPPORT. For every instruction: its encoding fits a syllable (R42). -/
namespace Sys2Proof

theorem boolBit_lt (b : Bool) : boolBit b < 2 := by cases b <;> decide
theorem Rm.code_lt (c : Rm) : c.code < 8 := by cases c <;> decide
theorem Cond.code_lt (c : Cond) : c.code < 8 := by cases c <;> decide
theorem FCond.code_lt (c : FCond) : c.code < 8 := by cases c <;> decide
theorem LdSize.code_lt (c : LdSize) : c.code < 8 := by cases c <;> decide
theorem StSize.code_lt (c : StSize) : c.code < 8 := by cases c <;> decide
theorem GSize.code_lt (c : GSize) : c.code < 8 := by cases c <;> decide
theorem VRedOp.code_lt (c : VRedOp) : c.code < 8 := by cases c <;> decide
theorem VScanOp.code_lt (c : VScanOp) : c.code < 8 := by cases c <;> decide
theorem InfoQ.code_lt (c : InfoQ) : c.code < 8 := by cases c <;> decide
theorem FetchMod.code_lt (c : FetchMod) : c.code < 8 := by cases c <;> decide
theorem CollKind.code_lt (c : CollKind) : c.code < 8 := by cases c <;> decide
theorem Scope.code_lt (c : Scope) : c.code < 8 := by cases c <;> decide
theorem Ord.code_lt (c : Ord) : c.code < 4 := by cases c <;> decide
theorem AtomOp.code_lt (c : AtomOp) : c.code < 16 := by cases c <;> decide
theorem BrSrc.code_lt (c : BrSrc) : c.code < 18 := by cases c <;> simp only [BrSrc.code] <;> omega
theorem MaskOp.code_lt (k : MaskOp) : k.codeRR < 32 := by
  cases k with
  | all => decide
  | mask m z => have := boolBit_lt z; simp only [MaskOp.codeRR]; omega
theorem optMask_lt (k : Option (Fin 8)) : optMask k < 32 := by cases k <;> simp only [optMask] <;> omega

namespace Laws.Fits

/-- A well-formed instruction's opcode, RM and operand fields are 8, 3 and 48 bits. -/
def Statement (i : Instr) : Prop := i.wf = true → ∀ e, i.enc = some e → e.op < 256 ∧ e.rm < 8 ∧ e.ops < 2 ^ 48

theorem add (d a b : Fin 64) : Statement (.add d a b) := by
  intro _ e h; cases h; refine ⟨?_, ?_, ?_⟩ <;> simp only [sRR] <;> omega
theorem sub (d a b : Fin 64) : Statement (.sub d a b) := by
  intro _ e h; cases h; refine ⟨?_, ?_, ?_⟩ <;> simp only [sRR] <;> omega
theorem mul (d a b : Fin 64) : Statement (.mul d a b) := by
  intro _ e h; cases h; refine ⟨?_, ?_, ?_⟩ <;> simp only [sRR] <;> omega
theorem mulh (d a b : Fin 64) : Statement (.mulh d a b) := by
  intro _ e h; cases h; refine ⟨?_, ?_, ?_⟩ <;> simp only [sRR] <;> omega
theorem mulhn (d a b : Fin 64) : Statement (.mulhn d a b) := by
  intro _ e h; cases h; refine ⟨?_, ?_, ?_⟩ <;> simp only [sRR] <;> omega
theorem div (d a b : Fin 64) : Statement (.div d a b) := by
  intro _ e h; cases h; refine ⟨?_, ?_, ?_⟩ <;> simp only [sRR] <;> omega
theorem divn (d a b : Fin 64) : Statement (.divn d a b) := by
  intro _ e h; cases h; refine ⟨?_, ?_, ?_⟩ <;> simp only [sRR] <;> omega
theorem rem (d a b : Fin 64) : Statement (.rem d a b) := by
  intro _ e h; cases h; refine ⟨?_, ?_, ?_⟩ <;> simp only [sRR] <;> omega
theorem remn (d a b : Fin 64) : Statement (.remn d a b) := by
  intro _ e h; cases h; refine ⟨?_, ?_, ?_⟩ <;> simp only [sRR] <;> omega
theorem min (d a b : Fin 64) : Statement (.min d a b) := by
  intro _ e h; cases h; refine ⟨?_, ?_, ?_⟩ <;> simp only [sRR] <;> omega
theorem max (d a b : Fin 64) : Statement (.max d a b) := by
  intro _ e h; cases h; refine ⟨?_, ?_, ?_⟩ <;> simp only [sRR] <;> omega
theorem minn (d a b : Fin 64) : Statement (.minn d a b) := by
  intro _ e h; cases h; refine ⟨?_, ?_, ?_⟩ <;> simp only [sRR] <;> omega
theorem maxn (d a b : Fin 64) : Statement (.maxn d a b) := by
  intro _ e h; cases h; refine ⟨?_, ?_, ?_⟩ <;> simp only [sRR] <;> omega
theorem and (d a b : Fin 64) : Statement (.and d a b) := by
  intro _ e h; cases h; refine ⟨?_, ?_, ?_⟩ <;> simp only [sRR] <;> omega
theorem or (d a b : Fin 64) : Statement (.or d a b) := by
  intro _ e h; cases h; refine ⟨?_, ?_, ?_⟩ <;> simp only [sRR] <;> omega
theorem xor (d a b : Fin 64) : Statement (.xor d a b) := by
  intro _ e h; cases h; refine ⟨?_, ?_, ?_⟩ <;> simp only [sRR] <;> omega
theorem andn (d a b : Fin 64) : Statement (.andn d a b) := by
  intro _ e h; cases h; refine ⟨?_, ?_, ?_⟩ <;> simp only [sRR] <;> omega
theorem shl (d a b : Fin 64) : Statement (.shl d a b) := by
  intro _ e h; cases h; refine ⟨?_, ?_, ?_⟩ <;> simp only [sRR] <;> omega
theorem shr (d a b : Fin 64) : Statement (.shr d a b) := by
  intro _ e h; cases h; refine ⟨?_, ?_, ?_⟩ <;> simp only [sRR] <;> omega
theorem sra (d a b : Fin 64) : Statement (.sra d a b) := by
  intro _ e h; cases h; refine ⟨?_, ?_, ?_⟩ <;> simp only [sRR] <;> omega
theorem rotl (d a b : Fin 64) : Statement (.rotl d a b) := by
  intro _ e h; cases h; refine ⟨?_, ?_, ?_⟩ <;> simp only [sRR] <;> omega
theorem clz (d a : Fin 64) : Statement (.clz d a) := by
  intro _ e h; cases h; refine ⟨?_, ?_, ?_⟩ <;> simp only [sRR] <;> omega
theorem ctz (d a : Fin 64) : Statement (.ctz d a) := by
  intro _ e h; cases h; refine ⟨?_, ?_, ?_⟩ <;> simp only [sRR] <;> omega
theorem popc (d a : Fin 64) : Statement (.popc d a) := by
  intro _ e h; cases h; refine ⟨?_, ?_, ?_⟩ <;> simp only [sRR] <;> omega
theorem cmp (c : Cond) (d : Fin 16) (a b : Fin 64) : Statement (.cmp c d a b) := by
  intro _ e h; cases h; have := Cond.code_lt c; refine ⟨?_, ?_, ?_⟩ <;> simp only [sRR] <;> omega
theorem sel (d a b : Fin 64) (c : Fin 16) : Statement (.sel d a b c) := by
  intro _ e h; cases h; refine ⟨?_, ?_, ?_⟩ <;> simp only [sRR] <;> omega
theorem movi (d : Fin 64) (imm : BitVec 32) : Statement (.movi d imm) := by
  intro _ e h; cases h; refine ⟨?_, ?_, ?_⟩ <;> simp only [sRI] <;> omega
theorem movl (d : Fin 64) (limm : BitVec 40) : Statement (.movl d limm) := by
  intro _ e h; cases h; refine ⟨?_, ?_, ?_⟩ <;> simp only [sRI] <;> omega
theorem addi (d a : Fin 64) (imm : BitVec 32) : Statement (.addi d a imm) := by
  intro _ e h; cases h; refine ⟨?_, ?_, ?_⟩ <;> simp only [sRI] <;> omega
theorem andi (d a : Fin 64) (imm : BitVec 32) : Statement (.andi d a imm) := by
  intro _ e h; cases h; refine ⟨?_, ?_, ?_⟩ <;> simp only [sRI] <;> omega
theorem ori (d a : Fin 64) (imm : BitVec 32) : Statement (.ori d a imm) := by
  intro _ e h; cases h; refine ⟨?_, ?_, ?_⟩ <;> simp only [sRI] <;> omega
theorem xori (d a : Fin 64) (imm : BitVec 32) : Statement (.xori d a imm) := by
  intro _ e h; cases h; refine ⟨?_, ?_, ?_⟩ <;> simp only [sRI] <;> omega
theorem shli (d a : Fin 64) (k : Fin 64) : Statement (.shli d a k) := by
  intro _ e h; cases h; refine ⟨?_, ?_, ?_⟩ <;> simp only [sRI] <;> omega
theorem shri (d a : Fin 64) (k : Fin 64) : Statement (.shri d a k) := by
  intro _ e h; cases h; refine ⟨?_, ?_, ?_⟩ <;> simp only [sRI] <;> omega
theorem srai (d a : Fin 64) (k : Fin 64) : Statement (.srai d a k) := by
  intro _ e h; cases h; refine ⟨?_, ?_, ?_⟩ <;> simp only [sRI] <;> omega
theorem cmpi (c : Cond) (d : Fin 16) (a : Fin 64) (imm : BitVec 32) : Statement (.cmpi c d a imm) := by
  intro _ e h; cases h; have := Cond.code_lt c; refine ⟨?_, ?_, ?_⟩ <;> simp only [sRI] <;> omega
theorem aadd (d a : Fin 16) (imm : BitVec 32) : Statement (.aadd d a imm) := by
  intro _ e h; cases h; refine ⟨?_, ?_, ?_⟩ <;> simp only [sRI] <;> omega
theorem amovAX (d : Fin 16) (a : Fin 64) : Statement (.amovAX d a) := by
  intro _ e h; cases h; refine ⟨?_, ?_, ?_⟩ <;> simp only [sRR] <;> omega
theorem amovXA (d : Fin 64) (a : Fin 16) : Statement (.amovXA d a) := by
  intro _ e h; cases h; refine ⟨?_, ?_, ?_⟩ <;> simp only [sRR] <;> omega
theorem csrrd (d : Fin 64) (csr : Fin 4096) : Statement (.csrrd d csr) := by
  intro _ e h; cases h; refine ⟨?_, ?_, ?_⟩ <;> simp only [sRI] <;> omega
theorem csrwr (csr : Fin 4096) (a : Fin 64) : Statement (.csrwr csr a) := by
  intro _ e h; cases h; refine ⟨?_, ?_, ?_⟩ <;> simp only [sRI] <;> omega
theorem pand (d a b : Fin 16) : Statement (.pand d a b) := by
  intro _ e h; cases h; refine ⟨?_, ?_, ?_⟩ <;> simp only [sRR] <;> omega
theorem por (d a b : Fin 16) : Statement (.por d a b) := by
  intro _ e h; cases h; refine ⟨?_, ?_, ?_⟩ <;> simp only [sRR] <;> omega
theorem pxor (d a b : Fin 16) : Statement (.pxor d a b) := by
  intro _ e h; cases h; refine ⟨?_, ?_, ?_⟩ <;> simp only [sRR] <;> omega
theorem pnot (d a : Fin 16) : Statement (.pnot d a) := by
  intro _ e h; cases h; refine ⟨?_, ?_, ?_⟩ <;> simp only [sRR] <;> omega
theorem lds (sz : LdSize) (d : Fin 64) (base : Fin 16) (ofs : BitVec 19) : Statement (.lds sz d base ofs) := by
  intro _ e h; cases h; have := LdSize.code_lt sz; refine ⟨?_, ?_, ?_⟩ <;> simp only [sMem] <;> omega
theorem sts (sz : StSize) (d : Fin 64) (base : Fin 16) (ofs : BitVec 19) : Statement (.sts sz d base ofs) := by
  intro _ e h; cases h; have := StSize.code_lt sz; refine ⟨?_, ?_, ?_⟩ <;> simp only [sMem] <;> omega
theorem sfaddF32 (rm : Rm) (d a b : Fin 64) : Statement (.sfaddF32 rm d a b) := by
  intro _ e h; cases h; have := Rm.code_lt rm; refine ⟨?_, ?_, ?_⟩ <;> simp only [sRR] <;> omega
theorem sfsubF32 (rm : Rm) (d a b : Fin 64) : Statement (.sfsubF32 rm d a b) := by
  intro _ e h; cases h; have := Rm.code_lt rm; refine ⟨?_, ?_, ?_⟩ <;> simp only [sRR] <;> omega
theorem sfmulF32 (rm : Rm) (d a b : Fin 64) : Statement (.sfmulF32 rm d a b) := by
  intro _ e h; cases h; have := Rm.code_lt rm; refine ⟨?_, ?_, ?_⟩ <;> simp only [sRR] <;> omega
theorem sfmaF32 (rm : Rm) (d a b c : Fin 64) : Statement (.sfmaF32 rm d a b c) := by
  intro _ e h; cases h; have := Rm.code_lt rm; refine ⟨?_, ?_, ?_⟩ <;> simp only [sRR] <;> omega
theorem sfdivF32 (rm : Rm) (d a b : Fin 64) : Statement (.sfdivF32 rm d a b) := by
  intro _ e h; cases h; have := Rm.code_lt rm; refine ⟨?_, ?_, ?_⟩ <;> simp only [sRR] <;> omega
theorem sfsqrtF32 (rm : Rm) (d a : Fin 64) : Statement (.sfsqrtF32 rm d a) := by
  intro _ e h; cases h; have := Rm.code_lt rm; refine ⟨?_, ?_, ?_⟩ <;> simp only [sRR] <;> omega
theorem sfcmpF32 (c : FCond) (d : Fin 16) (a b : Fin 64) : Statement (.sfcmpF32 c d a b) := by
  intro _ e h; cases h; have := FCond.code_lt c; refine ⟨?_, ?_, ?_⟩ <;> simp only [sRR] <;> omega
theorem sfaddF64 (rm : Rm) (d a b : Fin 64) : Statement (.sfaddF64 rm d a b) := by
  intro _ e h; cases h; have := Rm.code_lt rm; refine ⟨?_, ?_, ?_⟩ <;> simp only [sRR] <;> omega
theorem sfsubF64 (rm : Rm) (d a b : Fin 64) : Statement (.sfsubF64 rm d a b) := by
  intro _ e h; cases h; have := Rm.code_lt rm; refine ⟨?_, ?_, ?_⟩ <;> simp only [sRR] <;> omega
theorem sfmulF64 (rm : Rm) (d a b : Fin 64) : Statement (.sfmulF64 rm d a b) := by
  intro _ e h; cases h; have := Rm.code_lt rm; refine ⟨?_, ?_, ?_⟩ <;> simp only [sRR] <;> omega
theorem sfmaF64 (rm : Rm) (d a b c : Fin 64) : Statement (.sfmaF64 rm d a b c) := by
  intro _ e h; cases h; have := Rm.code_lt rm; refine ⟨?_, ?_, ?_⟩ <;> simp only [sRR] <;> omega
theorem sfdivF64 (rm : Rm) (d a b : Fin 64) : Statement (.sfdivF64 rm d a b) := by
  intro _ e h; cases h; have := Rm.code_lt rm; refine ⟨?_, ?_, ?_⟩ <;> simp only [sRR] <;> omega
theorem sfsqrtF64 (rm : Rm) (d a : Fin 64) : Statement (.sfsqrtF64 rm d a) := by
  intro _ e h; cases h; have := Rm.code_lt rm; refine ⟨?_, ?_, ?_⟩ <;> simp only [sRR] <;> omega
theorem sfcmpF64 (c : FCond) (d : Fin 16) (a b : Fin 64) : Statement (.sfcmpF64 c d a b) := by
  intro _ e h; cases h; have := FCond.code_lt c; refine ⟨?_, ?_, ?_⟩ <;> simp only [sRR] <;> omega
theorem sfcvt (rm : Rm) (d a : Fin 64) (src dst : Fmt) : Statement (.sfcvt rm d a src dst) := by
  intro _ e h; cases h; have := Rm.code_lt rm; refine ⟨?_, ?_, ?_⟩ <;> simp only [sRI] <;> omega
theorem tlook (d a : Fin 64) : Statement (.tlook d a) := by
  intro _ e h; cases h; refine ⟨?_, ?_, ?_⟩ <;> simp only [sRR] <;> omega
theorem tset (a b : Fin 64) : Statement (.tset a b) := by
  intro _ e h; cases h; refine ⟨?_, ?_, ?_⟩ <;> simp only [sRR] <;> omega
theorem tinv (a : Fin 64) : Statement (.tinv a) := by
  intro _ e h; cases h; refine ⟨?_, ?_, ?_⟩ <;> simp only [sRR] <;> omega
theorem br (src : BrSrc) (disp : BitVec 32) (hint : Bool) : Statement (.br src disp hint) := by
  intro _ e h; cases h; have := BrSrc.code_lt src; have := boolBit_lt hint; refine ⟨?_, ?_, ?_⟩ <;> simp only [sCF] <;> omega
theorem jmp (disp : BitVec 32) : Statement (.jmp disp) := by
  intro _ e h; cases h; refine ⟨?_, ?_, ?_⟩ <;> simp only [sCF] <;> omega
theorem jmpx (a : Fin 64) : Statement (.jmpx a) := by
  intro _ e h; cases h; refine ⟨?_, ?_, ?_⟩ <;> simp only [sCF] <;> omega
theorem call (disp : BitVec 32) : Statement (.call disp) := by
  intro _ e h; cases h; refine ⟨?_, ?_, ?_⟩ <;> simp only [sCF] <;> omega
theorem loop (limm : BitVec 40) (disp : BitVec 32) : Statement (.loop limm disp) := by
  intro _ e h; cases h; refine ⟨?_, ?_, ?_⟩ <;> simp only [sCF] <;> omega
theorem loopx (a : Fin 64) (disp : BitVec 32) : Statement (.loopx a disp) := by
  intro _ e h; cases h; refine ⟨?_, ?_, ?_⟩ <;> simp only [sCF] <;> omega
theorem lbreak (n : Fin 7) (disp : BitVec 32) : Statement (.lbreak n disp) := by
  intro _ e h; cases h; refine ⟨?_, ?_, ?_⟩ <;> simp only [sCF] <;> omega
theorem retireComplete (core : Nat) : Statement (.retireComplete core) := by intro _ e h; cases h
theorem vadd (rm : Rm) (d a b : Fin 32) (k : MaskOp) : Statement (.vadd rm d a b k) := by
  intro _ e h; cases h; have := Rm.code_lt rm; have := MaskOp.code_lt k; refine ⟨?_, ?_, ?_⟩ <;> simp only [vRR] <;> omega
theorem vsub (rm : Rm) (d a b : Fin 32) (k : MaskOp) : Statement (.vsub rm d a b k) := by
  intro _ e h; cases h; have := Rm.code_lt rm; have := MaskOp.code_lt k; refine ⟨?_, ?_, ?_⟩ <;> simp only [vRR] <;> omega
theorem vmul (rm : Rm) (d a b : Fin 32) (k : MaskOp) : Statement (.vmul rm d a b k) := by
  intro _ e h; cases h; have := Rm.code_lt rm; have := MaskOp.code_lt k; refine ⟨?_, ?_, ?_⟩ <;> simp only [vRR] <;> omega
theorem vdiv (rm : Rm) (d a b : Fin 32) (k : MaskOp) : Statement (.vdiv rm d a b k) := by
  intro _ e h; cases h; have := Rm.code_lt rm; have := MaskOp.code_lt k; refine ⟨?_, ?_, ?_⟩ <;> simp only [vRR] <;> omega
theorem vsqrt (rm : Rm) (d a : Fin 32) (k : MaskOp) : Statement (.vsqrt rm d a k) := by
  intro _ e h; cases h; have := Rm.code_lt rm; have := MaskOp.code_lt k; refine ⟨?_, ?_, ?_⟩ <;> simp only [vRR] <;> omega
theorem vrcp (rm : Rm) (d a : Fin 32) (k : MaskOp) : Statement (.vrcp rm d a k) := by
  intro _ e h; cases h; have := Rm.code_lt rm; have := MaskOp.code_lt k; refine ⟨?_, ?_, ?_⟩ <;> simp only [vRR] <;> omega
theorem vrsq (rm : Rm) (d a : Fin 32) (k : MaskOp) : Statement (.vrsq rm d a k) := by
  intro _ e h; cases h; have := Rm.code_lt rm; have := MaskOp.code_lt k; refine ⟨?_, ?_, ?_⟩ <;> simp only [vRR] <;> omega
theorem vmin (d a b : Fin 32) (k : MaskOp) : Statement (.vmin d a b k) := by
  intro _ e h; cases h; have := MaskOp.code_lt k; refine ⟨?_, ?_, ?_⟩ <;> simp only [vRR] <;> omega
theorem vmax (d a b : Fin 32) (k : MaskOp) : Statement (.vmax d a b k) := by
  intro _ e h; cases h; have := MaskOp.code_lt k; refine ⟨?_, ?_, ?_⟩ <;> simp only [vRR] <;> omega
theorem vabs (d a : Fin 32) (k : MaskOp) : Statement (.vabs d a k) := by
  intro _ e h; cases h; have := MaskOp.code_lt k; refine ⟨?_, ?_, ?_⟩ <;> simp only [vRR] <;> omega
theorem vneg (d a : Fin 32) (k : MaskOp) : Statement (.vneg d a k) := by
  intro _ e h; cases h; have := MaskOp.code_lt k; refine ⟨?_, ?_, ?_⟩ <;> simp only [vRR] <;> omega
theorem vcps (d a b : Fin 32) (k : MaskOp) : Statement (.vcps d a b k) := by
  intro _ e h; cases h; have := MaskOp.code_lt k; refine ⟨?_, ?_, ?_⟩ <;> simp only [vRR] <;> omega
theorem vcmp (c : FCond) (d : Fin 8) (a b : Fin 32) (k : MaskOp) : Statement (.vcmp c d a b k) := by
  intro _ e h; cases h; have := FCond.code_lt c; have := MaskOp.code_lt k; refine ⟨?_, ?_, ?_⟩ <;> simp only [vRR] <;> omega
theorem vclass (d : Fin 8) (a : Fin 32) (set : BitVec 7) : Statement (.vclass d a set) := by
  intro _ e h; cases h; refine ⟨?_, ?_, ?_⟩ <;> simp only [vRR] <;> omega
theorem vsel (d a b : Fin 32) (m : Fin 8) : Statement (.vsel d a b m) := by
  intro _ e h; cases h; refine ⟨?_, ?_, ?_⟩ <;> simp only [vRR] <;> omega
theorem vfma (rm : Rm) (d a b c : Fin 32) (k : MaskOp) : Statement (.vfma rm d a b c k) := by
  intro _ e h; cases h; have := Rm.code_lt rm; have := MaskOp.code_lt k; refine ⟨?_, ?_, ?_⟩ <;> simp only [vRR] <;> omega
theorem vfms (rm : Rm) (d a b c : Fin 32) (k : MaskOp) : Statement (.vfms rm d a b c k) := by
  intro _ e h; cases h; have := Rm.code_lt rm; have := MaskOp.code_lt k; refine ⟨?_, ?_, ?_⟩ <;> simp only [vRR] <;> omega
theorem vfnma (rm : Rm) (d a b c : Fin 32) (k : MaskOp) : Statement (.vfnma rm d a b c k) := by
  intro _ e h; cases h; have := Rm.code_lt rm; have := MaskOp.code_lt k; refine ⟨?_, ?_, ?_⟩ <;> simp only [vRR] <;> omega
theorem vand (d a b : Fin 32) (k : MaskOp) : Statement (.vand d a b k) := by
  intro _ e h; cases h; have := MaskOp.code_lt k; refine ⟨?_, ?_, ?_⟩ <;> simp only [vRR] <;> omega
theorem vor (d a b : Fin 32) (k : MaskOp) : Statement (.vor d a b k) := by
  intro _ e h; cases h; have := MaskOp.code_lt k; refine ⟨?_, ?_, ?_⟩ <;> simp only [vRR] <;> omega
theorem vxor (d a b : Fin 32) (k : MaskOp) : Statement (.vxor d a b k) := by
  intro _ e h; cases h; have := MaskOp.code_lt k; refine ⟨?_, ?_, ?_⟩ <;> simp only [vRR] <;> omega
theorem vnot (d a : Fin 32) (k : MaskOp) : Statement (.vnot d a k) := by
  intro _ e h; cases h; have := MaskOp.code_lt k; refine ⟨?_, ?_, ?_⟩ <;> simp only [vRR] <;> omega
theorem vshl (d a b : Fin 32) (k : MaskOp) : Statement (.vshl d a b k) := by
  intro _ e h; cases h; have := MaskOp.code_lt k; refine ⟨?_, ?_, ?_⟩ <;> simp only [vRR] <;> omega
theorem vshr (d a b : Fin 32) (k : MaskOp) : Statement (.vshr d a b k) := by
  intro _ e h; cases h; have := MaskOp.code_lt k; refine ⟨?_, ?_, ?_⟩ <;> simp only [vRR] <;> omega
theorem vsra (d a b : Fin 32) (k : MaskOp) : Statement (.vsra d a b k) := by
  intro _ e h; cases h; have := MaskOp.code_lt k; refine ⟨?_, ?_, ?_⟩ <;> simp only [vRR] <;> omega
theorem vcvt (rm : Rm) (d a : Fin 32) (fmt : Fmt) (k : MaskOp) : Statement (.vcvt rm d a fmt k) := by
  intro _ e h; cases h; have := Rm.code_lt rm; have := MaskOp.code_lt k; refine ⟨?_, ?_, ?_⟩ <;> simp only [vRR] <;> omega
theorem vscale (rm : Rm) (d a b : Fin 32) (k : MaskOp) : Statement (.vscale rm d a b k) := by
  intro _ e h; cases h; have := Rm.code_lt rm; have := MaskOp.code_lt k; refine ⟨?_, ?_, ?_⟩ <;> simp only [vRR] <;> omega
theorem vtag (d a : Fin 32) (fmt : Fmt) (scale : BitVec 8) (poison : Bool) : Statement (.vtag d a fmt scale poison) := by
  intro _ e h; cases h; have := boolBit_lt poison; refine ⟨?_, ?_, ?_⟩ <;> simp only [vRI] <;> omega
theorem vmov (d a : Fin 32) (k : MaskOp) : Statement (.vmov d a k) := by
  intro _ e h; cases h; have := MaskOp.code_lt k; refine ⟨?_, ?_, ?_⟩ <;> simp only [vRR] <;> omega
theorem vmovi (d : Fin 32) (imm : BitVec 32) (fmt : Fmt) : Statement (.vmovi d imm fmt) := by
  intro _ e h; cases h; refine ⟨?_, ?_, ?_⟩ <;> simp only [vRI] <;> omega
theorem vbcast (d a : Fin 32) (n : Fin 128) : Statement (.vbcast d a n) := by
  intro _ e h; cases h; refine ⟨?_, ?_, ?_⟩ <;> simp only [vRR] <;> omega
theorem vld (d : Fin 32) (base : Fin 16) (ofs : BitVec 19) (k : MaskOp) : Statement (.vld d base ofs k) := by
  intro _ e h; cases h; have := MaskOp.code_lt k; refine ⟨?_, ?_, ?_⟩ <;> simp only [vMem, MaskOp.codeMem] <;> omega
theorem vst (d : Fin 32) (base : Fin 16) (ofs : BitVec 19) (k : MaskOp) : Statement (.vst d base ofs k) := by
  intro _ e h; cases h; have := MaskOp.code_lt k; refine ⟨?_, ?_, ?_⟩ <;> simp only [vMem, MaskOp.codeMem] <;> omega
theorem vldf (d f : Fin 32) (k : MaskOp) : Statement (.vldf d f k) := by
  intro _ e h; cases h; have := MaskOp.code_lt k; refine ⟨?_, ?_, ?_⟩ <;> simp only [vMem, MaskOp.codeMem] <;> omega
theorem vstf (f d : Fin 32) (k : Option (Fin 8)) : Statement (.vstf f d k) := by
  intro _ e h; cases h; have := optMask_lt k; refine ⟨?_, ?_, ?_⟩ <;> simp only [vMem] <;> omega
theorem vgath (sz : GSize) (d a : Fin 32) (k : MaskOp) : Statement (.vgath sz d a k) := by
  intro _ e h; cases h; have := GSize.code_lt sz; have := MaskOp.code_lt k; refine ⟨?_, ?_, ?_⟩ <;> simp only [vRR] <;> omega
theorem vscat (sz : GSize) (a b : Fin 32) (k : Option (Fin 8)) : Statement (.vscat sz a b k) := by
  intro _ e h; cases h; have := GSize.code_lt sz; have := optMask_lt k; refine ⟨?_, ?_, ?_⟩ <;> simp only [vRR] <;> omega
theorem vperm (d a b : Fin 32) : Statement (.vperm d a b) := by
  intro _ e h; cases h; refine ⟨?_, ?_, ?_⟩ <;> simp only [vRR] <;> omega
theorem vxcl (d a b : Fin 32) : Statement (.vxcl d a b) := by
  intro _ e h; cases h; refine ⟨?_, ?_, ?_⟩ <;> simp only [vRR] <;> omega
theorem vred (op : VRedOp) (rm : Rm) (d a : Fin 32) (k : Option (Fin 8)) : Statement (.vred op rm d a k) := by
  intro _ e h; cases h; have := VRedOp.code_lt op; have := Rm.code_lt rm; have := optMask_lt k; refine ⟨?_, ?_, ?_⟩ <;> simp only [vRR] <;> omega
theorem vscan (op : VScanOp) (rm : Rm) (d a : Fin 32) (k : MaskOp) : Statement (.vscan op rm d a k) := by
  intro _ e h; cases h; have := VScanOp.code_lt op; have := Rm.code_lt rm; have := MaskOp.code_lt k; refine ⟨?_, ?_, ?_⟩ <;> simp only [vRR] <;> omega
theorem viota (d : Fin 32) : Statement (.viota d) := by
  intro _ e h; cases h; refine ⟨?_, ?_, ?_⟩ <;> simp only [vRR] <;> omega
theorem vtos (d : Fin 32) (a : Fin 32) (lane : Fin 128) : Statement (.vtos d a lane) := by
  intro _ e h; cases h; refine ⟨?_, ?_, ?_⟩ <;> simp only [vRR] <;> omega
theorem vrand (d : Fin 32) : Statement (.vrand d) := by
  intro _ e h; cases h; refine ⟨?_, ?_, ?_⟩ <;> simp only [vRR] <;> omega
theorem vdefer (m : Fin 8) (vs : List (Fin 32)) : Statement (.vdefer m vs) := by
  intro w e h; cases h
  simp only [Instr.wf, Bool.and_eq_true, decide_eq_true_eq] at w
  refine ⟨?_, ?_, ?_⟩ <;> simp only [vRR] <;> omega
theorem vdrain (d : Fin 32) (m : Fin 8) (c : Fin 4) : Statement (.vdrain d m c) := by
  intro _ e h; cases h; refine ⟨?_, ?_, ?_⟩ <;> simp only [vRR] <;> omega
theorem vhash (d a : Fin 32) (k : Option (Fin 8)) : Statement (.vhash d a k) := by
  intro _ e h; cases h; have := optMask_lt k; refine ⟨?_, ?_, ?_⟩ <;> simp only [vRR] <;> omega
theorem vexp (rm : Rm) (d a : Fin 32) (k : MaskOp) : Statement (.vexp rm d a k) := by
  intro _ e h; cases h; have := Rm.code_lt rm; have := MaskOp.code_lt k; refine ⟨?_, ?_, ?_⟩ <;> simp only [vRR] <;> omega
theorem vexp2 (rm : Rm) (d a : Fin 32) (k : MaskOp) : Statement (.vexp2 rm d a k) := by
  intro _ e h; cases h; have := Rm.code_lt rm; have := MaskOp.code_lt k; refine ⟨?_, ?_, ?_⟩ <;> simp only [vRR] <;> omega
theorem vlog (rm : Rm) (d a : Fin 32) (k : MaskOp) : Statement (.vlog rm d a k) := by
  intro _ e h; cases h; have := Rm.code_lt rm; have := MaskOp.code_lt k; refine ⟨?_, ?_, ?_⟩ <;> simp only [vRR] <;> omega
theorem vlog2 (rm : Rm) (d a : Fin 32) (k : MaskOp) : Statement (.vlog2 rm d a k) := by
  intro _ e h; cases h; have := Rm.code_lt rm; have := MaskOp.code_lt k; refine ⟨?_, ?_, ?_⟩ <;> simp only [vRR] <;> omega
theorem vtanh (rm : Rm) (d a : Fin 32) (k : MaskOp) : Statement (.vtanh rm d a k) := by
  intro _ e h; cases h; have := Rm.code_lt rm; have := MaskOp.code_lt k; refine ⟨?_, ?_, ?_⟩ <;> simp only [vRR] <;> omega
theorem vsigm (rm : Rm) (d a : Fin 32) (k : MaskOp) : Statement (.vsigm rm d a k) := by
  intro _ e h; cases h; have := Rm.code_lt rm; have := MaskOp.code_lt k; refine ⟨?_, ?_, ?_⟩ <;> simp only [vRR] <;> omega
theorem verf (rm : Rm) (d a : Fin 32) (k : MaskOp) : Statement (.verf rm d a k) := by
  intro _ e h; cases h; have := Rm.code_lt rm; have := MaskOp.code_lt k; refine ⟨?_, ?_, ?_⟩ <;> simp only [vRR] <;> omega
theorem vsin (rm : Rm) (d a : Fin 32) (k : MaskOp) : Statement (.vsin rm d a k) := by
  intro _ e h; cases h; have := Rm.code_lt rm; have := MaskOp.code_lt k; refine ⟨?_, ?_, ?_⟩ <;> simp only [vRR] <;> omega
theorem vcos (rm : Rm) (d a : Fin 32) (k : MaskOp) : Statement (.vcos rm d a k) := by
  intro _ e h; cases h; have := Rm.code_lt rm; have := MaskOp.code_lt k; refine ⟨?_, ?_, ?_⟩ <;> simp only [vRR] <;> omega
theorem mcall (n : Fin 256) : Statement (.mcall n) := by
  intro _ e h; cases h; refine ⟨?_, ?_, ?_⟩ <;> simp only [mGen] <;> omega
theorem macrd (rm : Rm) (d : Fin 32) (row : Fin 256) : Statement (.macrd rm d row) := by
  intro _ e h; cases h; have := Rm.code_lt rm; refine ⟨?_, ?_, ?_⟩ <;> simp only [mGen] <;> omega
theorem macwr (rm : Rm) (a : Fin 32) (row : Fin 256) : Statement (.macwr rm a row) := by
  intro _ e h; cases h; have := Rm.code_lt rm; refine ⟨?_, ?_, ?_⟩ <;> simp only [mGen] <;> omega
theorem mpset (p : Fin 8) (a : Fin 64) : Statement (.mpset p a) := by
  intro _ e h; cases h; refine ⟨?_, ?_, ?_⟩ <;> simp only [mGen] <;> omega
theorem mpget (d : Fin 64) (p : Fin 8) : Statement (.mpget d p) := by
  intro _ e h; cases h; refine ⟨?_, ?_, ?_⟩ <;> simp only [mGen] <;> omega
theorem mstat (d : Fin 64) : Statement (.mstat d) := by
  intro _ e h; cases h; refine ⟨?_, ?_, ?_⟩ <;> simp only [mGen] <;> omega
theorem mload (f : Fin 32) (a : Fin 64) : Statement (.mload f a) := by
  intro _ e h; cases h; refine ⟨?_, ?_, ?_⟩ <;> simp only [mGen] <;> omega
theorem zero (fill : Fill) : Statement (.zero fill) := by intro _ e h; cases h
theorem bld (skip : Skip) (bix : Fin 4096) (stg : Stg) (src : BSrc) : Statement (.bld skip bix stg src) := by intro _ e h; cases h
theorem bsel (stg : Stg) : Statement (.bsel stg) := by intro _ e h; cases h
theorem mloopOpen (l : MLoop) : Statement (.mloopOpen l) := by intro _ e h; cases h
theorem mloopClose (lvl : Fin 2) : Statement (.mloopClose lvl) := by intro _ e h; cases h
theorem mad (c : Cell) : Statement (.mad c) := by intro _ e h; cases h
theorem ada (c : Cell) : Statement (.ada c) := by intro _ e h; cases h
theorem mxp (c : Cell) : Statement (.mxp c) := by intro _ e h; cases h
theorem mnp (c : Cell) : Statement (.mnp c) := by intro _ e h; cases h
theorem openH (w : Bool) (h t : Fin 16) (due : Due) : Statement (.openH w h t due) := by
  intro _ e h; cases h; have := boolBit_lt w; refine ⟨?_, ?_, ?_⟩ <;> simp only [cObj] <;> omega
theorem close (h : Fin 16) : Statement (.close h) := by
  intro _ e h; cases h; refine ⟨?_, ?_, ?_⟩ <;> simp only [cObj] <;> omega
theorem info (q : InfoQ) (h : Fin 16) (due : Due) : Statement (.info q h due) := by
  intro _ e h; cases h; have := InfoQ.code_lt q; refine ⟨?_, ?_, ?_⟩ <;> simp only [cObj] <;> omega
theorem alloc (t : Fin 16) (due : Due) : Statement (.alloc t due) := by
  intro _ e h; cases h; refine ⟨?_, ?_, ?_⟩ <;> simp only [cObj] <;> omega
theorem free (h : Fin 16) : Statement (.free h) := by
  intro _ e h; cases h; refine ⟨?_, ?_, ?_⟩ <;> simp only [cObj] <;> omega
theorem fetch (mod : FetchMod) (x : Tile) (f : Fin 32) : Statement (.fetch mod x f) := by
  intro _ e h; cases h; have := FetchMod.code_lt mod; refine ⟨?_, ?_, ?_⟩ <;> simp only [cObj] <;> omega
theorem store (noalloc : Bool) (x : Tile) (f : Fin 32) : Statement (.store noalloc x f) := by
  intro _ e h; cases h; have := boolBit_lt noalloc; refine ⟨?_, ?_, ?_⟩ <;> simp only [cObj] <;> omega
theorem gather (x : Tile) (f : Fin 32) : Statement (.gather x f) := by
  intro _ e h; cases h; refine ⟨?_, ?_, ?_⟩ <;> simp only [cObj] <;> omega
theorem scatter (x : Tile) (f : Fin 32) : Statement (.scatter x f) := by
  intro _ e h; cases h; refine ⟨?_, ?_, ?_⟩ <;> simp only [cObj] <;> omega
theorem pushr (f : Fin 32) (t : Fin 16) : Statement (.pushr f t) := by
  intro _ e h; cases h; refine ⟨?_, ?_, ?_⟩ <;> simp only [cObj] <;> omega
theorem pushSlotReturn (producer dest f : Nat) : Statement (.pushSlotReturn producer dest f) := by intro _ e h; cases h
theorem pushDestEnded (tinst : Nat) : Statement (.pushDestEnded tinst) := by intro _ e h; cases h
theorem pref (x : Tile) : Statement (.pref x) := by
  intro _ e h; cases h; refine ⟨?_, ?_, ?_⟩ <;> simp only [cObj] <;> omega
theorem copyo (x : Tile) (src : Fin 16) (due : Due) : Statement (.copyo x src due) := by
  intro _ e h; cases h; refine ⟨?_, ?_, ?_⟩ <;> simp only [cObj] <;> omega
theorem coll (kind : CollKind) (x : Tile) (f : Fin 32) (due : Due) : Statement (.coll kind x f due) := by
  intro _ e h; cases h; have := CollKind.code_lt kind; refine ⟨?_, ?_, ?_⟩ <;> simp only [cObj] <;> omega
theorem publ (h : Fin 16) (due : Due) : Statement (.publ h due) := by
  intro _ e h; cases h; refine ⟨?_, ?_, ?_⟩ <;> simp only [cObj] <;> omega
theorem subsc (h t : Fin 16) (due : Due) : Statement (.subsc h t due) := by
  intro _ e h; cases h; refine ⟨?_, ?_, ?_⟩ <;> simp only [cObj] <;> omega
theorem pin (h : Fin 16) (due : Due) : Statement (.pin h due) := by
  intro _ e h; cases h; refine ⟨?_, ?_, ?_⟩ <;> simp only [cObj] <;> omega
theorem unpin (h : Fin 16) : Statement (.unpin h) := by
  intro _ e h; cases h; refine ⟨?_, ?_, ?_⟩ <;> simp only [cObj] <;> omega
theorem freeze (x : Tile) (due : Due) : Statement (.freeze x due) := by
  intro _ e h; cases h; refine ⟨?_, ?_, ?_⟩ <;> simp only [cObj] <;> omega
theorem thaw (x : Tile) (due : Due) : Statement (.thaw x due) := by
  intro _ e h; cases h; refine ⟨?_, ?_, ?_⟩ <;> simp only [cObj] <;> omega
theorem thawt (q : Fin 16) : Statement (.thawt q) := by
  intro _ e h; cases h; refine ⟨?_, ?_, ?_⟩ <;> simp only [cObj] <;> omega
theorem grant (x : Tile) (due : Due) : Statement (.grant x due) := by
  intro _ e h; cases h; refine ⟨?_, ?_, ?_⟩ <;> simp only [cObj] <;> omega
theorem castInvalidate (p : PageRef) (place : CastPlace) : Statement (.castInvalidate p place) := by intro _ e h; cases h
theorem thawAck (p : PageRef) (place : CastPlace) : Statement (.thawAck p place) := by intro _ e h; cases h
theorem thawCompleteMsg (core : Nat) (token : Nat) : Statement (.thawCompleteMsg core token) := by intro _ e h; cases h
theorem atom (op : AtomOp) (ord : Ord) (scope : Scope) (h : Fin 16) (a : Fin 64) (due : Due) : Statement (.atom op ord scope h a due) := by
  intro _ e h; cases h; have := AtomOp.code_lt op; have := Ord.code_lt ord; have := Scope.code_lt scope; refine ⟨?_, ?_, ?_⟩ <;> simp only [ySyn] <;> omega
theorem red (op : AtomOp) (rel : Bool) (scope : Scope) (h : Fin 16) (a : Fin 64) : Statement (.red op rel scope h a) := by
  intro _ e h; cases h; have := AtomOp.code_lt op; have := boolBit_lt rel; have := Scope.code_lt scope; refine ⟨?_, ?_, ?_⟩ <;> simp only [ySyn] <;> omega
theorem ldsync (acq : Bool) (scope : Scope) (h : Fin 16) (a : Fin 64) (due : Due) : Statement (.ldsync acq scope h a due) := by
  intro _ e h; cases h; have := boolBit_lt acq; have := Scope.code_lt scope; refine ⟨?_, ?_, ?_⟩ <;> simp only [ySyn] <;> omega
theorem stsync (rel : Bool) (scope : Scope) (h : Fin 16) (a : Fin 64) : Statement (.stsync rel scope h a) := by
  intro _ e h; cases h; have := boolBit_lt rel; have := Scope.code_lt scope; refine ⟨?_, ?_, ?_⟩ <;> simp only [ySyn] <;> omega
theorem barinit (scope : Scope) (h : Fin 16) (a : Fin 64) : Statement (.barinit scope h a) := by
  intro _ e h; cases h; have := Scope.code_lt scope; refine ⟨?_, ?_, ?_⟩ <;> simp only [ySyn] <;> omega
theorem barr (scope : Scope) (h : Fin 16) : Statement (.barr scope h) := by
  intro _ e h; cases h; have := Scope.code_lt scope; refine ⟨?_, ?_, ?_⟩ <;> simp only [ySyn] <;> omega
theorem barw (scope : Scope) (h : Fin 16) (due : Due) : Statement (.barw scope h due) := by
  intro _ e h; cases h; have := Scope.code_lt scope; refine ⟨?_, ?_, ?_⟩ <;> simp only [ySyn] <;> omega
theorem barrierParentArrival (child : PageRef) : Statement (.barrierParentArrival child) := by intro _ e h; cases h
theorem barrierChildFlip (child : PageRef) : Statement (.barrierChildFlip child) := by intro _ e h; cases h
theorem finit (f : Fin 32) : Statement (.finit f) := by
  intro _ e h; cases h; refine ⟨?_, ?_, ?_⟩ <;> simp only [ySyn] <;> omega
theorem fpush (f : Fin 32) (a : Fin 64) : Statement (.fpush f a) := by
  intro _ e h; cases h; refine ⟨?_, ?_, ?_⟩ <;> simp only [ySyn] <;> omega
theorem fpop (f : Fin 32) (a : Fin 64) : Statement (.fpop f a) := by
  intro _ e h; cases h; refine ⟨?_, ?_, ?_⟩ <;> simp only [ySyn] <;> omega
theorem fwait (f : Fin 32) (a : Fin 64) : Statement (.fwait f a) := by
  intro _ e h; cases h; refine ⟨?_, ?_, ?_⟩ <;> simp only [ySyn] <;> omega
theorem orphanCheck (core : Nat) : Statement (.orphanCheck core) := by intro _ e h; cases h
theorem qclr (d : Fin 64) (q : Fin 16) : Statement (.qclr d q) := by
  intro _ e h; cases h; refine ⟨?_, ?_, ?_⟩ <;> simp only [ySyn] <;> omega
theorem tstamp (due : Due) : Statement (.tstamp due) := by
  intro _ e h; cases h; refine ⟨?_, ?_, ?_⟩ <;> simp only [ySyn] <;> omega
theorem spawn (h : Fin 16) (a : Fin 64) (due : Due) : Statement (.spawn h a due) := by
  intro _ e h; cases h; refine ⟨?_, ?_, ?_⟩ <;> simp only [ySyn] <;> omega
theorem spawnw (h : Fin 16) (a : Fin 64) (due : Due) : Statement (.spawnw h a due) := by
  intro _ e h; cases h; refine ⟨?_, ?_, ?_⟩ <;> simp only [ySyn] <;> omega
theorem spawnwDeadlockBreak (die : Nat) : Statement (.spawnwDeadlockBreak die) := by intro _ e h; cases h
theorem sow (h : Fin 16) (a : Fin 64) (due : Due) : Statement (.sow h a due) := by
  intro _ e h; cases h; refine ⟨?_, ?_, ?_⟩ <;> simp only [ySyn] <;> omega
theorem bpost (h : Fin 16) (a : Fin 64) : Statement (.bpost h a) := by
  intro _ e h; cases h; refine ⟨?_, ?_, ?_⟩ <;> simp only [ySyn] <;> omega
theorem siblingEndMsg (plot : Nat) : Statement (.siblingEndMsg plot) := by intro _ e h; cases h
theorem siblingCancel (plot : Nat) : Statement (.siblingCancel plot) := by intro _ e h; cases h
theorem releaseListApply (plot : Nat) : Statement (.releaseListApply plot) := by intro _ e h; cases h
theorem bread (h : Fin 16) (due : Due) : Statement (.bread h due) := by
  intro _ e h; cases h; refine ⟨?_, ?_, ?_⟩ <;> simp only [ySyn] <;> omega
theorem plotrd (a : Fin 64) (due : Due) : Statement (.plotrd a due) := by
  intro _ e h; cases h; refine ⟨?_, ?_, ?_⟩ <;> simp only [ySyn] <;> omega
theorem trap (a : Fin 64) : Statement (.trap a) := by
  intro _ e h; cases h; refine ⟨?_, ?_, ?_⟩ <;> simp only [ySyn] <;> omega
theorem svc (port : Fin 64) (a : Fin 64) (due : Due) : Statement (.svc port a due) := by
  intro _ e h; cases h; refine ⟨?_, ?_, ?_⟩ <;> simp only [ySyn] <;> omega
theorem lateFault (core : Nat) : Statement (.lateFault core) := by intro _ e h; cases h
theorem trapPolicy (core : Nat) : Statement (.trapPolicy core) := by intro _ e h; cases h
theorem emulationDone (core : Nat) : Statement (.emulationDone core) := by intro _ e h; cases h
theorem preempt (core : Nat) : Statement (.preempt core) := by intro _ e h; cases h
theorem snapshotSave (core : Nat) : Statement (.snapshotSave core) := by intro _ e h; cases h
theorem taskResumption (tinst : Nat) (core : Nat) : Statement (.taskResumption tinst core) := by intro _ e h; cases h
theorem dispatchSelect (die : Nat) : Statement (.dispatchSelect die) := by intro _ e h; cases h
theorem reserve (die : Nat) (adm : Nat) : Statement (.reserve die adm) := by intro _ e h; cases h
theorem commit (die : Nat) (adm : Nat) : Statement (.commit die adm) := by intro _ e h; cases h
theorem backoffExpiry (die : Nat) (plot : Nat) : Statement (.backoffExpiry die plot) := by intro _ e h; cases h
theorem taskStart (core plot ix tinst member : Nat) : Statement (.taskStart core plot ix tinst member) := by intro _ e h; cases h
theorem taskOverdue (core : Nat) : Statement (.taskOverdue core) := by intro _ e h; cases h
theorem objMissingResolve (p : PageRef) : Statement (.objMissingResolve p) := by intro _ e h; cases h
theorem pageEviction (die : Nat) : Statement (.pageEviction die) := by intro _ e h; cases h
theorem pagePromotion (p : PageRef) : Statement (.pagePromotion p) := by intro _ e h; cases h
theorem pageMoveComplete (p : PageRef) : Statement (.pageMoveComplete p) := by intro _ e h; cases h
theorem rowActivation (r : RowRef) : Statement (.rowActivation r) := by intro _ e h; cases h
theorem rfmComplete (ctrl bank : Nat) : Statement (.rfmComplete ctrl bank) := by intro _ e h; cases h
theorem completionWrite (pair : Nat) : Statement (.completionWrite pair) := by intro _ e h; cases h
theorem sqTailDoorbell (pair : Nat) (v : BitVec 32) : Statement (.sqTailDoorbell pair v) := by intro _ e h; cases h
theorem cqHeadDoorbell (pair : Nat) (v : BitVec 32) : Statement (.cqHeadDoorbell pair v) := by intro _ e h; cases h
theorem mqHeadDoorbell (pair : Nat) (v : BitVec 32) : Statement (.mqHeadDoorbell pair v) := by intro _ e h; cases h
theorem qpEnable (pair : Nat) : Statement (.qpEnable pair) := by intro _ e h; cases h
theorem qpDisable (pair : Nat) : Statement (.qpDisable pair) := by intro _ e h; cases h
theorem registerWrite (off : Nat) (v : BitVec 32) : Statement (.registerWrite off v) := by intro _ e h; cases h
theorem hostBar2Read (at_ : HostAddr) (n : Nat) : Statement (.hostBar2Read at_ n) := by intro _ e h; cases h
theorem hostBar2Write (off : Nat) (data : List Byte) : Statement (.hostBar2Write off data) := by intro _ e h; cases h
theorem granuleTransfer (g : GranuleRef) (a : GranuleAccess) : Statement (.granuleTransfer g a) := by intro _ e h; cases h
theorem granuleTransferDone (g : GranuleRef) : Statement (.granuleTransferDone g) := by intro _ e h; cases h
theorem granuleTenureExpiry (g : GranuleRef) : Statement (.granuleTenureExpiry g) := by intro _ e h; cases h
theorem linkMessageReceive (src : Nat) (seq : Nat) (body : LinkBody) : Statement (.linkMessageReceive src seq body) := by intro _ e h; cases h
theorem linkRetransmit (dst : Nat) (seq : Nat) : Statement (.linkRetransmit dst seq) := by intro _ e h; cases h
theorem peerUnreachable (pkg : Nat) : Statement (.peerUnreachable pkg) := by intro _ e h; cases h
theorem timestampCorrection (ppm : Int) : Statement (.timestampCorrection ppm) := by intro _ e h; cases h
theorem correctedError (r : Resource) : Statement (.correctedError r) := by intro _ e h; cases h
theorem uncorrectableError (p : ErrorPlace) : Statement (.uncorrectableError p) := by intro _ e h; cases h
theorem thermalThrottle (die : Nat) : Statement (.thermalThrottle die) := by intro _ e h; cases h
theorem thermalTrip (die : Nat) : Statement (.thermalTrip die) := by intro _ e h; cases h
theorem powerCapSet (watts : Nat) : Statement (.powerCapSet watts) := by intro _ e h; cases h
theorem hostAdminPermit (on : Bool) : Statement (.hostAdminPermit on) := by intro _ e h; cases h
theorem firmwareUpdate (image : List FwImage) : Statement (.firmwareUpdate image) := by intro _ e h; cases h
theorem attestationReport (nonce : BitVec 256) : Statement (.attestationReport nonce) := by intro _ e h; cases h
theorem nop : Statement (.nop) := by
  intro _ e h; cases h; decide
theorem emptyBundle : Statement (.emptyBundle) := by intro _ e h; cases h
theorem ret : Statement (.ret) := by
  intro _ e h; cases h; refine ⟨?_, ?_, ?_⟩ <;> simp only [sCF] <;> omega
theorem retire : Statement (.retire) := by
  intro _ e h; cases h; refine ⟨?_, ?_, ?_⟩ <;> simp only [sCF] <;> omega
theorem yield : Statement (.yield) := by
  intro _ e h; cases h; refine ⟨?_, ?_, ?_⟩ <;> simp only [sCF] <;> omega
theorem resultWriteback : Statement (.resultWriteback) := by intro _ e h; cases h
theorem mabort : Statement (.mabort) := by
  intro _ e h; cases h; refine ⟨?_, ?_, ?_⟩ <;> simp only [mGen] <;> omega
theorem mswap : Statement (.mswap) := by
  intro _ e h; cases h; refine ⟨?_, ?_, ?_⟩ <;> simp only [mGen] <;> omega
theorem macclr : Statement (.macclr) := by
  intro _ e h; cases h; refine ⟨?_, ?_, ?_⟩ <;> simp only [mGen] <;> omega
theorem mloadCopy : Statement (.mloadCopy) := by intro _ e h; cases h
theorem engineWorkStart : Statement (.engineWorkStart) := by intro _ e h; cases h
theorem bLoadComplete : Statement (.bLoadComplete) := by intro _ e h; cases h
theorem mend : Statement (.mend) := by intro _ e h; cases h
theorem mnop : Statement (.mnop) := by intro _ e h; cases h
theorem brk : Statement (.brk) := by
  intro _ e h; cases h; refine ⟨?_, ?_, ?_⟩ <;> simp only [ySyn] <;> omega
theorem activationWindowReset : Statement (.activationWindowReset) := by intro _ e h; cases h
theorem powerOn : Statement (.powerOn) := by intro _ e h; cases h
theorem reset : Statement (.reset) := by intro _ e h; cases h
theorem pushArrival : Statement (.pushArrival) := by intro _ e h; cases h
theorem collComplete : Statement (.collComplete) := by intro _ e h; cases h
theorem collTimeout : Statement (.collTimeout) := by intro _ e h; cases h
theorem subscTimeout : Statement (.subscTimeout) := by intro _ e h; cases h
theorem objectRequestPerform : Statement (.objectRequestPerform) := by intro _ e h; cases h
theorem versionEvent : Statement (.versionEvent) := by intro _ e h; cases h
theorem slotFilled : Statement (.slotFilled) := by intro _ e h; cases h
theorem syncAccessPerform : Statement (.syncAccessPerform) := by intro _ e h; cases h
theorem barrierArrival : Statement (.barrierArrival) := by intro _ e h; cases h
theorem barrierTimeout : Statement (.barrierTimeout) := by intro _ e h; cases h
theorem landingArrival : Statement (.landingArrival) := by intro _ e h; cases h
theorem ballotPost : Statement (.ballotPost) := by intro _ e h; cases h
theorem svcAllocx : Statement (.svcAllocx) := by intro _ e h; cases h
theorem svcSpill : Statement (.svcSpill) := by intro _ e h; cases h
theorem svcTimeout : Statement (.svcTimeout) := by intro _ e h; cases h
theorem plotCreate : Statement (.plotCreate) := by intro _ e h; cases h
theorem plotClose : Statement (.plotClose) := by intro _ e h; cases h
theorem tasksetSubmit : Statement (.tasksetSubmit) := by intro _ e h; cases h
theorem objCreate : Statement (.objCreate) := by intro _ e h; cases h
theorem objWrite : Statement (.objWrite) := by intro _ e h; cases h
theorem objRead : Statement (.objRead) := by intro _ e h; cases h
theorem objFree : Statement (.objFree) := by intro _ e h; cases h
theorem policySet : Statement (.policySet) := by intro _ e h; cases h
theorem portBind : Statement (.portBind) := by intro _ e h; cases h
theorem taskResume : Statement (.taskResume) := by intro _ e h; cases h
theorem domainTerminate : Statement (.domainTerminate) := by intro _ e h; cases h
theorem debugAttach : Statement (.debugAttach) := by intro _ e h; cases h
theorem minhbmSet : Statement (.minhbmSet) := by intro _ e h; cases h
theorem snapRead : Statement (.snapRead) := by intro _ e h; cases h
theorem snapWrite : Statement (.snapWrite) := by intro _ e h; cases h
theorem journalRead : Statement (.journalRead) := by intro _ e h; cases h
theorem apertureSet : Statement (.apertureSet) := by intro _ e h; cases h

end Laws.Fits
end Sys2Proof
end

