-- ==== Sys2Proof/Laws/State.lean ====
section
/-! SUPPORT. What each update of a core or of the state leaves as it was, field by field, and what it writes. -/
namespace Sys2Proof.Machine

/-! ### Updates of a core -/

@[simp] theorem Core.done_id (c : Core) : (c.done).id = c.id := rfl
@[simp] theorem Core.done_run (c : Core) : (c.done).run = c.run := rfl
@[simp] theorem Core.done_stage (c : Core) : (c.done).stage = c.stage := rfl
@[simp] theorem Core.done_task (c : Core) : (c.done).task = c.task := rfl
@[simp] theorem Core.done_pc (c : Core) : (c.done).pc = c.pc := rfl
@[simp] theorem Core.done_x (c : Core) : (c.done).x = c.x := rfl
@[simp] theorem Core.done_a (c : Core) : (c.done).a = c.a := rfl
@[simp] theorem Core.done_p (c : Core) : (c.done).p = c.p := rfl
@[simp] theorem Core.done_v (c : Core) : (c.done).v = c.v := rfl
@[simp] theorem Core.done_m (c : Core) : (c.done).m = c.m := rfl
@[simp] theorem Core.done_q (c : Core) : (c.done).q = c.q := rfl
@[simp] theorem Core.done_h (c : Core) : (c.done).h = c.h := rfl
@[simp] theorem Core.done_f (c : Core) : (c.done).f = c.f := rfl
@[simp] theorem Core.done_mp (c : Core) : (c.done).mp = c.mp := rfl
@[simp] theorem Core.done_loops (c : Core) : (c.done).loops = c.loops := rfl
@[simp] theorem Core.done_calls (c : Core) : (c.done).calls = c.calls := rfl
@[simp] theorem Core.done_sbchk (c : Core) : (c.done).sbchk = c.sbchk := rfl
@[simp] theorem Core.done_scrlim (c : Core) : (c.done).scrlim = c.scrlim := rfl
@[simp] theorem Core.done_cyc (c : Core) : (c.done).cyc = c.cyc := rfl
@[simp] theorem Core.done_bundles (c : Core) : (c.done).bundles = c.bundles := rfl
@[simp] theorem Core.done_clkstop (c : Core) : (c.done).clkstop = c.clkstop := rfl
@[simp] theorem Core.done_waits (c : Core) : (c.done).waits = c.waits := rfl
@[simp] theorem Core.done_counting (c : Core) : (c.done).counting = c.counting := rfl
@[simp] theorem Core.done_tags (c : Core) : (c.done).tags = c.tags := rfl
@[simp] theorem Core.done_deferq (c : Core) : (c.done).deferq = c.deferq := rfl
@[simp] theorem Core.done_deferIn (c : Core) : (c.done).deferIn = c.deferIn := rfl
@[simp] theorem Core.done_randN (c : Core) : (c.done).randN = c.randN := rfl
@[simp] theorem Core.done_replay (c : Core) : (c.done).replay = c.replay := rfl
@[simp] theorem Core.done_emulated (c : Core) : (c.done).emulated = c.emulated := rfl
@[simp] theorem Core.done_pushMap (c : Core) : (c.done).pushMap = c.pushMap := rfl
@[simp] theorem Core.done_thawDone (c : Core) : (c.done).thawDone = c.thawDone := rfl
@[simp] theorem Core.done_scratch (c : Core) : (c.done).scratch = c.scratch := rfl
@[simp] theorem Core.done_marks (c : Core) : (c.done).marks = c.marks := rfl
@[simp] theorem Core.done_frames (c : Core) : (c.done).frames = c.frames := rfl
@[simp] theorem Core.done_code (c : Core) : (c.done).code = c.code := rfl
@[simp] theorem Core.done_codeLen (c : Core) : (c.done).codeLen = c.codeLen := rfl
@[simp] theorem Core.done_issued (c : Core) : (c.done).issued = c.issued := rfl
@[simp] theorem Core.done_nextIss (c : Core) : (c.done).nextIss = c.nextIss := rfl
@[simp] theorem Core.done_dueIss (c : Core) : (c.done).dueIss = c.dueIss := rfl
@[simp] theorem Core.done_redirect (c : Core) : (c.done).redirect = c.redirect := rfl
@[simp] theorem Core.done_nextPc (c : Core) : (c.done).nextPc = c.nextPc := rfl
@[simp] theorem Core.done_justIss (c : Core) : (c.done).justIss = c.justIss := rfl
@[simp] theorem Core.done_inflight (c : Core) : (c.done).inflight = c.inflight := rfl
@[simp] theorem Core.done_loads (c : Core) : (c.done).loads = c.loads := rfl
@[simp] theorem Core.done_endFx (c : Core) : (c.done).endFx = c.endFx := rfl
@[simp] theorem Core.done_iss (c : Core) : (c.done).iss = c.iss := rfl
@[simp] theorem Core.done_port (c : Core) : (c.done).port = c.port := rfl
@[simp] theorem Core.done_portStop (c : Core) : (c.done).portStop = c.portStop := rfl
@[simp] theorem Core.done_lastIss (c : Core) : (c.done).lastIss = c.lastIss := rfl
@[simp] theorem Core.done_overdue (c : Core) : (c.done).overdue = c.overdue := rfl
@[simp] theorem Core.done_fwait (c : Core) : (c.done).fwait = c.fwait := rfl
@[simp] theorem Core.done_spawnW (c : Core) : (c.done).spawnW = c.spawnW := rfl
@[simp] theorem Core.done_spawnFull (c : Core) : (c.done).spawnFull = c.spawnFull := rfl
@[simp] theorem Core.done_tmplW (c : Core) : (c.done).tmplW = c.tmplW := rfl
@[simp] theorem Core.done_late (c : Core) : (c.done).late = c.late := rfl
@[simp] theorem Core.done_lateKeep (c : Core) : (c.done).lateKeep = c.lateKeep := rfl
@[simp] theorem Core.done_cause (c : Core) : (c.done).cause = c.cause := rfl
@[simp] theorem Core.done_targ (c : Core) : (c.done).targ = c.targ := rfl
@[simp] theorem Core.done_retireIss (c : Core) : (c.done).retireIss = c.retireIss := rfl
@[simp] theorem Core.done_stopTs (c : Core) : (c.done).stopTs = c.stopTs := rfl
@[simp] theorem Core.done_eng (c : Core) : (c.done).eng = c.eng := rfl
@[simp] theorem Core.put_id (c : Core) (n : Nat) (w : Wr) : (c.put n w).id = c.id := rfl
@[simp] theorem Core.put_run (c : Core) (n : Nat) (w : Wr) : (c.put n w).run = c.run := rfl
@[simp] theorem Core.put_stage (c : Core) (n : Nat) (w : Wr) : (c.put n w).stage = c.stage := rfl
@[simp] theorem Core.put_task (c : Core) (n : Nat) (w : Wr) : (c.put n w).task = c.task := rfl
@[simp] theorem Core.put_pc (c : Core) (n : Nat) (w : Wr) : (c.put n w).pc = c.pc := rfl
@[simp] theorem Core.put_x (c : Core) (n : Nat) (w : Wr) : (c.put n w).x = c.x := rfl
@[simp] theorem Core.put_a (c : Core) (n : Nat) (w : Wr) : (c.put n w).a = c.a := rfl
@[simp] theorem Core.put_p (c : Core) (n : Nat) (w : Wr) : (c.put n w).p = c.p := rfl
@[simp] theorem Core.put_v (c : Core) (n : Nat) (w : Wr) : (c.put n w).v = c.v := rfl
@[simp] theorem Core.put_m (c : Core) (n : Nat) (w : Wr) : (c.put n w).m = c.m := rfl
@[simp] theorem Core.put_q (c : Core) (n : Nat) (w : Wr) : (c.put n w).q = c.q := rfl
@[simp] theorem Core.put_h (c : Core) (n : Nat) (w : Wr) : (c.put n w).h = c.h := rfl
@[simp] theorem Core.put_f (c : Core) (n : Nat) (w : Wr) : (c.put n w).f = c.f := rfl
@[simp] theorem Core.put_mp (c : Core) (n : Nat) (w : Wr) : (c.put n w).mp = c.mp := rfl
@[simp] theorem Core.put_loops (c : Core) (n : Nat) (w : Wr) : (c.put n w).loops = c.loops := rfl
@[simp] theorem Core.put_calls (c : Core) (n : Nat) (w : Wr) : (c.put n w).calls = c.calls := rfl
@[simp] theorem Core.put_sbchk (c : Core) (n : Nat) (w : Wr) : (c.put n w).sbchk = c.sbchk := rfl
@[simp] theorem Core.put_scrlim (c : Core) (n : Nat) (w : Wr) : (c.put n w).scrlim = c.scrlim := rfl
@[simp] theorem Core.put_cyc (c : Core) (n : Nat) (w : Wr) : (c.put n w).cyc = c.cyc := rfl
@[simp] theorem Core.put_bundles (c : Core) (n : Nat) (w : Wr) : (c.put n w).bundles = c.bundles := rfl
@[simp] theorem Core.put_clkstop (c : Core) (n : Nat) (w : Wr) : (c.put n w).clkstop = c.clkstop := rfl
@[simp] theorem Core.put_waits (c : Core) (n : Nat) (w : Wr) : (c.put n w).waits = c.waits := rfl
@[simp] theorem Core.put_counting (c : Core) (n : Nat) (w : Wr) : (c.put n w).counting = c.counting := rfl
@[simp] theorem Core.put_tags (c : Core) (n : Nat) (w : Wr) : (c.put n w).tags = c.tags := rfl
@[simp] theorem Core.put_deferq (c : Core) (n : Nat) (w : Wr) : (c.put n w).deferq = c.deferq := rfl
@[simp] theorem Core.put_deferIn (c : Core) (n : Nat) (w : Wr) : (c.put n w).deferIn = c.deferIn := rfl
@[simp] theorem Core.put_randN (c : Core) (n : Nat) (w : Wr) : (c.put n w).randN = c.randN := rfl
@[simp] theorem Core.put_replay (c : Core) (n : Nat) (w : Wr) : (c.put n w).replay = c.replay := rfl
@[simp] theorem Core.put_emulated (c : Core) (n : Nat) (w : Wr) : (c.put n w).emulated = c.emulated := rfl
@[simp] theorem Core.put_pushMap (c : Core) (n : Nat) (w : Wr) : (c.put n w).pushMap = c.pushMap := rfl
@[simp] theorem Core.put_thawDone (c : Core) (n : Nat) (w : Wr) : (c.put n w).thawDone = c.thawDone := rfl
@[simp] theorem Core.put_scratch (c : Core) (n : Nat) (w : Wr) : (c.put n w).scratch = c.scratch := rfl
@[simp] theorem Core.put_marks (c : Core) (n : Nat) (w : Wr) : (c.put n w).marks = c.marks := rfl
@[simp] theorem Core.put_frames (c : Core) (n : Nat) (w : Wr) : (c.put n w).frames = c.frames := rfl
@[simp] theorem Core.put_code (c : Core) (n : Nat) (w : Wr) : (c.put n w).code = c.code := rfl
@[simp] theorem Core.put_codeLen (c : Core) (n : Nat) (w : Wr) : (c.put n w).codeLen = c.codeLen := rfl
@[simp] theorem Core.put_issued (c : Core) (n : Nat) (w : Wr) : (c.put n w).issued = c.issued := rfl
@[simp] theorem Core.put_nextIss (c : Core) (n : Nat) (w : Wr) : (c.put n w).nextIss = c.nextIss := rfl
@[simp] theorem Core.put_dueIss (c : Core) (n : Nat) (w : Wr) : (c.put n w).dueIss = c.dueIss := rfl
@[simp] theorem Core.put_redirect (c : Core) (n : Nat) (w : Wr) : (c.put n w).redirect = c.redirect := rfl
@[simp] theorem Core.put_nextPc (c : Core) (n : Nat) (w : Wr) : (c.put n w).nextPc = c.nextPc := rfl
@[simp] theorem Core.put_justIss (c : Core) (n : Nat) (w : Wr) : (c.put n w).justIss = c.justIss := rfl
@[simp] theorem Core.put_loads (c : Core) (n : Nat) (w : Wr) : (c.put n w).loads = c.loads := rfl
@[simp] theorem Core.put_endFx (c : Core) (n : Nat) (w : Wr) : (c.put n w).endFx = c.endFx := rfl
@[simp] theorem Core.put_iss (c : Core) (n : Nat) (w : Wr) : (c.put n w).iss = c.iss := rfl
@[simp] theorem Core.put_out (c : Core) (n : Nat) (w : Wr) : (c.put n w).out = c.out := rfl
@[simp] theorem Core.put_port (c : Core) (n : Nat) (w : Wr) : (c.put n w).port = c.port := rfl
@[simp] theorem Core.put_portStop (c : Core) (n : Nat) (w : Wr) : (c.put n w).portStop = c.portStop := rfl
@[simp] theorem Core.put_lastIss (c : Core) (n : Nat) (w : Wr) : (c.put n w).lastIss = c.lastIss := rfl
@[simp] theorem Core.put_overdue (c : Core) (n : Nat) (w : Wr) : (c.put n w).overdue = c.overdue := rfl
@[simp] theorem Core.put_fwait (c : Core) (n : Nat) (w : Wr) : (c.put n w).fwait = c.fwait := rfl
@[simp] theorem Core.put_spawnW (c : Core) (n : Nat) (w : Wr) : (c.put n w).spawnW = c.spawnW := rfl
@[simp] theorem Core.put_spawnFull (c : Core) (n : Nat) (w : Wr) : (c.put n w).spawnFull = c.spawnFull := rfl
@[simp] theorem Core.put_tmplW (c : Core) (n : Nat) (w : Wr) : (c.put n w).tmplW = c.tmplW := rfl
@[simp] theorem Core.put_late (c : Core) (n : Nat) (w : Wr) : (c.put n w).late = c.late := rfl
@[simp] theorem Core.put_lateKeep (c : Core) (n : Nat) (w : Wr) : (c.put n w).lateKeep = c.lateKeep := rfl
@[simp] theorem Core.put_cause (c : Core) (n : Nat) (w : Wr) : (c.put n w).cause = c.cause := rfl
@[simp] theorem Core.put_targ (c : Core) (n : Nat) (w : Wr) : (c.put n w).targ = c.targ := rfl
@[simp] theorem Core.put_retireIss (c : Core) (n : Nat) (w : Wr) : (c.put n w).retireIss = c.retireIss := rfl
@[simp] theorem Core.put_stopTs (c : Core) (n : Nat) (w : Wr) : (c.put n w).stopTs = c.stopTs := rfl
@[simp] theorem Core.put_eng (c : Core) (n : Nat) (w : Wr) : (c.put n w).eng = c.eng := rfl
@[simp] theorem Core.fx_id (c : Core) (e : EndEffect) : (c.fx e).id = c.id := rfl
@[simp] theorem Core.fx_run (c : Core) (e : EndEffect) : (c.fx e).run = c.run := rfl
@[simp] theorem Core.fx_stage (c : Core) (e : EndEffect) : (c.fx e).stage = c.stage := rfl
@[simp] theorem Core.fx_task (c : Core) (e : EndEffect) : (c.fx e).task = c.task := rfl
@[simp] theorem Core.fx_pc (c : Core) (e : EndEffect) : (c.fx e).pc = c.pc := rfl
@[simp] theorem Core.fx_x (c : Core) (e : EndEffect) : (c.fx e).x = c.x := rfl
@[simp] theorem Core.fx_a (c : Core) (e : EndEffect) : (c.fx e).a = c.a := rfl
@[simp] theorem Core.fx_p (c : Core) (e : EndEffect) : (c.fx e).p = c.p := rfl
@[simp] theorem Core.fx_v (c : Core) (e : EndEffect) : (c.fx e).v = c.v := rfl
@[simp] theorem Core.fx_m (c : Core) (e : EndEffect) : (c.fx e).m = c.m := rfl
@[simp] theorem Core.fx_q (c : Core) (e : EndEffect) : (c.fx e).q = c.q := rfl
@[simp] theorem Core.fx_h (c : Core) (e : EndEffect) : (c.fx e).h = c.h := rfl
@[simp] theorem Core.fx_f (c : Core) (e : EndEffect) : (c.fx e).f = c.f := rfl
@[simp] theorem Core.fx_mp (c : Core) (e : EndEffect) : (c.fx e).mp = c.mp := rfl
@[simp] theorem Core.fx_loops (c : Core) (e : EndEffect) : (c.fx e).loops = c.loops := rfl
@[simp] theorem Core.fx_calls (c : Core) (e : EndEffect) : (c.fx e).calls = c.calls := rfl
@[simp] theorem Core.fx_sbchk (c : Core) (e : EndEffect) : (c.fx e).sbchk = c.sbchk := rfl
@[simp] theorem Core.fx_scrlim (c : Core) (e : EndEffect) : (c.fx e).scrlim = c.scrlim := rfl
@[simp] theorem Core.fx_cyc (c : Core) (e : EndEffect) : (c.fx e).cyc = c.cyc := rfl
@[simp] theorem Core.fx_bundles (c : Core) (e : EndEffect) : (c.fx e).bundles = c.bundles := rfl
@[simp] theorem Core.fx_clkstop (c : Core) (e : EndEffect) : (c.fx e).clkstop = c.clkstop := rfl
@[simp] theorem Core.fx_waits (c : Core) (e : EndEffect) : (c.fx e).waits = c.waits := rfl
@[simp] theorem Core.fx_counting (c : Core) (e : EndEffect) : (c.fx e).counting = c.counting := rfl
@[simp] theorem Core.fx_tags (c : Core) (e : EndEffect) : (c.fx e).tags = c.tags := rfl
@[simp] theorem Core.fx_deferq (c : Core) (e : EndEffect) : (c.fx e).deferq = c.deferq := rfl
@[simp] theorem Core.fx_deferIn (c : Core) (e : EndEffect) : (c.fx e).deferIn = c.deferIn := rfl
@[simp] theorem Core.fx_randN (c : Core) (e : EndEffect) : (c.fx e).randN = c.randN := rfl
@[simp] theorem Core.fx_replay (c : Core) (e : EndEffect) : (c.fx e).replay = c.replay := rfl
@[simp] theorem Core.fx_emulated (c : Core) (e : EndEffect) : (c.fx e).emulated = c.emulated := rfl
@[simp] theorem Core.fx_pushMap (c : Core) (e : EndEffect) : (c.fx e).pushMap = c.pushMap := rfl
@[simp] theorem Core.fx_thawDone (c : Core) (e : EndEffect) : (c.fx e).thawDone = c.thawDone := rfl
@[simp] theorem Core.fx_scratch (c : Core) (e : EndEffect) : (c.fx e).scratch = c.scratch := rfl
@[simp] theorem Core.fx_marks (c : Core) (e : EndEffect) : (c.fx e).marks = c.marks := rfl
@[simp] theorem Core.fx_frames (c : Core) (e : EndEffect) : (c.fx e).frames = c.frames := rfl
@[simp] theorem Core.fx_code (c : Core) (e : EndEffect) : (c.fx e).code = c.code := rfl
@[simp] theorem Core.fx_codeLen (c : Core) (e : EndEffect) : (c.fx e).codeLen = c.codeLen := rfl
@[simp] theorem Core.fx_issued (c : Core) (e : EndEffect) : (c.fx e).issued = c.issued := rfl
@[simp] theorem Core.fx_nextIss (c : Core) (e : EndEffect) : (c.fx e).nextIss = c.nextIss := rfl
@[simp] theorem Core.fx_dueIss (c : Core) (e : EndEffect) : (c.fx e).dueIss = c.dueIss := rfl
@[simp] theorem Core.fx_redirect (c : Core) (e : EndEffect) : (c.fx e).redirect = c.redirect := rfl
@[simp] theorem Core.fx_nextPc (c : Core) (e : EndEffect) : (c.fx e).nextPc = c.nextPc := rfl
@[simp] theorem Core.fx_justIss (c : Core) (e : EndEffect) : (c.fx e).justIss = c.justIss := rfl
@[simp] theorem Core.fx_inflight (c : Core) (e : EndEffect) : (c.fx e).inflight = c.inflight := rfl
@[simp] theorem Core.fx_loads (c : Core) (e : EndEffect) : (c.fx e).loads = c.loads := rfl
@[simp] theorem Core.fx_iss (c : Core) (e : EndEffect) : (c.fx e).iss = c.iss := rfl
@[simp] theorem Core.fx_out (c : Core) (e : EndEffect) : (c.fx e).out = c.out := rfl
@[simp] theorem Core.fx_port (c : Core) (e : EndEffect) : (c.fx e).port = c.port := rfl
@[simp] theorem Core.fx_portStop (c : Core) (e : EndEffect) : (c.fx e).portStop = c.portStop := rfl
@[simp] theorem Core.fx_lastIss (c : Core) (e : EndEffect) : (c.fx e).lastIss = c.lastIss := rfl
@[simp] theorem Core.fx_overdue (c : Core) (e : EndEffect) : (c.fx e).overdue = c.overdue := rfl
@[simp] theorem Core.fx_fwait (c : Core) (e : EndEffect) : (c.fx e).fwait = c.fwait := rfl
@[simp] theorem Core.fx_spawnW (c : Core) (e : EndEffect) : (c.fx e).spawnW = c.spawnW := rfl
@[simp] theorem Core.fx_spawnFull (c : Core) (e : EndEffect) : (c.fx e).spawnFull = c.spawnFull := rfl
@[simp] theorem Core.fx_tmplW (c : Core) (e : EndEffect) : (c.fx e).tmplW = c.tmplW := rfl
@[simp] theorem Core.fx_late (c : Core) (e : EndEffect) : (c.fx e).late = c.late := rfl
@[simp] theorem Core.fx_lateKeep (c : Core) (e : EndEffect) : (c.fx e).lateKeep = c.lateKeep := rfl
@[simp] theorem Core.fx_cause (c : Core) (e : EndEffect) : (c.fx e).cause = c.cause := rfl
@[simp] theorem Core.fx_targ (c : Core) (e : EndEffect) : (c.fx e).targ = c.targ := rfl
@[simp] theorem Core.fx_retireIss (c : Core) (e : EndEffect) : (c.fx e).retireIss = c.retireIss := rfl
@[simp] theorem Core.fx_stopTs (c : Core) (e : EndEffect) : (c.fx e).stopTs = c.stopTs := rfl
@[simp] theorem Core.fx_eng (c : Core) (e : EndEffect) : (c.fx e).eng = c.eng := rfl
@[simp] theorem Core.trapW_id (c : Core) (k : Cause) (w : Word) : (c.trapW k w).id = c.id := rfl
@[simp] theorem Core.trapW_run (c : Core) (k : Cause) (w : Word) : (c.trapW k w).run = c.run := rfl
@[simp] theorem Core.trapW_stage (c : Core) (k : Cause) (w : Word) : (c.trapW k w).stage = c.stage := rfl
@[simp] theorem Core.trapW_task (c : Core) (k : Cause) (w : Word) : (c.trapW k w).task = c.task := rfl
@[simp] theorem Core.trapW_pc (c : Core) (k : Cause) (w : Word) : (c.trapW k w).pc = c.pc := rfl
@[simp] theorem Core.trapW_x (c : Core) (k : Cause) (w : Word) : (c.trapW k w).x = c.x := rfl
@[simp] theorem Core.trapW_a (c : Core) (k : Cause) (w : Word) : (c.trapW k w).a = c.a := rfl
@[simp] theorem Core.trapW_p (c : Core) (k : Cause) (w : Word) : (c.trapW k w).p = c.p := rfl
@[simp] theorem Core.trapW_v (c : Core) (k : Cause) (w : Word) : (c.trapW k w).v = c.v := rfl
@[simp] theorem Core.trapW_m (c : Core) (k : Cause) (w : Word) : (c.trapW k w).m = c.m := rfl
@[simp] theorem Core.trapW_q (c : Core) (k : Cause) (w : Word) : (c.trapW k w).q = c.q := rfl
@[simp] theorem Core.trapW_h (c : Core) (k : Cause) (w : Word) : (c.trapW k w).h = c.h := rfl
@[simp] theorem Core.trapW_f (c : Core) (k : Cause) (w : Word) : (c.trapW k w).f = c.f := rfl
@[simp] theorem Core.trapW_mp (c : Core) (k : Cause) (w : Word) : (c.trapW k w).mp = c.mp := rfl
@[simp] theorem Core.trapW_loops (c : Core) (k : Cause) (w : Word) : (c.trapW k w).loops = c.loops := rfl
@[simp] theorem Core.trapW_calls (c : Core) (k : Cause) (w : Word) : (c.trapW k w).calls = c.calls := rfl
@[simp] theorem Core.trapW_sbchk (c : Core) (k : Cause) (w : Word) : (c.trapW k w).sbchk = c.sbchk := rfl
@[simp] theorem Core.trapW_scrlim (c : Core) (k : Cause) (w : Word) : (c.trapW k w).scrlim = c.scrlim := rfl
@[simp] theorem Core.trapW_cyc (c : Core) (k : Cause) (w : Word) : (c.trapW k w).cyc = c.cyc := rfl
@[simp] theorem Core.trapW_bundles (c : Core) (k : Cause) (w : Word) : (c.trapW k w).bundles = c.bundles := rfl
@[simp] theorem Core.trapW_clkstop (c : Core) (k : Cause) (w : Word) : (c.trapW k w).clkstop = c.clkstop := rfl
@[simp] theorem Core.trapW_waits (c : Core) (k : Cause) (w : Word) : (c.trapW k w).waits = c.waits := rfl
@[simp] theorem Core.trapW_counting (c : Core) (k : Cause) (w : Word) : (c.trapW k w).counting = c.counting := rfl
@[simp] theorem Core.trapW_tags (c : Core) (k : Cause) (w : Word) : (c.trapW k w).tags = c.tags := rfl
@[simp] theorem Core.trapW_deferq (c : Core) (k : Cause) (w : Word) : (c.trapW k w).deferq = c.deferq := rfl
@[simp] theorem Core.trapW_deferIn (c : Core) (k : Cause) (w : Word) : (c.trapW k w).deferIn = c.deferIn := rfl
@[simp] theorem Core.trapW_randN (c : Core) (k : Cause) (w : Word) : (c.trapW k w).randN = c.randN := rfl
@[simp] theorem Core.trapW_replay (c : Core) (k : Cause) (w : Word) : (c.trapW k w).replay = c.replay := rfl
@[simp] theorem Core.trapW_emulated (c : Core) (k : Cause) (w : Word) : (c.trapW k w).emulated = c.emulated := rfl
@[simp] theorem Core.trapW_pushMap (c : Core) (k : Cause) (w : Word) : (c.trapW k w).pushMap = c.pushMap := rfl
@[simp] theorem Core.trapW_thawDone (c : Core) (k : Cause) (w : Word) : (c.trapW k w).thawDone = c.thawDone := rfl
@[simp] theorem Core.trapW_scratch (c : Core) (k : Cause) (w : Word) : (c.trapW k w).scratch = c.scratch := rfl
@[simp] theorem Core.trapW_marks (c : Core) (k : Cause) (w : Word) : (c.trapW k w).marks = c.marks := rfl
@[simp] theorem Core.trapW_frames (c : Core) (k : Cause) (w : Word) : (c.trapW k w).frames = c.frames := rfl
@[simp] theorem Core.trapW_code (c : Core) (k : Cause) (w : Word) : (c.trapW k w).code = c.code := rfl
@[simp] theorem Core.trapW_codeLen (c : Core) (k : Cause) (w : Word) : (c.trapW k w).codeLen = c.codeLen := rfl
@[simp] theorem Core.trapW_issued (c : Core) (k : Cause) (w : Word) : (c.trapW k w).issued = c.issued := rfl
@[simp] theorem Core.trapW_nextIss (c : Core) (k : Cause) (w : Word) : (c.trapW k w).nextIss = c.nextIss := rfl
@[simp] theorem Core.trapW_dueIss (c : Core) (k : Cause) (w : Word) : (c.trapW k w).dueIss = c.dueIss := rfl
@[simp] theorem Core.trapW_redirect (c : Core) (k : Cause) (w : Word) : (c.trapW k w).redirect = c.redirect := rfl
@[simp] theorem Core.trapW_nextPc (c : Core) (k : Cause) (w : Word) : (c.trapW k w).nextPc = c.nextPc := rfl
@[simp] theorem Core.trapW_justIss (c : Core) (k : Cause) (w : Word) : (c.trapW k w).justIss = c.justIss := rfl
@[simp] theorem Core.trapW_inflight (c : Core) (k : Cause) (w : Word) : (c.trapW k w).inflight = c.inflight := rfl
@[simp] theorem Core.trapW_loads (c : Core) (k : Cause) (w : Word) : (c.trapW k w).loads = c.loads := rfl
@[simp] theorem Core.trapW_endFx (c : Core) (k : Cause) (w : Word) : (c.trapW k w).endFx = c.endFx := rfl
@[simp] theorem Core.trapW_iss (c : Core) (k : Cause) (w : Word) : (c.trapW k w).iss = c.iss := rfl
@[simp] theorem Core.trapW_port (c : Core) (k : Cause) (w : Word) : (c.trapW k w).port = c.port := rfl
@[simp] theorem Core.trapW_portStop (c : Core) (k : Cause) (w : Word) : (c.trapW k w).portStop = c.portStop := rfl
@[simp] theorem Core.trapW_lastIss (c : Core) (k : Cause) (w : Word) : (c.trapW k w).lastIss = c.lastIss := rfl
@[simp] theorem Core.trapW_overdue (c : Core) (k : Cause) (w : Word) : (c.trapW k w).overdue = c.overdue := rfl
@[simp] theorem Core.trapW_fwait (c : Core) (k : Cause) (w : Word) : (c.trapW k w).fwait = c.fwait := rfl
@[simp] theorem Core.trapW_spawnW (c : Core) (k : Cause) (w : Word) : (c.trapW k w).spawnW = c.spawnW := rfl
@[simp] theorem Core.trapW_spawnFull (c : Core) (k : Cause) (w : Word) : (c.trapW k w).spawnFull = c.spawnFull := rfl
@[simp] theorem Core.trapW_tmplW (c : Core) (k : Cause) (w : Word) : (c.trapW k w).tmplW = c.tmplW := rfl
@[simp] theorem Core.trapW_late (c : Core) (k : Cause) (w : Word) : (c.trapW k w).late = c.late := rfl
@[simp] theorem Core.trapW_lateKeep (c : Core) (k : Cause) (w : Word) : (c.trapW k w).lateKeep = c.lateKeep := rfl
@[simp] theorem Core.trapW_cause (c : Core) (k : Cause) (w : Word) : (c.trapW k w).cause = c.cause := rfl
@[simp] theorem Core.trapW_targ (c : Core) (k : Cause) (w : Word) : (c.trapW k w).targ = c.targ := rfl
@[simp] theorem Core.trapW_retireIss (c : Core) (k : Cause) (w : Word) : (c.trapW k w).retireIss = c.retireIss := rfl
@[simp] theorem Core.trapW_stopTs (c : Core) (k : Cause) (w : Word) : (c.trapW k w).stopTs = c.stopTs := rfl
@[simp] theorem Core.trapW_eng (c : Core) (k : Cause) (w : Word) : (c.trapW k w).eng = c.eng := rfl
@[simp] theorem Core.hold_id (c : Core) : (c.hold).id = c.id := rfl
@[simp] theorem Core.hold_run (c : Core) : (c.hold).run = c.run := rfl
@[simp] theorem Core.hold_stage (c : Core) : (c.hold).stage = c.stage := rfl
@[simp] theorem Core.hold_task (c : Core) : (c.hold).task = c.task := rfl
@[simp] theorem Core.hold_pc (c : Core) : (c.hold).pc = c.pc := rfl
@[simp] theorem Core.hold_x (c : Core) : (c.hold).x = c.x := rfl
@[simp] theorem Core.hold_a (c : Core) : (c.hold).a = c.a := rfl
@[simp] theorem Core.hold_p (c : Core) : (c.hold).p = c.p := rfl
@[simp] theorem Core.hold_v (c : Core) : (c.hold).v = c.v := rfl
@[simp] theorem Core.hold_m (c : Core) : (c.hold).m = c.m := rfl
@[simp] theorem Core.hold_q (c : Core) : (c.hold).q = c.q := rfl
@[simp] theorem Core.hold_h (c : Core) : (c.hold).h = c.h := rfl
@[simp] theorem Core.hold_f (c : Core) : (c.hold).f = c.f := rfl
@[simp] theorem Core.hold_mp (c : Core) : (c.hold).mp = c.mp := rfl
@[simp] theorem Core.hold_loops (c : Core) : (c.hold).loops = c.loops := rfl
@[simp] theorem Core.hold_calls (c : Core) : (c.hold).calls = c.calls := rfl
@[simp] theorem Core.hold_sbchk (c : Core) : (c.hold).sbchk = c.sbchk := rfl
@[simp] theorem Core.hold_scrlim (c : Core) : (c.hold).scrlim = c.scrlim := rfl
@[simp] theorem Core.hold_cyc (c : Core) : (c.hold).cyc = c.cyc := rfl
@[simp] theorem Core.hold_bundles (c : Core) : (c.hold).bundles = c.bundles := rfl
@[simp] theorem Core.hold_clkstop (c : Core) : (c.hold).clkstop = c.clkstop := rfl
@[simp] theorem Core.hold_waits (c : Core) : (c.hold).waits = c.waits := rfl
@[simp] theorem Core.hold_counting (c : Core) : (c.hold).counting = c.counting := rfl
@[simp] theorem Core.hold_tags (c : Core) : (c.hold).tags = c.tags := rfl
@[simp] theorem Core.hold_deferq (c : Core) : (c.hold).deferq = c.deferq := rfl
@[simp] theorem Core.hold_deferIn (c : Core) : (c.hold).deferIn = c.deferIn := rfl
@[simp] theorem Core.hold_randN (c : Core) : (c.hold).randN = c.randN := rfl
@[simp] theorem Core.hold_replay (c : Core) : (c.hold).replay = c.replay := rfl
@[simp] theorem Core.hold_emulated (c : Core) : (c.hold).emulated = c.emulated := rfl
@[simp] theorem Core.hold_pushMap (c : Core) : (c.hold).pushMap = c.pushMap := rfl
@[simp] theorem Core.hold_thawDone (c : Core) : (c.hold).thawDone = c.thawDone := rfl
@[simp] theorem Core.hold_scratch (c : Core) : (c.hold).scratch = c.scratch := rfl
@[simp] theorem Core.hold_marks (c : Core) : (c.hold).marks = c.marks := rfl
@[simp] theorem Core.hold_frames (c : Core) : (c.hold).frames = c.frames := rfl
@[simp] theorem Core.hold_code (c : Core) : (c.hold).code = c.code := rfl
@[simp] theorem Core.hold_codeLen (c : Core) : (c.hold).codeLen = c.codeLen := rfl
@[simp] theorem Core.hold_issued (c : Core) : (c.hold).issued = c.issued := rfl
@[simp] theorem Core.hold_nextIss (c : Core) : (c.hold).nextIss = c.nextIss := rfl
@[simp] theorem Core.hold_dueIss (c : Core) : (c.hold).dueIss = c.dueIss := rfl
@[simp] theorem Core.hold_redirect (c : Core) : (c.hold).redirect = c.redirect := rfl
@[simp] theorem Core.hold_nextPc (c : Core) : (c.hold).nextPc = c.nextPc := rfl
@[simp] theorem Core.hold_justIss (c : Core) : (c.hold).justIss = c.justIss := rfl
@[simp] theorem Core.hold_inflight (c : Core) : (c.hold).inflight = c.inflight := rfl
@[simp] theorem Core.hold_loads (c : Core) : (c.hold).loads = c.loads := rfl
@[simp] theorem Core.hold_endFx (c : Core) : (c.hold).endFx = c.endFx := rfl
@[simp] theorem Core.hold_iss (c : Core) : (c.hold).iss = c.iss := rfl
@[simp] theorem Core.hold_port (c : Core) : (c.hold).port = c.port := rfl
@[simp] theorem Core.hold_portStop (c : Core) : (c.hold).portStop = c.portStop := rfl
@[simp] theorem Core.hold_lastIss (c : Core) : (c.hold).lastIss = c.lastIss := rfl
@[simp] theorem Core.hold_overdue (c : Core) : (c.hold).overdue = c.overdue := rfl
@[simp] theorem Core.hold_fwait (c : Core) : (c.hold).fwait = c.fwait := rfl
@[simp] theorem Core.hold_spawnW (c : Core) : (c.hold).spawnW = c.spawnW := rfl
@[simp] theorem Core.hold_spawnFull (c : Core) : (c.hold).spawnFull = c.spawnFull := rfl
@[simp] theorem Core.hold_tmplW (c : Core) : (c.hold).tmplW = c.tmplW := rfl
@[simp] theorem Core.hold_late (c : Core) : (c.hold).late = c.late := rfl
@[simp] theorem Core.hold_lateKeep (c : Core) : (c.hold).lateKeep = c.lateKeep := rfl
@[simp] theorem Core.hold_cause (c : Core) : (c.hold).cause = c.cause := rfl
@[simp] theorem Core.hold_targ (c : Core) : (c.hold).targ = c.targ := rfl
@[simp] theorem Core.hold_retireIss (c : Core) : (c.hold).retireIss = c.retireIss := rfl
@[simp] theorem Core.hold_stopTs (c : Core) : (c.hold).stopTs = c.stopTs := rfl
@[simp] theorem Core.hold_eng (c : Core) : (c.hold).eng = c.eng := rfl
@[simp] theorem Core.stopWith_id (c : Core) (k : Cause) (w : Word) (r : Option Replay) : (c.stopWith k w r).id = c.id := rfl
@[simp] theorem Core.stopWith_stage (c : Core) (k : Cause) (w : Word) (r : Option Replay) : (c.stopWith k w r).stage = c.stage := rfl
@[simp] theorem Core.stopWith_task (c : Core) (k : Cause) (w : Word) (r : Option Replay) : (c.stopWith k w r).task = c.task := rfl
@[simp] theorem Core.stopWith_pc (c : Core) (k : Cause) (w : Word) (r : Option Replay) : (c.stopWith k w r).pc = c.pc := rfl
@[simp] theorem Core.stopWith_x (c : Core) (k : Cause) (w : Word) (r : Option Replay) : (c.stopWith k w r).x = c.x := rfl
@[simp] theorem Core.stopWith_a (c : Core) (k : Cause) (w : Word) (r : Option Replay) : (c.stopWith k w r).a = c.a := rfl
@[simp] theorem Core.stopWith_p (c : Core) (k : Cause) (w : Word) (r : Option Replay) : (c.stopWith k w r).p = c.p := rfl
@[simp] theorem Core.stopWith_v (c : Core) (k : Cause) (w : Word) (r : Option Replay) : (c.stopWith k w r).v = c.v := rfl
@[simp] theorem Core.stopWith_m (c : Core) (k : Cause) (w : Word) (r : Option Replay) : (c.stopWith k w r).m = c.m := rfl
@[simp] theorem Core.stopWith_q (c : Core) (k : Cause) (w : Word) (r : Option Replay) : (c.stopWith k w r).q = c.q := rfl
@[simp] theorem Core.stopWith_h (c : Core) (k : Cause) (w : Word) (r : Option Replay) : (c.stopWith k w r).h = c.h := rfl
@[simp] theorem Core.stopWith_f (c : Core) (k : Cause) (w : Word) (r : Option Replay) : (c.stopWith k w r).f = c.f := rfl
@[simp] theorem Core.stopWith_mp (c : Core) (k : Cause) (w : Word) (r : Option Replay) : (c.stopWith k w r).mp = c.mp := rfl
@[simp] theorem Core.stopWith_loops (c : Core) (k : Cause) (w : Word) (r : Option Replay) : (c.stopWith k w r).loops = c.loops := rfl
@[simp] theorem Core.stopWith_calls (c : Core) (k : Cause) (w : Word) (r : Option Replay) : (c.stopWith k w r).calls = c.calls := rfl
@[simp] theorem Core.stopWith_sbchk (c : Core) (k : Cause) (w : Word) (r : Option Replay) : (c.stopWith k w r).sbchk = c.sbchk := rfl
@[simp] theorem Core.stopWith_scrlim (c : Core) (k : Cause) (w : Word) (r : Option Replay) : (c.stopWith k w r).scrlim = c.scrlim := rfl
@[simp] theorem Core.stopWith_cyc (c : Core) (k : Cause) (w : Word) (r : Option Replay) : (c.stopWith k w r).cyc = c.cyc := rfl
@[simp] theorem Core.stopWith_bundles (c : Core) (k : Cause) (w : Word) (r : Option Replay) : (c.stopWith k w r).bundles = c.bundles := rfl
@[simp] theorem Core.stopWith_clkstop (c : Core) (k : Cause) (w : Word) (r : Option Replay) : (c.stopWith k w r).clkstop = c.clkstop := rfl
@[simp] theorem Core.stopWith_waits (c : Core) (k : Cause) (w : Word) (r : Option Replay) : (c.stopWith k w r).waits = c.waits := rfl
@[simp] theorem Core.stopWith_counting (c : Core) (k : Cause) (w : Word) (r : Option Replay) : (c.stopWith k w r).counting = c.counting := rfl
@[simp] theorem Core.stopWith_tags (c : Core) (k : Cause) (w : Word) (r : Option Replay) : (c.stopWith k w r).tags = c.tags := rfl
@[simp] theorem Core.stopWith_deferq (c : Core) (k : Cause) (w : Word) (r : Option Replay) : (c.stopWith k w r).deferq = c.deferq := rfl
@[simp] theorem Core.stopWith_deferIn (c : Core) (k : Cause) (w : Word) (r : Option Replay) : (c.stopWith k w r).deferIn = c.deferIn := rfl
@[simp] theorem Core.stopWith_randN (c : Core) (k : Cause) (w : Word) (r : Option Replay) : (c.stopWith k w r).randN = c.randN := rfl
@[simp] theorem Core.stopWith_emulated (c : Core) (k : Cause) (w : Word) (r : Option Replay) : (c.stopWith k w r).emulated = c.emulated := rfl
@[simp] theorem Core.stopWith_pushMap (c : Core) (k : Cause) (w : Word) (r : Option Replay) : (c.stopWith k w r).pushMap = c.pushMap := rfl
@[simp] theorem Core.stopWith_thawDone (c : Core) (k : Cause) (w : Word) (r : Option Replay) : (c.stopWith k w r).thawDone = c.thawDone := rfl
@[simp] theorem Core.stopWith_scratch (c : Core) (k : Cause) (w : Word) (r : Option Replay) : (c.stopWith k w r).scratch = c.scratch := rfl
@[simp] theorem Core.stopWith_marks (c : Core) (k : Cause) (w : Word) (r : Option Replay) : (c.stopWith k w r).marks = c.marks := rfl
@[simp] theorem Core.stopWith_frames (c : Core) (k : Cause) (w : Word) (r : Option Replay) : (c.stopWith k w r).frames = c.frames := rfl
@[simp] theorem Core.stopWith_code (c : Core) (k : Cause) (w : Word) (r : Option Replay) : (c.stopWith k w r).code = c.code := rfl
@[simp] theorem Core.stopWith_codeLen (c : Core) (k : Cause) (w : Word) (r : Option Replay) : (c.stopWith k w r).codeLen = c.codeLen := rfl
@[simp] theorem Core.stopWith_issued (c : Core) (k : Cause) (w : Word) (r : Option Replay) : (c.stopWith k w r).issued = c.issued := rfl
@[simp] theorem Core.stopWith_nextIss (c : Core) (k : Cause) (w : Word) (r : Option Replay) : (c.stopWith k w r).nextIss = c.nextIss := rfl
@[simp] theorem Core.stopWith_dueIss (c : Core) (k : Cause) (w : Word) (r : Option Replay) : (c.stopWith k w r).dueIss = c.dueIss := rfl
@[simp] theorem Core.stopWith_redirect (c : Core) (k : Cause) (w : Word) (r : Option Replay) : (c.stopWith k w r).redirect = c.redirect := rfl
@[simp] theorem Core.stopWith_nextPc (c : Core) (k : Cause) (w : Word) (r : Option Replay) : (c.stopWith k w r).nextPc = c.nextPc := rfl
@[simp] theorem Core.stopWith_justIss (c : Core) (k : Cause) (w : Word) (r : Option Replay) : (c.stopWith k w r).justIss = c.justIss := rfl
@[simp] theorem Core.stopWith_inflight (c : Core) (k : Cause) (w : Word) (r : Option Replay) : (c.stopWith k w r).inflight = c.inflight := rfl
@[simp] theorem Core.stopWith_loads (c : Core) (k : Cause) (w : Word) (r : Option Replay) : (c.stopWith k w r).loads = c.loads := rfl
@[simp] theorem Core.stopWith_endFx (c : Core) (k : Cause) (w : Word) (r : Option Replay) : (c.stopWith k w r).endFx = c.endFx := rfl
@[simp] theorem Core.stopWith_iss (c : Core) (k : Cause) (w : Word) (r : Option Replay) : (c.stopWith k w r).iss = c.iss := rfl
@[simp] theorem Core.stopWith_port (c : Core) (k : Cause) (w : Word) (r : Option Replay) : (c.stopWith k w r).port = c.port := rfl
@[simp] theorem Core.stopWith_portStop (c : Core) (k : Cause) (w : Word) (r : Option Replay) : (c.stopWith k w r).portStop = c.portStop := rfl
@[simp] theorem Core.stopWith_lastIss (c : Core) (k : Cause) (w : Word) (r : Option Replay) : (c.stopWith k w r).lastIss = c.lastIss := rfl
@[simp] theorem Core.stopWith_overdue (c : Core) (k : Cause) (w : Word) (r : Option Replay) : (c.stopWith k w r).overdue = c.overdue := rfl
@[simp] theorem Core.stopWith_late (c : Core) (k : Cause) (w : Word) (r : Option Replay) : (c.stopWith k w r).late = c.late := rfl
@[simp] theorem Core.stopWith_lateKeep (c : Core) (k : Cause) (w : Word) (r : Option Replay) : (c.stopWith k w r).lateKeep = c.lateKeep := rfl
@[simp] theorem Core.stopWith_retireIss (c : Core) (k : Cause) (w : Word) (r : Option Replay) : (c.stopWith k w r).retireIss = c.retireIss := rfl
@[simp] theorem Core.stopWith_stopTs (c : Core) (k : Cause) (w : Word) (r : Option Replay) : (c.stopWith k w r).stopTs = c.stopTs := rfl
@[simp] theorem Core.stopWith_eng (c : Core) (k : Cause) (w : Word) (r : Option Replay) : (c.stopWith k w r).eng = c.eng := rfl
@[simp] theorem Core.done_out (c : Core) : c.done.out = .performed := rfl
@[simp] theorem Core.put_inflight (c : Core) (n : Nat) (w : Wr) : (c.put n w).inflight = c.inflight ++ [⟨c.cyc + n - 1, w⟩] := rfl
@[simp] theorem Core.fx_endFx (c : Core) (e : EndEffect) : (c.fx e).endFx = c.endFx ++ [e] := rfl
@[simp] theorem Core.trapW_out (c : Core) (k : Cause) (w : Word) : (c.trapW k w).out = .trapped k w := rfl
@[simp] theorem Core.hold_out (c : Core) : c.hold.out = .held := rfl
@[simp] theorem Core.stopWith_run (c : Core) (k : Cause) (w : Word) (r : Option Replay) : (c.stopWith k w r).run = .trapped := rfl
@[simp] theorem Core.stopWith_cause (c : Core) (k : Cause) (w : Word) (r : Option Replay) : (c.stopWith k w r).cause = some k := rfl
@[simp] theorem Core.stopWith_targ (c : Core) (k : Cause) (w : Word) (r : Option Replay) : (c.stopWith k w r).targ = w := rfl
@[simp] theorem Core.stopWith_replay (c : Core) (k : Cause) (w : Word) (r : Option Replay) : (c.stopWith k w r).replay = r := rfl

/-! ### Registers of a core after them -/

@[simp] theorem Core.done_rx (c : Core) (r : Fin 64) : (c.done).rx r = c.rx r := rfl
@[simp] theorem Core.done_ra (c : Core) (r : Fin 16) : (c.done).ra r = c.ra r := rfl
@[simp] theorem Core.done_rp (c : Core) (r : Fin 16) : (c.done).rp r = c.rp r := rfl
@[simp] theorem Core.done_rv (c : Core) (r : Fin 32) : (c.done).rv r = c.rv r := rfl
@[simp] theorem Core.done_rm (c : Core) (r : Fin 8) : (c.done).rm r = c.rm r := rfl
@[simp] theorem Core.done_rmp (c : Core) (r : Fin 8) : (c.done).rmp r = c.rmp r := rfl
@[simp] theorem Core.done_rh (c : Core) (r : Fin 16) : (c.done).rh r = c.rh r := rfl
@[simp] theorem Core.done_rf (c : Core) (r : Fin 32) : (c.done).rf r = c.rf r := rfl
@[simp] theorem Core.done_rq (c : Core) (r : Fin 16) : (c.done).rq r = c.rq r := rfl
@[simp] theorem Core.put_rx (c : Core) (n : Nat) (w : Wr) (r : Fin 64) : (c.put n w).rx r = c.rx r := rfl
@[simp] theorem Core.put_ra (c : Core) (n : Nat) (w : Wr) (r : Fin 16) : (c.put n w).ra r = c.ra r := rfl
@[simp] theorem Core.put_rp (c : Core) (n : Nat) (w : Wr) (r : Fin 16) : (c.put n w).rp r = c.rp r := rfl
@[simp] theorem Core.put_rv (c : Core) (n : Nat) (w : Wr) (r : Fin 32) : (c.put n w).rv r = c.rv r := rfl
@[simp] theorem Core.put_rm (c : Core) (n : Nat) (w : Wr) (r : Fin 8) : (c.put n w).rm r = c.rm r := rfl
@[simp] theorem Core.put_rmp (c : Core) (n : Nat) (w : Wr) (r : Fin 8) : (c.put n w).rmp r = c.rmp r := rfl
@[simp] theorem Core.put_rh (c : Core) (n : Nat) (w : Wr) (r : Fin 16) : (c.put n w).rh r = c.rh r := rfl
@[simp] theorem Core.put_rf (c : Core) (n : Nat) (w : Wr) (r : Fin 32) : (c.put n w).rf r = c.rf r := rfl
@[simp] theorem Core.put_rq (c : Core) (n : Nat) (w : Wr) (r : Fin 16) : (c.put n w).rq r = c.rq r := rfl
@[simp] theorem Core.fx_rx (c : Core) (e : EndEffect) (r : Fin 64) : (c.fx e).rx r = c.rx r := rfl
@[simp] theorem Core.fx_ra (c : Core) (e : EndEffect) (r : Fin 16) : (c.fx e).ra r = c.ra r := rfl
@[simp] theorem Core.fx_rp (c : Core) (e : EndEffect) (r : Fin 16) : (c.fx e).rp r = c.rp r := rfl
@[simp] theorem Core.fx_rv (c : Core) (e : EndEffect) (r : Fin 32) : (c.fx e).rv r = c.rv r := rfl
@[simp] theorem Core.fx_rm (c : Core) (e : EndEffect) (r : Fin 8) : (c.fx e).rm r = c.rm r := rfl
@[simp] theorem Core.fx_rmp (c : Core) (e : EndEffect) (r : Fin 8) : (c.fx e).rmp r = c.rmp r := rfl
@[simp] theorem Core.fx_rh (c : Core) (e : EndEffect) (r : Fin 16) : (c.fx e).rh r = c.rh r := rfl
@[simp] theorem Core.fx_rf (c : Core) (e : EndEffect) (r : Fin 32) : (c.fx e).rf r = c.rf r := rfl
@[simp] theorem Core.fx_rq (c : Core) (e : EndEffect) (r : Fin 16) : (c.fx e).rq r = c.rq r := rfl
@[simp] theorem Core.trapW_rx (c : Core) (k : Cause) (w : Word) (r : Fin 64) : (c.trapW k w).rx r = c.rx r := rfl
@[simp] theorem Core.trapW_ra (c : Core) (k : Cause) (w : Word) (r : Fin 16) : (c.trapW k w).ra r = c.ra r := rfl
@[simp] theorem Core.trapW_rp (c : Core) (k : Cause) (w : Word) (r : Fin 16) : (c.trapW k w).rp r = c.rp r := rfl
@[simp] theorem Core.trapW_rv (c : Core) (k : Cause) (w : Word) (r : Fin 32) : (c.trapW k w).rv r = c.rv r := rfl
@[simp] theorem Core.trapW_rm (c : Core) (k : Cause) (w : Word) (r : Fin 8) : (c.trapW k w).rm r = c.rm r := rfl
@[simp] theorem Core.trapW_rmp (c : Core) (k : Cause) (w : Word) (r : Fin 8) : (c.trapW k w).rmp r = c.rmp r := rfl
@[simp] theorem Core.trapW_rh (c : Core) (k : Cause) (w : Word) (r : Fin 16) : (c.trapW k w).rh r = c.rh r := rfl
@[simp] theorem Core.trapW_rf (c : Core) (k : Cause) (w : Word) (r : Fin 32) : (c.trapW k w).rf r = c.rf r := rfl
@[simp] theorem Core.trapW_rq (c : Core) (k : Cause) (w : Word) (r : Fin 16) : (c.trapW k w).rq r = c.rq r := rfl
@[simp] theorem Core.hold_rx (c : Core) (r : Fin 64) : (c.hold).rx r = c.rx r := rfl
@[simp] theorem Core.hold_ra (c : Core) (r : Fin 16) : (c.hold).ra r = c.ra r := rfl
@[simp] theorem Core.hold_rp (c : Core) (r : Fin 16) : (c.hold).rp r = c.rp r := rfl
@[simp] theorem Core.hold_rv (c : Core) (r : Fin 32) : (c.hold).rv r = c.rv r := rfl
@[simp] theorem Core.hold_rm (c : Core) (r : Fin 8) : (c.hold).rm r = c.rm r := rfl
@[simp] theorem Core.hold_rmp (c : Core) (r : Fin 8) : (c.hold).rmp r = c.rmp r := rfl
@[simp] theorem Core.hold_rh (c : Core) (r : Fin 16) : (c.hold).rh r = c.rh r := rfl
@[simp] theorem Core.hold_rf (c : Core) (r : Fin 32) : (c.hold).rf r = c.rf r := rfl
@[simp] theorem Core.hold_rq (c : Core) (r : Fin 16) : (c.hold).rq r = c.rq r := rfl

/-! ### Updates of the state -/

@[simp] theorem State.modCore_cycle (s : State) (f : Core → Core) : (s.modCore f).cycle = s.cycle := rfl
@[simp] theorem State.modCore_ts (s : State) (f : Core → Core) : (s.modCore f).ts = s.ts := rfl
@[simp] theorem State.modCore_tsPhase (s : State) (f : Core → Core) : (s.modCore f).tsPhase = s.tsPhase := rfl
@[simp] theorem State.modCore_slew (s : State) (f : Core → Core) : (s.modCore f).slew = s.slew := rfl
@[simp] theorem State.modCore_slewAcc (s : State) (f : Core → Core) : (s.modCore f).slewAcc = s.slewAcc := rfl
@[simp] theorem State.modCore_freeCtr (s : State) (f : Core → Core) : (s.modCore f).freeCtr = s.freeCtr := rfl
@[simp] theorem State.modCore_behind (s : State) (f : Core → Core) : (s.modCore f).behind = s.behind := rfl
@[simp] theorem State.modCore_ahead (s : State) (f : Core → Core) : (s.modCore f).ahead = s.ahead := rfl
@[simp] theorem State.modCore_fenced (s : State) (f : Core → Core) : (s.modCore f).fenced = s.fenced := rfl
@[simp] theorem State.modCore_pkg (s : State) (f : Core → Core) : (s.modCore f).pkg = s.pkg := rfl
@[simp] theorem State.modCore_inbox (s : State) (f : Core → Core) : (s.modCore f).inbox = s.inbox := rfl
@[simp] theorem State.modCore_agenda (s : State) (f : Core → Core) : (s.modCore f).agenda = s.agenda := rfl
@[simp] theorem State.modCore_subj (s : State) (f : Core → Core) : (s.modCore f).subj = s.subj := rfl
@[simp] theorem State.modCore_cmd (s : State) (f : Core → Core) : (s.modCore f).cmd = s.cmd := rfl
@[simp] theorem State.modCore_cmdWait (s : State) (f : Core → Core) : (s.modCore f).cmdWait = s.cmdWait := rfl
@[simp] theorem State.modCore_reqs (s : State) (f : Core → Core) : (s.modCore f).reqs = s.reqs := rfl
@[simp] theorem State.modCore_nextReq (s : State) (f : Core → Core) : (s.modCore f).nextReq = s.nextReq := rfl
@[simp] theorem State.modCore_colls (s : State) (f : Core → Core) : (s.modCore f).colls = s.colls := rfl
@[simp] theorem State.modCore_objs (s : State) (f : Core → Core) : (s.modCore f).objs = s.objs := rfl
@[simp] theorem State.modCore_token (s : State) (f : Core → Core) : (s.modCore f).token = s.token := rfl
@[simp] theorem State.modCore_hbmUsed (s : State) (f : Core → Core) : (s.modCore f).hbmUsed = s.hbmUsed := rfl
@[simp] theorem State.modCore_lpddrUsed (s : State) (f : Core → Core) : (s.modCore f).lpddrUsed = s.lpddrUsed := rfl
@[simp] theorem State.modCore_lastCharge (s : State) (f : Core → Core) : (s.modCore f).lastCharge = s.lastCharge := rfl
@[simp] theorem State.modCore_localCasts (s : State) (f : Core → Core) : (s.modCore f).localCasts = s.localCasts := rfl
@[simp] theorem State.modCore_told (s : State) (f : Core → Core) : (s.modCore f).told = s.told := rfl
@[simp] theorem State.modCore_hostHeld (s : State) (f : Core → Core) : (s.modCore f).hostHeld = s.hostHeld := rfl
@[simp] theorem State.modCore_cmdPins (s : State) (f : Core → Core) : (s.modCore f).cmdPins = s.cmdPins := rfl
@[simp] theorem State.modCore_overflow (s : State) (f : Core → Core) : (s.modCore f).overflow = s.overflow := rfl
@[simp] theorem State.modCore_mlc (s : State) (f : Core → Core) : (s.modCore f).mlc = s.mlc := rfl
@[simp] theorem State.modCore_plots (s : State) (f : Core → Core) : (s.modCore f).plots = s.plots := rfl
@[simp] theorem State.modCore_nextPlot (s : State) (f : Core → Core) : (s.modCore f).nextPlot = s.nextPlot := rfl
@[simp] theorem State.modCore_nextInst (s : State) (f : Core → Core) : (s.modCore f).nextInst = s.nextInst := rfl
@[simp] theorem State.modCore_disps (s : State) (f : Core → Core) : (s.modCore f).disps = s.disps := rfl
@[simp] theorem State.modCore_saved (s : State) (f : Core → Core) : (s.modCore f).saved = s.saved := rfl
@[simp] theorem State.modCore_endings (s : State) (f : Core → Core) : (s.modCore f).endings = s.endings := rfl
@[simp] theorem State.modCore_rows (s : State) (f : Core → Core) : (s.modCore f).rows = s.rows := rfl
@[simp] theorem State.modCore_window (s : State) (f : Core → Core) : (s.modCore f).window = s.window := rfl
@[simp] theorem State.modCore_cxl (s : State) (f : Core → Core) : (s.modCore f).cxl = s.cxl := rfl
@[simp] theorem State.modCore_hostMem (s : State) (f : Core → Core) : (s.modCore f).hostMem = s.hostMem := rfl
@[simp] theorem State.modCore_pairs (s : State) (f : Core → Core) : (s.modCore f).pairs = s.pairs := rfl
@[simp] theorem State.modCore_apertures (s : State) (f : Core → Core) : (s.modCore f).apertures = s.apertures := rfl
@[simp] theorem State.modCore_discards (s : State) (f : Core → Core) : (s.modCore f).discards = s.discards := rfl
@[simp] theorem State.modCore_journal (s : State) (f : Core → Core) : (s.modCore f).journal = s.journal := rfl
@[simp] theorem State.modCore_nextSeq (s : State) (f : Core → Core) : (s.modCore f).nextSeq = s.nextSeq := rfl
@[simp] theorem State.modCore_journTs (s : State) (f : Core → Core) : (s.modCore f).journTs = s.journTs := rfl
@[simp] theorem State.modCore_journWait (s : State) (f : Core → Core) : (s.modCore f).journWait = s.journWait := rfl
@[simp] theorem State.modCore_granules (s : State) (f : Core → Core) : (s.modCore f).granules = s.granules := rfl
@[simp] theorem State.modCore_answers (s : State) (f : Core → Core) : (s.modCore f).answers = s.answers := rfl
@[simp] theorem State.modCore_irqs (s : State) (f : Core → Core) : (s.modCore f).irqs = s.irqs := rfl
@[simp] theorem State.modCore_peers (s : State) (f : Core → Core) : (s.modCore f).peers = s.peers := rfl
@[simp] theorem State.modCore_outbox (s : State) (f : Core → Core) : (s.modCore f).outbox = s.outbox := rfl
@[simp] theorem State.modCore_heldReads (s : State) (f : Core → Core) : (s.modCore f).heldReads = s.heldReads := rfl
@[simp] theorem State.modCore_errors (s : State) (f : Core → Core) : (s.modCore f).errors = s.errors := rfl
@[simp] theorem State.modCore_ways (s : State) (f : Core → Core) : (s.modCore f).ways = s.ways := rfl
@[simp] theorem State.modCore_retiring (s : State) (f : Core → Core) : (s.modCore f).retiring = s.retiring := rfl
@[simp] theorem State.modCore_power (s : State) (f : Core → Core) : (s.modCore f).power = s.power := rfl
@[simp] theorem State.modCore_reason (s : State) (f : Core → Core) : (s.modCore f).reason = s.reason := rfl
@[simp] theorem State.modCore_unit (s : State) (f : Core → Core) : (s.modCore f).unit = s.unit := rfl
@[simp] theorem State.modCore_test (s : State) (f : Core → Core) : (s.modCore f).test = s.test := rfl
@[simp] theorem State.modCore_adminOk (s : State) (f : Core → Core) : (s.modCore f).adminOk = s.adminOk := rfl
@[simp] theorem State.modCore_powerCap (s : State) (f : Core → Core) : (s.modCore f).powerCap = s.powerCap := rfl
@[simp] theorem State.modCore_throttled (s : State) (f : Core → Core) : (s.modCore f).throttled = s.throttled := rfl
@[simp] theorem State.modCore_firmware (s : State) (f : Core → Core) : (s.modCore f).firmware = s.firmware := rfl
@[simp] theorem State.modCore_staged (s : State) (f : Core → Core) : (s.modCore f).staged = s.staged := rfl
@[simp] theorem State.modCore_reports (s : State) (f : Core → Core) : (s.modCore f).reports = s.reports := rfl
@[simp] theorem State.tick_cycle (s : State) : (s.tick).cycle = s.cycle := rfl
@[simp] theorem State.tick_ts (s : State) : (s.tick).ts = s.ts := rfl
@[simp] theorem State.tick_tsPhase (s : State) : (s.tick).tsPhase = s.tsPhase := rfl
@[simp] theorem State.tick_slew (s : State) : (s.tick).slew = s.slew := rfl
@[simp] theorem State.tick_slewAcc (s : State) : (s.tick).slewAcc = s.slewAcc := rfl
@[simp] theorem State.tick_core (s : State) : (s.tick).core = s.core := rfl
@[simp] theorem State.tick_behind (s : State) : (s.tick).behind = s.behind := rfl
@[simp] theorem State.tick_ahead (s : State) : (s.tick).ahead = s.ahead := rfl
@[simp] theorem State.tick_fenced (s : State) : (s.tick).fenced = s.fenced := rfl
@[simp] theorem State.tick_pkg (s : State) : (s.tick).pkg = s.pkg := rfl
@[simp] theorem State.tick_inbox (s : State) : (s.tick).inbox = s.inbox := rfl
@[simp] theorem State.tick_agenda (s : State) : (s.tick).agenda = s.agenda := rfl
@[simp] theorem State.tick_subj (s : State) : (s.tick).subj = s.subj := rfl
@[simp] theorem State.tick_cmd (s : State) : (s.tick).cmd = s.cmd := rfl
@[simp] theorem State.tick_cmdWait (s : State) : (s.tick).cmdWait = s.cmdWait := rfl
@[simp] theorem State.tick_reqs (s : State) : (s.tick).reqs = s.reqs := rfl
@[simp] theorem State.tick_nextReq (s : State) : (s.tick).nextReq = s.nextReq := rfl
@[simp] theorem State.tick_colls (s : State) : (s.tick).colls = s.colls := rfl
@[simp] theorem State.tick_objs (s : State) : (s.tick).objs = s.objs := rfl
@[simp] theorem State.tick_token (s : State) : (s.tick).token = s.token := rfl
@[simp] theorem State.tick_hbmUsed (s : State) : (s.tick).hbmUsed = s.hbmUsed := rfl
@[simp] theorem State.tick_lpddrUsed (s : State) : (s.tick).lpddrUsed = s.lpddrUsed := rfl
@[simp] theorem State.tick_lastCharge (s : State) : (s.tick).lastCharge = s.lastCharge := rfl
@[simp] theorem State.tick_localCasts (s : State) : (s.tick).localCasts = s.localCasts := rfl
@[simp] theorem State.tick_told (s : State) : (s.tick).told = s.told := rfl
@[simp] theorem State.tick_hostHeld (s : State) : (s.tick).hostHeld = s.hostHeld := rfl
@[simp] theorem State.tick_cmdPins (s : State) : (s.tick).cmdPins = s.cmdPins := rfl
@[simp] theorem State.tick_overflow (s : State) : (s.tick).overflow = s.overflow := rfl
@[simp] theorem State.tick_mlc (s : State) : (s.tick).mlc = s.mlc := rfl
@[simp] theorem State.tick_plots (s : State) : (s.tick).plots = s.plots := rfl
@[simp] theorem State.tick_nextPlot (s : State) : (s.tick).nextPlot = s.nextPlot := rfl
@[simp] theorem State.tick_nextInst (s : State) : (s.tick).nextInst = s.nextInst := rfl
@[simp] theorem State.tick_disps (s : State) : (s.tick).disps = s.disps := rfl
@[simp] theorem State.tick_saved (s : State) : (s.tick).saved = s.saved := rfl
@[simp] theorem State.tick_endings (s : State) : (s.tick).endings = s.endings := rfl
@[simp] theorem State.tick_rows (s : State) : (s.tick).rows = s.rows := rfl
@[simp] theorem State.tick_window (s : State) : (s.tick).window = s.window := rfl
@[simp] theorem State.tick_cxl (s : State) : (s.tick).cxl = s.cxl := rfl
@[simp] theorem State.tick_hostMem (s : State) : (s.tick).hostMem = s.hostMem := rfl
@[simp] theorem State.tick_pairs (s : State) : (s.tick).pairs = s.pairs := rfl
@[simp] theorem State.tick_apertures (s : State) : (s.tick).apertures = s.apertures := rfl
@[simp] theorem State.tick_discards (s : State) : (s.tick).discards = s.discards := rfl
@[simp] theorem State.tick_journal (s : State) : (s.tick).journal = s.journal := rfl
@[simp] theorem State.tick_nextSeq (s : State) : (s.tick).nextSeq = s.nextSeq := rfl
@[simp] theorem State.tick_journTs (s : State) : (s.tick).journTs = s.journTs := rfl
@[simp] theorem State.tick_journWait (s : State) : (s.tick).journWait = s.journWait := rfl
@[simp] theorem State.tick_granules (s : State) : (s.tick).granules = s.granules := rfl
@[simp] theorem State.tick_answers (s : State) : (s.tick).answers = s.answers := rfl
@[simp] theorem State.tick_irqs (s : State) : (s.tick).irqs = s.irqs := rfl
@[simp] theorem State.tick_peers (s : State) : (s.tick).peers = s.peers := rfl
@[simp] theorem State.tick_outbox (s : State) : (s.tick).outbox = s.outbox := rfl
@[simp] theorem State.tick_heldReads (s : State) : (s.tick).heldReads = s.heldReads := rfl
@[simp] theorem State.tick_errors (s : State) : (s.tick).errors = s.errors := rfl
@[simp] theorem State.tick_ways (s : State) : (s.tick).ways = s.ways := rfl
@[simp] theorem State.tick_retiring (s : State) : (s.tick).retiring = s.retiring := rfl
@[simp] theorem State.tick_power (s : State) : (s.tick).power = s.power := rfl
@[simp] theorem State.tick_reason (s : State) : (s.tick).reason = s.reason := rfl
@[simp] theorem State.tick_unit (s : State) : (s.tick).unit = s.unit := rfl
@[simp] theorem State.tick_test (s : State) : (s.tick).test = s.test := rfl
@[simp] theorem State.tick_adminOk (s : State) : (s.tick).adminOk = s.adminOk := rfl
@[simp] theorem State.tick_powerCap (s : State) : (s.tick).powerCap = s.powerCap := rfl
@[simp] theorem State.tick_throttled (s : State) : (s.tick).throttled = s.throttled := rfl
@[simp] theorem State.tick_firmware (s : State) : (s.tick).firmware = s.firmware := rfl
@[simp] theorem State.tick_staged (s : State) : (s.tick).staged = s.staged := rfl
@[simp] theorem State.tick_reports (s : State) : (s.tick).reports = s.reports := rfl
@[simp] theorem State.later_cycle (s : State) (n : Nat) (i : Instr) : (s.later n i).cycle = s.cycle := rfl
@[simp] theorem State.later_ts (s : State) (n : Nat) (i : Instr) : (s.later n i).ts = s.ts := rfl
@[simp] theorem State.later_tsPhase (s : State) (n : Nat) (i : Instr) : (s.later n i).tsPhase = s.tsPhase := rfl
@[simp] theorem State.later_slew (s : State) (n : Nat) (i : Instr) : (s.later n i).slew = s.slew := rfl
@[simp] theorem State.later_slewAcc (s : State) (n : Nat) (i : Instr) : (s.later n i).slewAcc = s.slewAcc := rfl
@[simp] theorem State.later_core (s : State) (n : Nat) (i : Instr) : (s.later n i).core = s.core := rfl
@[simp] theorem State.later_behind (s : State) (n : Nat) (i : Instr) : (s.later n i).behind = s.behind := rfl
@[simp] theorem State.later_ahead (s : State) (n : Nat) (i : Instr) : (s.later n i).ahead = s.ahead := rfl
@[simp] theorem State.later_fenced (s : State) (n : Nat) (i : Instr) : (s.later n i).fenced = s.fenced := rfl
@[simp] theorem State.later_pkg (s : State) (n : Nat) (i : Instr) : (s.later n i).pkg = s.pkg := rfl
@[simp] theorem State.later_inbox (s : State) (n : Nat) (i : Instr) : (s.later n i).inbox = s.inbox := rfl
@[simp] theorem State.later_subj (s : State) (n : Nat) (i : Instr) : (s.later n i).subj = s.subj := rfl
@[simp] theorem State.later_cmd (s : State) (n : Nat) (i : Instr) : (s.later n i).cmd = s.cmd := rfl
@[simp] theorem State.later_cmdWait (s : State) (n : Nat) (i : Instr) : (s.later n i).cmdWait = s.cmdWait := rfl
@[simp] theorem State.later_reqs (s : State) (n : Nat) (i : Instr) : (s.later n i).reqs = s.reqs := rfl
@[simp] theorem State.later_nextReq (s : State) (n : Nat) (i : Instr) : (s.later n i).nextReq = s.nextReq := rfl
@[simp] theorem State.later_colls (s : State) (n : Nat) (i : Instr) : (s.later n i).colls = s.colls := rfl
@[simp] theorem State.later_objs (s : State) (n : Nat) (i : Instr) : (s.later n i).objs = s.objs := rfl
@[simp] theorem State.later_token (s : State) (n : Nat) (i : Instr) : (s.later n i).token = s.token := rfl
@[simp] theorem State.later_hbmUsed (s : State) (n : Nat) (i : Instr) : (s.later n i).hbmUsed = s.hbmUsed := rfl
@[simp] theorem State.later_lpddrUsed (s : State) (n : Nat) (i : Instr) : (s.later n i).lpddrUsed = s.lpddrUsed := rfl
@[simp] theorem State.later_lastCharge (s : State) (n : Nat) (i : Instr) : (s.later n i).lastCharge = s.lastCharge := rfl
@[simp] theorem State.later_localCasts (s : State) (n : Nat) (i : Instr) : (s.later n i).localCasts = s.localCasts := rfl
@[simp] theorem State.later_told (s : State) (n : Nat) (i : Instr) : (s.later n i).told = s.told := rfl
@[simp] theorem State.later_hostHeld (s : State) (n : Nat) (i : Instr) : (s.later n i).hostHeld = s.hostHeld := rfl
@[simp] theorem State.later_cmdPins (s : State) (n : Nat) (i : Instr) : (s.later n i).cmdPins = s.cmdPins := rfl
@[simp] theorem State.later_overflow (s : State) (n : Nat) (i : Instr) : (s.later n i).overflow = s.overflow := rfl
@[simp] theorem State.later_mlc (s : State) (n : Nat) (i : Instr) : (s.later n i).mlc = s.mlc := rfl
@[simp] theorem State.later_plots (s : State) (n : Nat) (i : Instr) : (s.later n i).plots = s.plots := rfl
@[simp] theorem State.later_nextPlot (s : State) (n : Nat) (i : Instr) : (s.later n i).nextPlot = s.nextPlot := rfl
@[simp] theorem State.later_nextInst (s : State) (n : Nat) (i : Instr) : (s.later n i).nextInst = s.nextInst := rfl
@[simp] theorem State.later_disps (s : State) (n : Nat) (i : Instr) : (s.later n i).disps = s.disps := rfl
@[simp] theorem State.later_saved (s : State) (n : Nat) (i : Instr) : (s.later n i).saved = s.saved := rfl
@[simp] theorem State.later_endings (s : State) (n : Nat) (i : Instr) : (s.later n i).endings = s.endings := rfl
@[simp] theorem State.later_rows (s : State) (n : Nat) (i : Instr) : (s.later n i).rows = s.rows := rfl
@[simp] theorem State.later_window (s : State) (n : Nat) (i : Instr) : (s.later n i).window = s.window := rfl
@[simp] theorem State.later_cxl (s : State) (n : Nat) (i : Instr) : (s.later n i).cxl = s.cxl := rfl
@[simp] theorem State.later_hostMem (s : State) (n : Nat) (i : Instr) : (s.later n i).hostMem = s.hostMem := rfl
@[simp] theorem State.later_pairs (s : State) (n : Nat) (i : Instr) : (s.later n i).pairs = s.pairs := rfl
@[simp] theorem State.later_apertures (s : State) (n : Nat) (i : Instr) : (s.later n i).apertures = s.apertures := rfl
@[simp] theorem State.later_discards (s : State) (n : Nat) (i : Instr) : (s.later n i).discards = s.discards := rfl
@[simp] theorem State.later_journal (s : State) (n : Nat) (i : Instr) : (s.later n i).journal = s.journal := rfl
@[simp] theorem State.later_nextSeq (s : State) (n : Nat) (i : Instr) : (s.later n i).nextSeq = s.nextSeq := rfl
@[simp] theorem State.later_journTs (s : State) (n : Nat) (i : Instr) : (s.later n i).journTs = s.journTs := rfl
@[simp] theorem State.later_journWait (s : State) (n : Nat) (i : Instr) : (s.later n i).journWait = s.journWait := rfl
@[simp] theorem State.later_granules (s : State) (n : Nat) (i : Instr) : (s.later n i).granules = s.granules := rfl
@[simp] theorem State.later_answers (s : State) (n : Nat) (i : Instr) : (s.later n i).answers = s.answers := rfl
@[simp] theorem State.later_irqs (s : State) (n : Nat) (i : Instr) : (s.later n i).irqs = s.irqs := rfl
@[simp] theorem State.later_peers (s : State) (n : Nat) (i : Instr) : (s.later n i).peers = s.peers := rfl
@[simp] theorem State.later_outbox (s : State) (n : Nat) (i : Instr) : (s.later n i).outbox = s.outbox := rfl
@[simp] theorem State.later_heldReads (s : State) (n : Nat) (i : Instr) : (s.later n i).heldReads = s.heldReads := rfl
@[simp] theorem State.later_errors (s : State) (n : Nat) (i : Instr) : (s.later n i).errors = s.errors := rfl
@[simp] theorem State.later_ways (s : State) (n : Nat) (i : Instr) : (s.later n i).ways = s.ways := rfl
@[simp] theorem State.later_retiring (s : State) (n : Nat) (i : Instr) : (s.later n i).retiring = s.retiring := rfl
@[simp] theorem State.later_power (s : State) (n : Nat) (i : Instr) : (s.later n i).power = s.power := rfl
@[simp] theorem State.later_reason (s : State) (n : Nat) (i : Instr) : (s.later n i).reason = s.reason := rfl
@[simp] theorem State.later_unit (s : State) (n : Nat) (i : Instr) : (s.later n i).unit = s.unit := rfl
@[simp] theorem State.later_test (s : State) (n : Nat) (i : Instr) : (s.later n i).test = s.test := rfl
@[simp] theorem State.later_adminOk (s : State) (n : Nat) (i : Instr) : (s.later n i).adminOk = s.adminOk := rfl
@[simp] theorem State.later_powerCap (s : State) (n : Nat) (i : Instr) : (s.later n i).powerCap = s.powerCap := rfl
@[simp] theorem State.later_throttled (s : State) (n : Nat) (i : Instr) : (s.later n i).throttled = s.throttled := rfl
@[simp] theorem State.later_firmware (s : State) (n : Nat) (i : Instr) : (s.later n i).firmware = s.firmware := rfl
@[simp] theorem State.later_staged (s : State) (n : Nat) (i : Instr) : (s.later n i).staged = s.staged := rfl
@[simp] theorem State.later_reports (s : State) (n : Nat) (i : Instr) : (s.later n i).reports = s.reports := rfl
@[simp] theorem State.after_cycle (s : State) (n m : Nat) (i : Instr) : (s.after n m i).cycle = s.cycle := rfl
@[simp] theorem State.after_ts (s : State) (n m : Nat) (i : Instr) : (s.after n m i).ts = s.ts := rfl
@[simp] theorem State.after_tsPhase (s : State) (n m : Nat) (i : Instr) : (s.after n m i).tsPhase = s.tsPhase := rfl
@[simp] theorem State.after_slew (s : State) (n m : Nat) (i : Instr) : (s.after n m i).slew = s.slew := rfl
@[simp] theorem State.after_slewAcc (s : State) (n m : Nat) (i : Instr) : (s.after n m i).slewAcc = s.slewAcc := rfl
@[simp] theorem State.after_freeCtr (s : State) (n m : Nat) (i : Instr) : (s.after n m i).freeCtr = s.freeCtr := rfl
@[simp] theorem State.after_core (s : State) (n m : Nat) (i : Instr) : (s.after n m i).core = s.core := rfl
@[simp] theorem State.after_behind (s : State) (n m : Nat) (i : Instr) : (s.after n m i).behind = s.behind := rfl
@[simp] theorem State.after_ahead (s : State) (n m : Nat) (i : Instr) : (s.after n m i).ahead = s.ahead := rfl
@[simp] theorem State.after_fenced (s : State) (n m : Nat) (i : Instr) : (s.after n m i).fenced = s.fenced := rfl
@[simp] theorem State.after_pkg (s : State) (n m : Nat) (i : Instr) : (s.after n m i).pkg = s.pkg := rfl
@[simp] theorem State.after_inbox (s : State) (n m : Nat) (i : Instr) : (s.after n m i).inbox = s.inbox := rfl
@[simp] theorem State.after_subj (s : State) (n m : Nat) (i : Instr) : (s.after n m i).subj = s.subj := rfl
@[simp] theorem State.after_cmd (s : State) (n m : Nat) (i : Instr) : (s.after n m i).cmd = s.cmd := rfl
@[simp] theorem State.after_cmdWait (s : State) (n m : Nat) (i : Instr) : (s.after n m i).cmdWait = s.cmdWait := rfl
@[simp] theorem State.after_reqs (s : State) (n m : Nat) (i : Instr) : (s.after n m i).reqs = s.reqs := rfl
@[simp] theorem State.after_nextReq (s : State) (n m : Nat) (i : Instr) : (s.after n m i).nextReq = s.nextReq := rfl
@[simp] theorem State.after_colls (s : State) (n m : Nat) (i : Instr) : (s.after n m i).colls = s.colls := rfl
@[simp] theorem State.after_objs (s : State) (n m : Nat) (i : Instr) : (s.after n m i).objs = s.objs := rfl
@[simp] theorem State.after_token (s : State) (n m : Nat) (i : Instr) : (s.after n m i).token = s.token := rfl
@[simp] theorem State.after_hbmUsed (s : State) (n m : Nat) (i : Instr) : (s.after n m i).hbmUsed = s.hbmUsed := rfl
@[simp] theorem State.after_lpddrUsed (s : State) (n m : Nat) (i : Instr) : (s.after n m i).lpddrUsed = s.lpddrUsed := rfl
@[simp] theorem State.after_lastCharge (s : State) (n m : Nat) (i : Instr) : (s.after n m i).lastCharge = s.lastCharge := rfl
@[simp] theorem State.after_localCasts (s : State) (n m : Nat) (i : Instr) : (s.after n m i).localCasts = s.localCasts := rfl
@[simp] theorem State.after_told (s : State) (n m : Nat) (i : Instr) : (s.after n m i).told = s.told := rfl
@[simp] theorem State.after_hostHeld (s : State) (n m : Nat) (i : Instr) : (s.after n m i).hostHeld = s.hostHeld := rfl
@[simp] theorem State.after_cmdPins (s : State) (n m : Nat) (i : Instr) : (s.after n m i).cmdPins = s.cmdPins := rfl
@[simp] theorem State.after_overflow (s : State) (n m : Nat) (i : Instr) : (s.after n m i).overflow = s.overflow := rfl
@[simp] theorem State.after_mlc (s : State) (n m : Nat) (i : Instr) : (s.after n m i).mlc = s.mlc := rfl
@[simp] theorem State.after_plots (s : State) (n m : Nat) (i : Instr) : (s.after n m i).plots = s.plots := rfl
@[simp] theorem State.after_nextPlot (s : State) (n m : Nat) (i : Instr) : (s.after n m i).nextPlot = s.nextPlot := rfl
@[simp] theorem State.after_nextInst (s : State) (n m : Nat) (i : Instr) : (s.after n m i).nextInst = s.nextInst := rfl
@[simp] theorem State.after_disps (s : State) (n m : Nat) (i : Instr) : (s.after n m i).disps = s.disps := rfl
@[simp] theorem State.after_saved (s : State) (n m : Nat) (i : Instr) : (s.after n m i).saved = s.saved := rfl
@[simp] theorem State.after_endings (s : State) (n m : Nat) (i : Instr) : (s.after n m i).endings = s.endings := rfl
@[simp] theorem State.after_rows (s : State) (n m : Nat) (i : Instr) : (s.after n m i).rows = s.rows := rfl
@[simp] theorem State.after_window (s : State) (n m : Nat) (i : Instr) : (s.after n m i).window = s.window := rfl
@[simp] theorem State.after_cxl (s : State) (n m : Nat) (i : Instr) : (s.after n m i).cxl = s.cxl := rfl
@[simp] theorem State.after_hostMem (s : State) (n m : Nat) (i : Instr) : (s.after n m i).hostMem = s.hostMem := rfl
@[simp] theorem State.after_pairs (s : State) (n m : Nat) (i : Instr) : (s.after n m i).pairs = s.pairs := rfl
@[simp] theorem State.after_apertures (s : State) (n m : Nat) (i : Instr) : (s.after n m i).apertures = s.apertures := rfl
@[simp] theorem State.after_discards (s : State) (n m : Nat) (i : Instr) : (s.after n m i).discards = s.discards := rfl
@[simp] theorem State.after_journal (s : State) (n m : Nat) (i : Instr) : (s.after n m i).journal = s.journal := rfl
@[simp] theorem State.after_nextSeq (s : State) (n m : Nat) (i : Instr) : (s.after n m i).nextSeq = s.nextSeq := rfl
@[simp] theorem State.after_journTs (s : State) (n m : Nat) (i : Instr) : (s.after n m i).journTs = s.journTs := rfl
@[simp] theorem State.after_journWait (s : State) (n m : Nat) (i : Instr) : (s.after n m i).journWait = s.journWait := rfl
@[simp] theorem State.after_granules (s : State) (n m : Nat) (i : Instr) : (s.after n m i).granules = s.granules := rfl
@[simp] theorem State.after_answers (s : State) (n m : Nat) (i : Instr) : (s.after n m i).answers = s.answers := rfl
@[simp] theorem State.after_irqs (s : State) (n m : Nat) (i : Instr) : (s.after n m i).irqs = s.irqs := rfl
@[simp] theorem State.after_peers (s : State) (n m : Nat) (i : Instr) : (s.after n m i).peers = s.peers := rfl
@[simp] theorem State.after_outbox (s : State) (n m : Nat) (i : Instr) : (s.after n m i).outbox = s.outbox := rfl
@[simp] theorem State.after_heldReads (s : State) (n m : Nat) (i : Instr) : (s.after n m i).heldReads = s.heldReads := rfl
@[simp] theorem State.after_errors (s : State) (n m : Nat) (i : Instr) : (s.after n m i).errors = s.errors := rfl
@[simp] theorem State.after_ways (s : State) (n m : Nat) (i : Instr) : (s.after n m i).ways = s.ways := rfl
@[simp] theorem State.after_retiring (s : State) (n m : Nat) (i : Instr) : (s.after n m i).retiring = s.retiring := rfl
@[simp] theorem State.after_power (s : State) (n m : Nat) (i : Instr) : (s.after n m i).power = s.power := rfl
@[simp] theorem State.after_reason (s : State) (n m : Nat) (i : Instr) : (s.after n m i).reason = s.reason := rfl
@[simp] theorem State.after_unit (s : State) (n m : Nat) (i : Instr) : (s.after n m i).unit = s.unit := rfl
@[simp] theorem State.after_test (s : State) (n m : Nat) (i : Instr) : (s.after n m i).test = s.test := rfl
@[simp] theorem State.after_adminOk (s : State) (n m : Nat) (i : Instr) : (s.after n m i).adminOk = s.adminOk := rfl
@[simp] theorem State.after_powerCap (s : State) (n m : Nat) (i : Instr) : (s.after n m i).powerCap = s.powerCap := rfl
@[simp] theorem State.after_throttled (s : State) (n m : Nat) (i : Instr) : (s.after n m i).throttled = s.throttled := rfl
@[simp] theorem State.after_firmware (s : State) (n m : Nat) (i : Instr) : (s.after n m i).firmware = s.firmware := rfl
@[simp] theorem State.after_staged (s : State) (n m : Nat) (i : Instr) : (s.after n m i).staged = s.staged := rfl
@[simp] theorem State.after_reports (s : State) (n m : Nat) (i : Instr) : (s.after n m i).reports = s.reports := rfl
@[simp] theorem State.mapCores_cycle (s : State) (f : Core → Core) : (s.mapCores f).cycle = s.cycle := rfl
@[simp] theorem State.mapCores_ts (s : State) (f : Core → Core) : (s.mapCores f).ts = s.ts := rfl
@[simp] theorem State.mapCores_tsPhase (s : State) (f : Core → Core) : (s.mapCores f).tsPhase = s.tsPhase := rfl
@[simp] theorem State.mapCores_slew (s : State) (f : Core → Core) : (s.mapCores f).slew = s.slew := rfl
@[simp] theorem State.mapCores_slewAcc (s : State) (f : Core → Core) : (s.mapCores f).slewAcc = s.slewAcc := rfl
@[simp] theorem State.mapCores_freeCtr (s : State) (f : Core → Core) : (s.mapCores f).freeCtr = s.freeCtr := rfl
@[simp] theorem State.mapCores_fenced (s : State) (f : Core → Core) : (s.mapCores f).fenced = s.fenced := rfl
@[simp] theorem State.mapCores_pkg (s : State) (f : Core → Core) : (s.mapCores f).pkg = s.pkg := rfl
@[simp] theorem State.mapCores_inbox (s : State) (f : Core → Core) : (s.mapCores f).inbox = s.inbox := rfl
@[simp] theorem State.mapCores_agenda (s : State) (f : Core → Core) : (s.mapCores f).agenda = s.agenda := rfl
@[simp] theorem State.mapCores_subj (s : State) (f : Core → Core) : (s.mapCores f).subj = s.subj := rfl
@[simp] theorem State.mapCores_cmd (s : State) (f : Core → Core) : (s.mapCores f).cmd = s.cmd := rfl
@[simp] theorem State.mapCores_cmdWait (s : State) (f : Core → Core) : (s.mapCores f).cmdWait = s.cmdWait := rfl
@[simp] theorem State.mapCores_reqs (s : State) (f : Core → Core) : (s.mapCores f).reqs = s.reqs := rfl
@[simp] theorem State.mapCores_nextReq (s : State) (f : Core → Core) : (s.mapCores f).nextReq = s.nextReq := rfl
@[simp] theorem State.mapCores_colls (s : State) (f : Core → Core) : (s.mapCores f).colls = s.colls := rfl
@[simp] theorem State.mapCores_objs (s : State) (f : Core → Core) : (s.mapCores f).objs = s.objs := rfl
@[simp] theorem State.mapCores_token (s : State) (f : Core → Core) : (s.mapCores f).token = s.token := rfl
@[simp] theorem State.mapCores_hbmUsed (s : State) (f : Core → Core) : (s.mapCores f).hbmUsed = s.hbmUsed := rfl
@[simp] theorem State.mapCores_lpddrUsed (s : State) (f : Core → Core) : (s.mapCores f).lpddrUsed = s.lpddrUsed := rfl
@[simp] theorem State.mapCores_lastCharge (s : State) (f : Core → Core) : (s.mapCores f).lastCharge = s.lastCharge := rfl
@[simp] theorem State.mapCores_localCasts (s : State) (f : Core → Core) : (s.mapCores f).localCasts = s.localCasts := rfl
@[simp] theorem State.mapCores_told (s : State) (f : Core → Core) : (s.mapCores f).told = s.told := rfl
@[simp] theorem State.mapCores_hostHeld (s : State) (f : Core → Core) : (s.mapCores f).hostHeld = s.hostHeld := rfl
@[simp] theorem State.mapCores_cmdPins (s : State) (f : Core → Core) : (s.mapCores f).cmdPins = s.cmdPins := rfl
@[simp] theorem State.mapCores_overflow (s : State) (f : Core → Core) : (s.mapCores f).overflow = s.overflow := rfl
@[simp] theorem State.mapCores_mlc (s : State) (f : Core → Core) : (s.mapCores f).mlc = s.mlc := rfl
@[simp] theorem State.mapCores_plots (s : State) (f : Core → Core) : (s.mapCores f).plots = s.plots := rfl
@[simp] theorem State.mapCores_nextPlot (s : State) (f : Core → Core) : (s.mapCores f).nextPlot = s.nextPlot := rfl
@[simp] theorem State.mapCores_nextInst (s : State) (f : Core → Core) : (s.mapCores f).nextInst = s.nextInst := rfl
@[simp] theorem State.mapCores_disps (s : State) (f : Core → Core) : (s.mapCores f).disps = s.disps := rfl
@[simp] theorem State.mapCores_saved (s : State) (f : Core → Core) : (s.mapCores f).saved = s.saved := rfl
@[simp] theorem State.mapCores_endings (s : State) (f : Core → Core) : (s.mapCores f).endings = s.endings := rfl
@[simp] theorem State.mapCores_rows (s : State) (f : Core → Core) : (s.mapCores f).rows = s.rows := rfl
@[simp] theorem State.mapCores_window (s : State) (f : Core → Core) : (s.mapCores f).window = s.window := rfl
@[simp] theorem State.mapCores_cxl (s : State) (f : Core → Core) : (s.mapCores f).cxl = s.cxl := rfl
@[simp] theorem State.mapCores_hostMem (s : State) (f : Core → Core) : (s.mapCores f).hostMem = s.hostMem := rfl
@[simp] theorem State.mapCores_pairs (s : State) (f : Core → Core) : (s.mapCores f).pairs = s.pairs := rfl
@[simp] theorem State.mapCores_apertures (s : State) (f : Core → Core) : (s.mapCores f).apertures = s.apertures := rfl
@[simp] theorem State.mapCores_discards (s : State) (f : Core → Core) : (s.mapCores f).discards = s.discards := rfl
@[simp] theorem State.mapCores_journal (s : State) (f : Core → Core) : (s.mapCores f).journal = s.journal := rfl
@[simp] theorem State.mapCores_nextSeq (s : State) (f : Core → Core) : (s.mapCores f).nextSeq = s.nextSeq := rfl
@[simp] theorem State.mapCores_journTs (s : State) (f : Core → Core) : (s.mapCores f).journTs = s.journTs := rfl
@[simp] theorem State.mapCores_journWait (s : State) (f : Core → Core) : (s.mapCores f).journWait = s.journWait := rfl
@[simp] theorem State.mapCores_granules (s : State) (f : Core → Core) : (s.mapCores f).granules = s.granules := rfl
@[simp] theorem State.mapCores_answers (s : State) (f : Core → Core) : (s.mapCores f).answers = s.answers := rfl
@[simp] theorem State.mapCores_irqs (s : State) (f : Core → Core) : (s.mapCores f).irqs = s.irqs := rfl
@[simp] theorem State.mapCores_peers (s : State) (f : Core → Core) : (s.mapCores f).peers = s.peers := rfl
@[simp] theorem State.mapCores_outbox (s : State) (f : Core → Core) : (s.mapCores f).outbox = s.outbox := rfl
@[simp] theorem State.mapCores_heldReads (s : State) (f : Core → Core) : (s.mapCores f).heldReads = s.heldReads := rfl
@[simp] theorem State.mapCores_errors (s : State) (f : Core → Core) : (s.mapCores f).errors = s.errors := rfl
@[simp] theorem State.mapCores_ways (s : State) (f : Core → Core) : (s.mapCores f).ways = s.ways := rfl
@[simp] theorem State.mapCores_retiring (s : State) (f : Core → Core) : (s.mapCores f).retiring = s.retiring := rfl
@[simp] theorem State.mapCores_power (s : State) (f : Core → Core) : (s.mapCores f).power = s.power := rfl
@[simp] theorem State.mapCores_reason (s : State) (f : Core → Core) : (s.mapCores f).reason = s.reason := rfl
@[simp] theorem State.mapCores_unit (s : State) (f : Core → Core) : (s.mapCores f).unit = s.unit := rfl
@[simp] theorem State.mapCores_test (s : State) (f : Core → Core) : (s.mapCores f).test = s.test := rfl
@[simp] theorem State.mapCores_adminOk (s : State) (f : Core → Core) : (s.mapCores f).adminOk = s.adminOk := rfl
@[simp] theorem State.mapCores_powerCap (s : State) (f : Core → Core) : (s.mapCores f).powerCap = s.powerCap := rfl
@[simp] theorem State.mapCores_throttled (s : State) (f : Core → Core) : (s.mapCores f).throttled = s.throttled := rfl
@[simp] theorem State.mapCores_firmware (s : State) (f : Core → Core) : (s.mapCores f).firmware = s.firmware := rfl
@[simp] theorem State.mapCores_staged (s : State) (f : Core → Core) : (s.mapCores f).staged = s.staged := rfl
@[simp] theorem State.mapCores_reports (s : State) (f : Core → Core) : (s.mapCores f).reports = s.reports := rfl
@[simp] theorem State.modObj_cycle (s : State) (n m : Nat) (f : Obj → Obj) : (s.modObj n m f).cycle = s.cycle := rfl
@[simp] theorem State.modObj_ts (s : State) (n m : Nat) (f : Obj → Obj) : (s.modObj n m f).ts = s.ts := rfl
@[simp] theorem State.modObj_tsPhase (s : State) (n m : Nat) (f : Obj → Obj) : (s.modObj n m f).tsPhase = s.tsPhase := rfl
@[simp] theorem State.modObj_slew (s : State) (n m : Nat) (f : Obj → Obj) : (s.modObj n m f).slew = s.slew := rfl
@[simp] theorem State.modObj_slewAcc (s : State) (n m : Nat) (f : Obj → Obj) : (s.modObj n m f).slewAcc = s.slewAcc := rfl
@[simp] theorem State.modObj_freeCtr (s : State) (n m : Nat) (f : Obj → Obj) : (s.modObj n m f).freeCtr = s.freeCtr := rfl
@[simp] theorem State.modObj_core (s : State) (n m : Nat) (f : Obj → Obj) : (s.modObj n m f).core = s.core := rfl
@[simp] theorem State.modObj_behind (s : State) (n m : Nat) (f : Obj → Obj) : (s.modObj n m f).behind = s.behind := rfl
@[simp] theorem State.modObj_ahead (s : State) (n m : Nat) (f : Obj → Obj) : (s.modObj n m f).ahead = s.ahead := rfl
@[simp] theorem State.modObj_fenced (s : State) (n m : Nat) (f : Obj → Obj) : (s.modObj n m f).fenced = s.fenced := rfl
@[simp] theorem State.modObj_pkg (s : State) (n m : Nat) (f : Obj → Obj) : (s.modObj n m f).pkg = s.pkg := rfl
@[simp] theorem State.modObj_inbox (s : State) (n m : Nat) (f : Obj → Obj) : (s.modObj n m f).inbox = s.inbox := rfl
@[simp] theorem State.modObj_agenda (s : State) (n m : Nat) (f : Obj → Obj) : (s.modObj n m f).agenda = s.agenda := rfl
@[simp] theorem State.modObj_subj (s : State) (n m : Nat) (f : Obj → Obj) : (s.modObj n m f).subj = s.subj := rfl
@[simp] theorem State.modObj_cmd (s : State) (n m : Nat) (f : Obj → Obj) : (s.modObj n m f).cmd = s.cmd := rfl
@[simp] theorem State.modObj_cmdWait (s : State) (n m : Nat) (f : Obj → Obj) : (s.modObj n m f).cmdWait = s.cmdWait := rfl
@[simp] theorem State.modObj_reqs (s : State) (n m : Nat) (f : Obj → Obj) : (s.modObj n m f).reqs = s.reqs := rfl
@[simp] theorem State.modObj_nextReq (s : State) (n m : Nat) (f : Obj → Obj) : (s.modObj n m f).nextReq = s.nextReq := rfl
@[simp] theorem State.modObj_colls (s : State) (n m : Nat) (f : Obj → Obj) : (s.modObj n m f).colls = s.colls := rfl
@[simp] theorem State.modObj_token (s : State) (n m : Nat) (f : Obj → Obj) : (s.modObj n m f).token = s.token := rfl
@[simp] theorem State.modObj_hbmUsed (s : State) (n m : Nat) (f : Obj → Obj) : (s.modObj n m f).hbmUsed = s.hbmUsed := rfl
@[simp] theorem State.modObj_lpddrUsed (s : State) (n m : Nat) (f : Obj → Obj) : (s.modObj n m f).lpddrUsed = s.lpddrUsed := rfl
@[simp] theorem State.modObj_lastCharge (s : State) (n m : Nat) (f : Obj → Obj) : (s.modObj n m f).lastCharge = s.lastCharge := rfl
@[simp] theorem State.modObj_localCasts (s : State) (n m : Nat) (f : Obj → Obj) : (s.modObj n m f).localCasts = s.localCasts := rfl
@[simp] theorem State.modObj_told (s : State) (n m : Nat) (f : Obj → Obj) : (s.modObj n m f).told = s.told := rfl
@[simp] theorem State.modObj_hostHeld (s : State) (n m : Nat) (f : Obj → Obj) : (s.modObj n m f).hostHeld = s.hostHeld := rfl
@[simp] theorem State.modObj_cmdPins (s : State) (n m : Nat) (f : Obj → Obj) : (s.modObj n m f).cmdPins = s.cmdPins := rfl
@[simp] theorem State.modObj_overflow (s : State) (n m : Nat) (f : Obj → Obj) : (s.modObj n m f).overflow = s.overflow := rfl
@[simp] theorem State.modObj_mlc (s : State) (n m : Nat) (f : Obj → Obj) : (s.modObj n m f).mlc = s.mlc := rfl
@[simp] theorem State.modObj_plots (s : State) (n m : Nat) (f : Obj → Obj) : (s.modObj n m f).plots = s.plots := rfl
@[simp] theorem State.modObj_nextPlot (s : State) (n m : Nat) (f : Obj → Obj) : (s.modObj n m f).nextPlot = s.nextPlot := rfl
@[simp] theorem State.modObj_nextInst (s : State) (n m : Nat) (f : Obj → Obj) : (s.modObj n m f).nextInst = s.nextInst := rfl
@[simp] theorem State.modObj_disps (s : State) (n m : Nat) (f : Obj → Obj) : (s.modObj n m f).disps = s.disps := rfl
@[simp] theorem State.modObj_saved (s : State) (n m : Nat) (f : Obj → Obj) : (s.modObj n m f).saved = s.saved := rfl
@[simp] theorem State.modObj_endings (s : State) (n m : Nat) (f : Obj → Obj) : (s.modObj n m f).endings = s.endings := rfl
@[simp] theorem State.modObj_rows (s : State) (n m : Nat) (f : Obj → Obj) : (s.modObj n m f).rows = s.rows := rfl
@[simp] theorem State.modObj_window (s : State) (n m : Nat) (f : Obj → Obj) : (s.modObj n m f).window = s.window := rfl
@[simp] theorem State.modObj_cxl (s : State) (n m : Nat) (f : Obj → Obj) : (s.modObj n m f).cxl = s.cxl := rfl
@[simp] theorem State.modObj_hostMem (s : State) (n m : Nat) (f : Obj → Obj) : (s.modObj n m f).hostMem = s.hostMem := rfl
@[simp] theorem State.modObj_pairs (s : State) (n m : Nat) (f : Obj → Obj) : (s.modObj n m f).pairs = s.pairs := rfl
@[simp] theorem State.modObj_apertures (s : State) (n m : Nat) (f : Obj → Obj) : (s.modObj n m f).apertures = s.apertures := rfl
@[simp] theorem State.modObj_discards (s : State) (n m : Nat) (f : Obj → Obj) : (s.modObj n m f).discards = s.discards := rfl
@[simp] theorem State.modObj_journal (s : State) (n m : Nat) (f : Obj → Obj) : (s.modObj n m f).journal = s.journal := rfl
@[simp] theorem State.modObj_nextSeq (s : State) (n m : Nat) (f : Obj → Obj) : (s.modObj n m f).nextSeq = s.nextSeq := rfl
@[simp] theorem State.modObj_journTs (s : State) (n m : Nat) (f : Obj → Obj) : (s.modObj n m f).journTs = s.journTs := rfl
@[simp] theorem State.modObj_journWait (s : State) (n m : Nat) (f : Obj → Obj) : (s.modObj n m f).journWait = s.journWait := rfl
@[simp] theorem State.modObj_granules (s : State) (n m : Nat) (f : Obj → Obj) : (s.modObj n m f).granules = s.granules := rfl
@[simp] theorem State.modObj_answers (s : State) (n m : Nat) (f : Obj → Obj) : (s.modObj n m f).answers = s.answers := rfl
@[simp] theorem State.modObj_irqs (s : State) (n m : Nat) (f : Obj → Obj) : (s.modObj n m f).irqs = s.irqs := rfl
@[simp] theorem State.modObj_peers (s : State) (n m : Nat) (f : Obj → Obj) : (s.modObj n m f).peers = s.peers := rfl
@[simp] theorem State.modObj_outbox (s : State) (n m : Nat) (f : Obj → Obj) : (s.modObj n m f).outbox = s.outbox := rfl
@[simp] theorem State.modObj_heldReads (s : State) (n m : Nat) (f : Obj → Obj) : (s.modObj n m f).heldReads = s.heldReads := rfl
@[simp] theorem State.modObj_errors (s : State) (n m : Nat) (f : Obj → Obj) : (s.modObj n m f).errors = s.errors := rfl
@[simp] theorem State.modObj_ways (s : State) (n m : Nat) (f : Obj → Obj) : (s.modObj n m f).ways = s.ways := rfl
@[simp] theorem State.modObj_retiring (s : State) (n m : Nat) (f : Obj → Obj) : (s.modObj n m f).retiring = s.retiring := rfl
@[simp] theorem State.modObj_power (s : State) (n m : Nat) (f : Obj → Obj) : (s.modObj n m f).power = s.power := rfl
@[simp] theorem State.modObj_reason (s : State) (n m : Nat) (f : Obj → Obj) : (s.modObj n m f).reason = s.reason := rfl
@[simp] theorem State.modObj_unit (s : State) (n m : Nat) (f : Obj → Obj) : (s.modObj n m f).unit = s.unit := rfl
@[simp] theorem State.modObj_test (s : State) (n m : Nat) (f : Obj → Obj) : (s.modObj n m f).test = s.test := rfl
@[simp] theorem State.modObj_adminOk (s : State) (n m : Nat) (f : Obj → Obj) : (s.modObj n m f).adminOk = s.adminOk := rfl
@[simp] theorem State.modObj_powerCap (s : State) (n m : Nat) (f : Obj → Obj) : (s.modObj n m f).powerCap = s.powerCap := rfl
@[simp] theorem State.modObj_throttled (s : State) (n m : Nat) (f : Obj → Obj) : (s.modObj n m f).throttled = s.throttled := rfl
@[simp] theorem State.modObj_firmware (s : State) (n m : Nat) (f : Obj → Obj) : (s.modObj n m f).firmware = s.firmware := rfl
@[simp] theorem State.modObj_staged (s : State) (n m : Nat) (f : Obj → Obj) : (s.modObj n m f).staged = s.staged := rfl
@[simp] theorem State.modObj_reports (s : State) (n m : Nat) (f : Obj → Obj) : (s.modObj n m f).reports = s.reports := rfl
@[simp] theorem State.modPlot_cycle (s : State) (n : Nat) (f : Plot → Plot) : (s.modPlot n f).cycle = s.cycle := rfl
@[simp] theorem State.modPlot_ts (s : State) (n : Nat) (f : Plot → Plot) : (s.modPlot n f).ts = s.ts := rfl
@[simp] theorem State.modPlot_tsPhase (s : State) (n : Nat) (f : Plot → Plot) : (s.modPlot n f).tsPhase = s.tsPhase := rfl
@[simp] theorem State.modPlot_slew (s : State) (n : Nat) (f : Plot → Plot) : (s.modPlot n f).slew = s.slew := rfl
@[simp] theorem State.modPlot_slewAcc (s : State) (n : Nat) (f : Plot → Plot) : (s.modPlot n f).slewAcc = s.slewAcc := rfl
@[simp] theorem State.modPlot_freeCtr (s : State) (n : Nat) (f : Plot → Plot) : (s.modPlot n f).freeCtr = s.freeCtr := rfl
@[simp] theorem State.modPlot_core (s : State) (n : Nat) (f : Plot → Plot) : (s.modPlot n f).core = s.core := rfl
@[simp] theorem State.modPlot_behind (s : State) (n : Nat) (f : Plot → Plot) : (s.modPlot n f).behind = s.behind := rfl
@[simp] theorem State.modPlot_ahead (s : State) (n : Nat) (f : Plot → Plot) : (s.modPlot n f).ahead = s.ahead := rfl
@[simp] theorem State.modPlot_fenced (s : State) (n : Nat) (f : Plot → Plot) : (s.modPlot n f).fenced = s.fenced := rfl
@[simp] theorem State.modPlot_pkg (s : State) (n : Nat) (f : Plot → Plot) : (s.modPlot n f).pkg = s.pkg := rfl
@[simp] theorem State.modPlot_inbox (s : State) (n : Nat) (f : Plot → Plot) : (s.modPlot n f).inbox = s.inbox := rfl
@[simp] theorem State.modPlot_agenda (s : State) (n : Nat) (f : Plot → Plot) : (s.modPlot n f).agenda = s.agenda := rfl
@[simp] theorem State.modPlot_subj (s : State) (n : Nat) (f : Plot → Plot) : (s.modPlot n f).subj = s.subj := rfl
@[simp] theorem State.modPlot_cmd (s : State) (n : Nat) (f : Plot → Plot) : (s.modPlot n f).cmd = s.cmd := rfl
@[simp] theorem State.modPlot_cmdWait (s : State) (n : Nat) (f : Plot → Plot) : (s.modPlot n f).cmdWait = s.cmdWait := rfl
@[simp] theorem State.modPlot_reqs (s : State) (n : Nat) (f : Plot → Plot) : (s.modPlot n f).reqs = s.reqs := rfl
@[simp] theorem State.modPlot_nextReq (s : State) (n : Nat) (f : Plot → Plot) : (s.modPlot n f).nextReq = s.nextReq := rfl
@[simp] theorem State.modPlot_colls (s : State) (n : Nat) (f : Plot → Plot) : (s.modPlot n f).colls = s.colls := rfl
@[simp] theorem State.modPlot_objs (s : State) (n : Nat) (f : Plot → Plot) : (s.modPlot n f).objs = s.objs := rfl
@[simp] theorem State.modPlot_token (s : State) (n : Nat) (f : Plot → Plot) : (s.modPlot n f).token = s.token := rfl
@[simp] theorem State.modPlot_hbmUsed (s : State) (n : Nat) (f : Plot → Plot) : (s.modPlot n f).hbmUsed = s.hbmUsed := rfl
@[simp] theorem State.modPlot_lpddrUsed (s : State) (n : Nat) (f : Plot → Plot) : (s.modPlot n f).lpddrUsed = s.lpddrUsed := rfl
@[simp] theorem State.modPlot_lastCharge (s : State) (n : Nat) (f : Plot → Plot) : (s.modPlot n f).lastCharge = s.lastCharge := rfl
@[simp] theorem State.modPlot_localCasts (s : State) (n : Nat) (f : Plot → Plot) : (s.modPlot n f).localCasts = s.localCasts := rfl
@[simp] theorem State.modPlot_told (s : State) (n : Nat) (f : Plot → Plot) : (s.modPlot n f).told = s.told := rfl
@[simp] theorem State.modPlot_hostHeld (s : State) (n : Nat) (f : Plot → Plot) : (s.modPlot n f).hostHeld = s.hostHeld := rfl
@[simp] theorem State.modPlot_cmdPins (s : State) (n : Nat) (f : Plot → Plot) : (s.modPlot n f).cmdPins = s.cmdPins := rfl
@[simp] theorem State.modPlot_overflow (s : State) (n : Nat) (f : Plot → Plot) : (s.modPlot n f).overflow = s.overflow := rfl
@[simp] theorem State.modPlot_mlc (s : State) (n : Nat) (f : Plot → Plot) : (s.modPlot n f).mlc = s.mlc := rfl
@[simp] theorem State.modPlot_nextPlot (s : State) (n : Nat) (f : Plot → Plot) : (s.modPlot n f).nextPlot = s.nextPlot := rfl
@[simp] theorem State.modPlot_nextInst (s : State) (n : Nat) (f : Plot → Plot) : (s.modPlot n f).nextInst = s.nextInst := rfl
@[simp] theorem State.modPlot_disps (s : State) (n : Nat) (f : Plot → Plot) : (s.modPlot n f).disps = s.disps := rfl
@[simp] theorem State.modPlot_saved (s : State) (n : Nat) (f : Plot → Plot) : (s.modPlot n f).saved = s.saved := rfl
@[simp] theorem State.modPlot_endings (s : State) (n : Nat) (f : Plot → Plot) : (s.modPlot n f).endings = s.endings := rfl
@[simp] theorem State.modPlot_rows (s : State) (n : Nat) (f : Plot → Plot) : (s.modPlot n f).rows = s.rows := rfl
@[simp] theorem State.modPlot_window (s : State) (n : Nat) (f : Plot → Plot) : (s.modPlot n f).window = s.window := rfl
@[simp] theorem State.modPlot_cxl (s : State) (n : Nat) (f : Plot → Plot) : (s.modPlot n f).cxl = s.cxl := rfl
@[simp] theorem State.modPlot_hostMem (s : State) (n : Nat) (f : Plot → Plot) : (s.modPlot n f).hostMem = s.hostMem := rfl
@[simp] theorem State.modPlot_pairs (s : State) (n : Nat) (f : Plot → Plot) : (s.modPlot n f).pairs = s.pairs := rfl
@[simp] theorem State.modPlot_apertures (s : State) (n : Nat) (f : Plot → Plot) : (s.modPlot n f).apertures = s.apertures := rfl
@[simp] theorem State.modPlot_discards (s : State) (n : Nat) (f : Plot → Plot) : (s.modPlot n f).discards = s.discards := rfl
@[simp] theorem State.modPlot_journal (s : State) (n : Nat) (f : Plot → Plot) : (s.modPlot n f).journal = s.journal := rfl
@[simp] theorem State.modPlot_nextSeq (s : State) (n : Nat) (f : Plot → Plot) : (s.modPlot n f).nextSeq = s.nextSeq := rfl
@[simp] theorem State.modPlot_journTs (s : State) (n : Nat) (f : Plot → Plot) : (s.modPlot n f).journTs = s.journTs := rfl
@[simp] theorem State.modPlot_journWait (s : State) (n : Nat) (f : Plot → Plot) : (s.modPlot n f).journWait = s.journWait := rfl
@[simp] theorem State.modPlot_granules (s : State) (n : Nat) (f : Plot → Plot) : (s.modPlot n f).granules = s.granules := rfl
@[simp] theorem State.modPlot_answers (s : State) (n : Nat) (f : Plot → Plot) : (s.modPlot n f).answers = s.answers := rfl
@[simp] theorem State.modPlot_irqs (s : State) (n : Nat) (f : Plot → Plot) : (s.modPlot n f).irqs = s.irqs := rfl
@[simp] theorem State.modPlot_peers (s : State) (n : Nat) (f : Plot → Plot) : (s.modPlot n f).peers = s.peers := rfl
@[simp] theorem State.modPlot_outbox (s : State) (n : Nat) (f : Plot → Plot) : (s.modPlot n f).outbox = s.outbox := rfl
@[simp] theorem State.modPlot_heldReads (s : State) (n : Nat) (f : Plot → Plot) : (s.modPlot n f).heldReads = s.heldReads := rfl
@[simp] theorem State.modPlot_errors (s : State) (n : Nat) (f : Plot → Plot) : (s.modPlot n f).errors = s.errors := rfl
@[simp] theorem State.modPlot_ways (s : State) (n : Nat) (f : Plot → Plot) : (s.modPlot n f).ways = s.ways := rfl
@[simp] theorem State.modPlot_retiring (s : State) (n : Nat) (f : Plot → Plot) : (s.modPlot n f).retiring = s.retiring := rfl
@[simp] theorem State.modPlot_power (s : State) (n : Nat) (f : Plot → Plot) : (s.modPlot n f).power = s.power := rfl
@[simp] theorem State.modPlot_reason (s : State) (n : Nat) (f : Plot → Plot) : (s.modPlot n f).reason = s.reason := rfl
@[simp] theorem State.modPlot_unit (s : State) (n : Nat) (f : Plot → Plot) : (s.modPlot n f).unit = s.unit := rfl
@[simp] theorem State.modPlot_test (s : State) (n : Nat) (f : Plot → Plot) : (s.modPlot n f).test = s.test := rfl
@[simp] theorem State.modPlot_adminOk (s : State) (n : Nat) (f : Plot → Plot) : (s.modPlot n f).adminOk = s.adminOk := rfl
@[simp] theorem State.modPlot_powerCap (s : State) (n : Nat) (f : Plot → Plot) : (s.modPlot n f).powerCap = s.powerCap := rfl
@[simp] theorem State.modPlot_throttled (s : State) (n : Nat) (f : Plot → Plot) : (s.modPlot n f).throttled = s.throttled := rfl
@[simp] theorem State.modPlot_firmware (s : State) (n : Nat) (f : Plot → Plot) : (s.modPlot n f).firmware = s.firmware := rfl
@[simp] theorem State.modPlot_staged (s : State) (n : Nat) (f : Plot → Plot) : (s.modPlot n f).staged = s.staged := rfl
@[simp] theorem State.modPlot_reports (s : State) (n : Nat) (f : Plot → Plot) : (s.modPlot n f).reports = s.reports := rfl
@[simp] theorem State.modReq_cycle (s : State) (n : Nat) (f : Req → Req) : (s.modReq n f).cycle = s.cycle := rfl
@[simp] theorem State.modReq_ts (s : State) (n : Nat) (f : Req → Req) : (s.modReq n f).ts = s.ts := rfl
@[simp] theorem State.modReq_tsPhase (s : State) (n : Nat) (f : Req → Req) : (s.modReq n f).tsPhase = s.tsPhase := rfl
@[simp] theorem State.modReq_slew (s : State) (n : Nat) (f : Req → Req) : (s.modReq n f).slew = s.slew := rfl
@[simp] theorem State.modReq_slewAcc (s : State) (n : Nat) (f : Req → Req) : (s.modReq n f).slewAcc = s.slewAcc := rfl
@[simp] theorem State.modReq_freeCtr (s : State) (n : Nat) (f : Req → Req) : (s.modReq n f).freeCtr = s.freeCtr := rfl
@[simp] theorem State.modReq_core (s : State) (n : Nat) (f : Req → Req) : (s.modReq n f).core = s.core := rfl
@[simp] theorem State.modReq_behind (s : State) (n : Nat) (f : Req → Req) : (s.modReq n f).behind = s.behind := rfl
@[simp] theorem State.modReq_ahead (s : State) (n : Nat) (f : Req → Req) : (s.modReq n f).ahead = s.ahead := rfl
@[simp] theorem State.modReq_fenced (s : State) (n : Nat) (f : Req → Req) : (s.modReq n f).fenced = s.fenced := rfl
@[simp] theorem State.modReq_pkg (s : State) (n : Nat) (f : Req → Req) : (s.modReq n f).pkg = s.pkg := rfl
@[simp] theorem State.modReq_inbox (s : State) (n : Nat) (f : Req → Req) : (s.modReq n f).inbox = s.inbox := rfl
@[simp] theorem State.modReq_agenda (s : State) (n : Nat) (f : Req → Req) : (s.modReq n f).agenda = s.agenda := rfl
@[simp] theorem State.modReq_subj (s : State) (n : Nat) (f : Req → Req) : (s.modReq n f).subj = s.subj := rfl
@[simp] theorem State.modReq_cmd (s : State) (n : Nat) (f : Req → Req) : (s.modReq n f).cmd = s.cmd := rfl
@[simp] theorem State.modReq_cmdWait (s : State) (n : Nat) (f : Req → Req) : (s.modReq n f).cmdWait = s.cmdWait := rfl
@[simp] theorem State.modReq_nextReq (s : State) (n : Nat) (f : Req → Req) : (s.modReq n f).nextReq = s.nextReq := rfl
@[simp] theorem State.modReq_colls (s : State) (n : Nat) (f : Req → Req) : (s.modReq n f).colls = s.colls := rfl
@[simp] theorem State.modReq_objs (s : State) (n : Nat) (f : Req → Req) : (s.modReq n f).objs = s.objs := rfl
@[simp] theorem State.modReq_token (s : State) (n : Nat) (f : Req → Req) : (s.modReq n f).token = s.token := rfl
@[simp] theorem State.modReq_hbmUsed (s : State) (n : Nat) (f : Req → Req) : (s.modReq n f).hbmUsed = s.hbmUsed := rfl
@[simp] theorem State.modReq_lpddrUsed (s : State) (n : Nat) (f : Req → Req) : (s.modReq n f).lpddrUsed = s.lpddrUsed := rfl
@[simp] theorem State.modReq_lastCharge (s : State) (n : Nat) (f : Req → Req) : (s.modReq n f).lastCharge = s.lastCharge := rfl
@[simp] theorem State.modReq_localCasts (s : State) (n : Nat) (f : Req → Req) : (s.modReq n f).localCasts = s.localCasts := rfl
@[simp] theorem State.modReq_told (s : State) (n : Nat) (f : Req → Req) : (s.modReq n f).told = s.told := rfl
@[simp] theorem State.modReq_hostHeld (s : State) (n : Nat) (f : Req → Req) : (s.modReq n f).hostHeld = s.hostHeld := rfl
@[simp] theorem State.modReq_cmdPins (s : State) (n : Nat) (f : Req → Req) : (s.modReq n f).cmdPins = s.cmdPins := rfl
@[simp] theorem State.modReq_overflow (s : State) (n : Nat) (f : Req → Req) : (s.modReq n f).overflow = s.overflow := rfl
@[simp] theorem State.modReq_mlc (s : State) (n : Nat) (f : Req → Req) : (s.modReq n f).mlc = s.mlc := rfl
@[simp] theorem State.modReq_plots (s : State) (n : Nat) (f : Req → Req) : (s.modReq n f).plots = s.plots := rfl
@[simp] theorem State.modReq_nextPlot (s : State) (n : Nat) (f : Req → Req) : (s.modReq n f).nextPlot = s.nextPlot := rfl
@[simp] theorem State.modReq_nextInst (s : State) (n : Nat) (f : Req → Req) : (s.modReq n f).nextInst = s.nextInst := rfl
@[simp] theorem State.modReq_disps (s : State) (n : Nat) (f : Req → Req) : (s.modReq n f).disps = s.disps := rfl
@[simp] theorem State.modReq_saved (s : State) (n : Nat) (f : Req → Req) : (s.modReq n f).saved = s.saved := rfl
@[simp] theorem State.modReq_endings (s : State) (n : Nat) (f : Req → Req) : (s.modReq n f).endings = s.endings := rfl
@[simp] theorem State.modReq_rows (s : State) (n : Nat) (f : Req → Req) : (s.modReq n f).rows = s.rows := rfl
@[simp] theorem State.modReq_window (s : State) (n : Nat) (f : Req → Req) : (s.modReq n f).window = s.window := rfl
@[simp] theorem State.modReq_cxl (s : State) (n : Nat) (f : Req → Req) : (s.modReq n f).cxl = s.cxl := rfl
@[simp] theorem State.modReq_hostMem (s : State) (n : Nat) (f : Req → Req) : (s.modReq n f).hostMem = s.hostMem := rfl
@[simp] theorem State.modReq_pairs (s : State) (n : Nat) (f : Req → Req) : (s.modReq n f).pairs = s.pairs := rfl
@[simp] theorem State.modReq_apertures (s : State) (n : Nat) (f : Req → Req) : (s.modReq n f).apertures = s.apertures := rfl
@[simp] theorem State.modReq_discards (s : State) (n : Nat) (f : Req → Req) : (s.modReq n f).discards = s.discards := rfl
@[simp] theorem State.modReq_journal (s : State) (n : Nat) (f : Req → Req) : (s.modReq n f).journal = s.journal := rfl
@[simp] theorem State.modReq_nextSeq (s : State) (n : Nat) (f : Req → Req) : (s.modReq n f).nextSeq = s.nextSeq := rfl
@[simp] theorem State.modReq_journTs (s : State) (n : Nat) (f : Req → Req) : (s.modReq n f).journTs = s.journTs := rfl
@[simp] theorem State.modReq_journWait (s : State) (n : Nat) (f : Req → Req) : (s.modReq n f).journWait = s.journWait := rfl
@[simp] theorem State.modReq_granules (s : State) (n : Nat) (f : Req → Req) : (s.modReq n f).granules = s.granules := rfl
@[simp] theorem State.modReq_answers (s : State) (n : Nat) (f : Req → Req) : (s.modReq n f).answers = s.answers := rfl
@[simp] theorem State.modReq_irqs (s : State) (n : Nat) (f : Req → Req) : (s.modReq n f).irqs = s.irqs := rfl
@[simp] theorem State.modReq_peers (s : State) (n : Nat) (f : Req → Req) : (s.modReq n f).peers = s.peers := rfl
@[simp] theorem State.modReq_outbox (s : State) (n : Nat) (f : Req → Req) : (s.modReq n f).outbox = s.outbox := rfl
@[simp] theorem State.modReq_heldReads (s : State) (n : Nat) (f : Req → Req) : (s.modReq n f).heldReads = s.heldReads := rfl
@[simp] theorem State.modReq_errors (s : State) (n : Nat) (f : Req → Req) : (s.modReq n f).errors = s.errors := rfl
@[simp] theorem State.modReq_ways (s : State) (n : Nat) (f : Req → Req) : (s.modReq n f).ways = s.ways := rfl
@[simp] theorem State.modReq_retiring (s : State) (n : Nat) (f : Req → Req) : (s.modReq n f).retiring = s.retiring := rfl
@[simp] theorem State.modReq_power (s : State) (n : Nat) (f : Req → Req) : (s.modReq n f).power = s.power := rfl
@[simp] theorem State.modReq_reason (s : State) (n : Nat) (f : Req → Req) : (s.modReq n f).reason = s.reason := rfl
@[simp] theorem State.modReq_unit (s : State) (n : Nat) (f : Req → Req) : (s.modReq n f).unit = s.unit := rfl
@[simp] theorem State.modReq_test (s : State) (n : Nat) (f : Req → Req) : (s.modReq n f).test = s.test := rfl
@[simp] theorem State.modReq_adminOk (s : State) (n : Nat) (f : Req → Req) : (s.modReq n f).adminOk = s.adminOk := rfl
@[simp] theorem State.modReq_powerCap (s : State) (n : Nat) (f : Req → Req) : (s.modReq n f).powerCap = s.powerCap := rfl
@[simp] theorem State.modReq_throttled (s : State) (n : Nat) (f : Req → Req) : (s.modReq n f).throttled = s.throttled := rfl
@[simp] theorem State.modReq_firmware (s : State) (n : Nat) (f : Req → Req) : (s.modReq n f).firmware = s.firmware := rfl
@[simp] theorem State.modReq_staged (s : State) (n : Nat) (f : Req → Req) : (s.modReq n f).staged = s.staged := rfl
@[simp] theorem State.modReq_reports (s : State) (n : Nat) (f : Req → Req) : (s.modReq n f).reports = s.reports := rfl
@[simp] theorem State.toStage_cycle (s : State) (g : Stage) : (s.toStage g).cycle = s.cycle := rfl
@[simp] theorem State.toStage_ts (s : State) (g : Stage) : (s.toStage g).ts = s.ts := rfl
@[simp] theorem State.toStage_tsPhase (s : State) (g : Stage) : (s.toStage g).tsPhase = s.tsPhase := rfl
@[simp] theorem State.toStage_slew (s : State) (g : Stage) : (s.toStage g).slew = s.slew := rfl
@[simp] theorem State.toStage_slewAcc (s : State) (g : Stage) : (s.toStage g).slewAcc = s.slewAcc := rfl
@[simp] theorem State.toStage_freeCtr (s : State) (g : Stage) : (s.toStage g).freeCtr = s.freeCtr := rfl
@[simp] theorem State.toStage_behind (s : State) (g : Stage) : (s.toStage g).behind = s.behind := rfl
@[simp] theorem State.toStage_ahead (s : State) (g : Stage) : (s.toStage g).ahead = s.ahead := rfl
@[simp] theorem State.toStage_fenced (s : State) (g : Stage) : (s.toStage g).fenced = s.fenced := rfl
@[simp] theorem State.toStage_pkg (s : State) (g : Stage) : (s.toStage g).pkg = s.pkg := rfl
@[simp] theorem State.toStage_inbox (s : State) (g : Stage) : (s.toStage g).inbox = s.inbox := rfl
@[simp] theorem State.toStage_agenda (s : State) (g : Stage) : (s.toStage g).agenda = s.agenda := rfl
@[simp] theorem State.toStage_subj (s : State) (g : Stage) : (s.toStage g).subj = s.subj := rfl
@[simp] theorem State.toStage_cmd (s : State) (g : Stage) : (s.toStage g).cmd = s.cmd := rfl
@[simp] theorem State.toStage_cmdWait (s : State) (g : Stage) : (s.toStage g).cmdWait = s.cmdWait := rfl
@[simp] theorem State.toStage_reqs (s : State) (g : Stage) : (s.toStage g).reqs = s.reqs := rfl
@[simp] theorem State.toStage_nextReq (s : State) (g : Stage) : (s.toStage g).nextReq = s.nextReq := rfl
@[simp] theorem State.toStage_colls (s : State) (g : Stage) : (s.toStage g).colls = s.colls := rfl
@[simp] theorem State.toStage_objs (s : State) (g : Stage) : (s.toStage g).objs = s.objs := rfl
@[simp] theorem State.toStage_token (s : State) (g : Stage) : (s.toStage g).token = s.token := rfl
@[simp] theorem State.toStage_hbmUsed (s : State) (g : Stage) : (s.toStage g).hbmUsed = s.hbmUsed := rfl
@[simp] theorem State.toStage_lpddrUsed (s : State) (g : Stage) : (s.toStage g).lpddrUsed = s.lpddrUsed := rfl
@[simp] theorem State.toStage_lastCharge (s : State) (g : Stage) : (s.toStage g).lastCharge = s.lastCharge := rfl
@[simp] theorem State.toStage_localCasts (s : State) (g : Stage) : (s.toStage g).localCasts = s.localCasts := rfl
@[simp] theorem State.toStage_told (s : State) (g : Stage) : (s.toStage g).told = s.told := rfl
@[simp] theorem State.toStage_hostHeld (s : State) (g : Stage) : (s.toStage g).hostHeld = s.hostHeld := rfl
@[simp] theorem State.toStage_cmdPins (s : State) (g : Stage) : (s.toStage g).cmdPins = s.cmdPins := rfl
@[simp] theorem State.toStage_overflow (s : State) (g : Stage) : (s.toStage g).overflow = s.overflow := rfl
@[simp] theorem State.toStage_mlc (s : State) (g : Stage) : (s.toStage g).mlc = s.mlc := rfl
@[simp] theorem State.toStage_plots (s : State) (g : Stage) : (s.toStage g).plots = s.plots := rfl
@[simp] theorem State.toStage_nextPlot (s : State) (g : Stage) : (s.toStage g).nextPlot = s.nextPlot := rfl
@[simp] theorem State.toStage_nextInst (s : State) (g : Stage) : (s.toStage g).nextInst = s.nextInst := rfl
@[simp] theorem State.toStage_disps (s : State) (g : Stage) : (s.toStage g).disps = s.disps := rfl
@[simp] theorem State.toStage_saved (s : State) (g : Stage) : (s.toStage g).saved = s.saved := rfl
@[simp] theorem State.toStage_endings (s : State) (g : Stage) : (s.toStage g).endings = s.endings := rfl
@[simp] theorem State.toStage_rows (s : State) (g : Stage) : (s.toStage g).rows = s.rows := rfl
@[simp] theorem State.toStage_window (s : State) (g : Stage) : (s.toStage g).window = s.window := rfl
@[simp] theorem State.toStage_cxl (s : State) (g : Stage) : (s.toStage g).cxl = s.cxl := rfl
@[simp] theorem State.toStage_hostMem (s : State) (g : Stage) : (s.toStage g).hostMem = s.hostMem := rfl
@[simp] theorem State.toStage_pairs (s : State) (g : Stage) : (s.toStage g).pairs = s.pairs := rfl
@[simp] theorem State.toStage_apertures (s : State) (g : Stage) : (s.toStage g).apertures = s.apertures := rfl
@[simp] theorem State.toStage_discards (s : State) (g : Stage) : (s.toStage g).discards = s.discards := rfl
@[simp] theorem State.toStage_journal (s : State) (g : Stage) : (s.toStage g).journal = s.journal := rfl
@[simp] theorem State.toStage_nextSeq (s : State) (g : Stage) : (s.toStage g).nextSeq = s.nextSeq := rfl
@[simp] theorem State.toStage_journTs (s : State) (g : Stage) : (s.toStage g).journTs = s.journTs := rfl
@[simp] theorem State.toStage_journWait (s : State) (g : Stage) : (s.toStage g).journWait = s.journWait := rfl
@[simp] theorem State.toStage_granules (s : State) (g : Stage) : (s.toStage g).granules = s.granules := rfl
@[simp] theorem State.toStage_answers (s : State) (g : Stage) : (s.toStage g).answers = s.answers := rfl
@[simp] theorem State.toStage_irqs (s : State) (g : Stage) : (s.toStage g).irqs = s.irqs := rfl
@[simp] theorem State.toStage_peers (s : State) (g : Stage) : (s.toStage g).peers = s.peers := rfl
@[simp] theorem State.toStage_outbox (s : State) (g : Stage) : (s.toStage g).outbox = s.outbox := rfl
@[simp] theorem State.toStage_heldReads (s : State) (g : Stage) : (s.toStage g).heldReads = s.heldReads := rfl
@[simp] theorem State.toStage_errors (s : State) (g : Stage) : (s.toStage g).errors = s.errors := rfl
@[simp] theorem State.toStage_ways (s : State) (g : Stage) : (s.toStage g).ways = s.ways := rfl
@[simp] theorem State.toStage_retiring (s : State) (g : Stage) : (s.toStage g).retiring = s.retiring := rfl
@[simp] theorem State.toStage_power (s : State) (g : Stage) : (s.toStage g).power = s.power := rfl
@[simp] theorem State.toStage_reason (s : State) (g : Stage) : (s.toStage g).reason = s.reason := rfl
@[simp] theorem State.toStage_unit (s : State) (g : Stage) : (s.toStage g).unit = s.unit := rfl
@[simp] theorem State.toStage_test (s : State) (g : Stage) : (s.toStage g).test = s.test := rfl
@[simp] theorem State.toStage_adminOk (s : State) (g : Stage) : (s.toStage g).adminOk = s.adminOk := rfl
@[simp] theorem State.toStage_powerCap (s : State) (g : Stage) : (s.toStage g).powerCap = s.powerCap := rfl
@[simp] theorem State.toStage_throttled (s : State) (g : Stage) : (s.toStage g).throttled = s.throttled := rfl
@[simp] theorem State.toStage_firmware (s : State) (g : Stage) : (s.toStage g).firmware = s.firmware := rfl
@[simp] theorem State.toStage_staged (s : State) (g : Stage) : (s.toStage g).staged = s.staged := rfl
@[simp] theorem State.toStage_reports (s : State) (g : Stage) : (s.toStage g).reports = s.reports := rfl
@[simp] theorem State.modDisp_cycle (s : State) (n : Nat) (f : Disp → Disp) : (s.modDisp n f).cycle = s.cycle := rfl
@[simp] theorem State.modDisp_ts (s : State) (n : Nat) (f : Disp → Disp) : (s.modDisp n f).ts = s.ts := rfl
@[simp] theorem State.modDisp_tsPhase (s : State) (n : Nat) (f : Disp → Disp) : (s.modDisp n f).tsPhase = s.tsPhase := rfl
@[simp] theorem State.modDisp_slew (s : State) (n : Nat) (f : Disp → Disp) : (s.modDisp n f).slew = s.slew := rfl
@[simp] theorem State.modDisp_slewAcc (s : State) (n : Nat) (f : Disp → Disp) : (s.modDisp n f).slewAcc = s.slewAcc := rfl
@[simp] theorem State.modDisp_freeCtr (s : State) (n : Nat) (f : Disp → Disp) : (s.modDisp n f).freeCtr = s.freeCtr := rfl
@[simp] theorem State.modDisp_core (s : State) (n : Nat) (f : Disp → Disp) : (s.modDisp n f).core = s.core := rfl
@[simp] theorem State.modDisp_behind (s : State) (n : Nat) (f : Disp → Disp) : (s.modDisp n f).behind = s.behind := rfl
@[simp] theorem State.modDisp_ahead (s : State) (n : Nat) (f : Disp → Disp) : (s.modDisp n f).ahead = s.ahead := rfl
@[simp] theorem State.modDisp_fenced (s : State) (n : Nat) (f : Disp → Disp) : (s.modDisp n f).fenced = s.fenced := rfl
@[simp] theorem State.modDisp_pkg (s : State) (n : Nat) (f : Disp → Disp) : (s.modDisp n f).pkg = s.pkg := rfl
@[simp] theorem State.modDisp_inbox (s : State) (n : Nat) (f : Disp → Disp) : (s.modDisp n f).inbox = s.inbox := rfl
@[simp] theorem State.modDisp_agenda (s : State) (n : Nat) (f : Disp → Disp) : (s.modDisp n f).agenda = s.agenda := rfl
@[simp] theorem State.modDisp_subj (s : State) (n : Nat) (f : Disp → Disp) : (s.modDisp n f).subj = s.subj := rfl
@[simp] theorem State.modDisp_cmd (s : State) (n : Nat) (f : Disp → Disp) : (s.modDisp n f).cmd = s.cmd := rfl
@[simp] theorem State.modDisp_cmdWait (s : State) (n : Nat) (f : Disp → Disp) : (s.modDisp n f).cmdWait = s.cmdWait := rfl
@[simp] theorem State.modDisp_reqs (s : State) (n : Nat) (f : Disp → Disp) : (s.modDisp n f).reqs = s.reqs := rfl
@[simp] theorem State.modDisp_nextReq (s : State) (n : Nat) (f : Disp → Disp) : (s.modDisp n f).nextReq = s.nextReq := rfl
@[simp] theorem State.modDisp_colls (s : State) (n : Nat) (f : Disp → Disp) : (s.modDisp n f).colls = s.colls := rfl
@[simp] theorem State.modDisp_objs (s : State) (n : Nat) (f : Disp → Disp) : (s.modDisp n f).objs = s.objs := rfl
@[simp] theorem State.modDisp_token (s : State) (n : Nat) (f : Disp → Disp) : (s.modDisp n f).token = s.token := rfl
@[simp] theorem State.modDisp_hbmUsed (s : State) (n : Nat) (f : Disp → Disp) : (s.modDisp n f).hbmUsed = s.hbmUsed := rfl
@[simp] theorem State.modDisp_lpddrUsed (s : State) (n : Nat) (f : Disp → Disp) : (s.modDisp n f).lpddrUsed = s.lpddrUsed := rfl
@[simp] theorem State.modDisp_lastCharge (s : State) (n : Nat) (f : Disp → Disp) : (s.modDisp n f).lastCharge = s.lastCharge := rfl
@[simp] theorem State.modDisp_localCasts (s : State) (n : Nat) (f : Disp → Disp) : (s.modDisp n f).localCasts = s.localCasts := rfl
@[simp] theorem State.modDisp_told (s : State) (n : Nat) (f : Disp → Disp) : (s.modDisp n f).told = s.told := rfl
@[simp] theorem State.modDisp_hostHeld (s : State) (n : Nat) (f : Disp → Disp) : (s.modDisp n f).hostHeld = s.hostHeld := rfl
@[simp] theorem State.modDisp_cmdPins (s : State) (n : Nat) (f : Disp → Disp) : (s.modDisp n f).cmdPins = s.cmdPins := rfl
@[simp] theorem State.modDisp_overflow (s : State) (n : Nat) (f : Disp → Disp) : (s.modDisp n f).overflow = s.overflow := rfl
@[simp] theorem State.modDisp_mlc (s : State) (n : Nat) (f : Disp → Disp) : (s.modDisp n f).mlc = s.mlc := rfl
@[simp] theorem State.modDisp_plots (s : State) (n : Nat) (f : Disp → Disp) : (s.modDisp n f).plots = s.plots := rfl
@[simp] theorem State.modDisp_nextPlot (s : State) (n : Nat) (f : Disp → Disp) : (s.modDisp n f).nextPlot = s.nextPlot := rfl
@[simp] theorem State.modDisp_nextInst (s : State) (n : Nat) (f : Disp → Disp) : (s.modDisp n f).nextInst = s.nextInst := rfl
@[simp] theorem State.modDisp_saved (s : State) (n : Nat) (f : Disp → Disp) : (s.modDisp n f).saved = s.saved := rfl
@[simp] theorem State.modDisp_endings (s : State) (n : Nat) (f : Disp → Disp) : (s.modDisp n f).endings = s.endings := rfl
@[simp] theorem State.modDisp_rows (s : State) (n : Nat) (f : Disp → Disp) : (s.modDisp n f).rows = s.rows := rfl
@[simp] theorem State.modDisp_window (s : State) (n : Nat) (f : Disp → Disp) : (s.modDisp n f).window = s.window := rfl
@[simp] theorem State.modDisp_cxl (s : State) (n : Nat) (f : Disp → Disp) : (s.modDisp n f).cxl = s.cxl := rfl
@[simp] theorem State.modDisp_hostMem (s : State) (n : Nat) (f : Disp → Disp) : (s.modDisp n f).hostMem = s.hostMem := rfl
@[simp] theorem State.modDisp_pairs (s : State) (n : Nat) (f : Disp → Disp) : (s.modDisp n f).pairs = s.pairs := rfl
@[simp] theorem State.modDisp_apertures (s : State) (n : Nat) (f : Disp → Disp) : (s.modDisp n f).apertures = s.apertures := rfl
@[simp] theorem State.modDisp_discards (s : State) (n : Nat) (f : Disp → Disp) : (s.modDisp n f).discards = s.discards := rfl
@[simp] theorem State.modDisp_journal (s : State) (n : Nat) (f : Disp → Disp) : (s.modDisp n f).journal = s.journal := rfl
@[simp] theorem State.modDisp_nextSeq (s : State) (n : Nat) (f : Disp → Disp) : (s.modDisp n f).nextSeq = s.nextSeq := rfl
@[simp] theorem State.modDisp_journTs (s : State) (n : Nat) (f : Disp → Disp) : (s.modDisp n f).journTs = s.journTs := rfl
@[simp] theorem State.modDisp_journWait (s : State) (n : Nat) (f : Disp → Disp) : (s.modDisp n f).journWait = s.journWait := rfl
@[simp] theorem State.modDisp_granules (s : State) (n : Nat) (f : Disp → Disp) : (s.modDisp n f).granules = s.granules := rfl
@[simp] theorem State.modDisp_answers (s : State) (n : Nat) (f : Disp → Disp) : (s.modDisp n f).answers = s.answers := rfl
@[simp] theorem State.modDisp_irqs (s : State) (n : Nat) (f : Disp → Disp) : (s.modDisp n f).irqs = s.irqs := rfl
@[simp] theorem State.modDisp_peers (s : State) (n : Nat) (f : Disp → Disp) : (s.modDisp n f).peers = s.peers := rfl
@[simp] theorem State.modDisp_outbox (s : State) (n : Nat) (f : Disp → Disp) : (s.modDisp n f).outbox = s.outbox := rfl
@[simp] theorem State.modDisp_heldReads (s : State) (n : Nat) (f : Disp → Disp) : (s.modDisp n f).heldReads = s.heldReads := rfl
@[simp] theorem State.modDisp_errors (s : State) (n : Nat) (f : Disp → Disp) : (s.modDisp n f).errors = s.errors := rfl
@[simp] theorem State.modDisp_ways (s : State) (n : Nat) (f : Disp → Disp) : (s.modDisp n f).ways = s.ways := rfl
@[simp] theorem State.modDisp_retiring (s : State) (n : Nat) (f : Disp → Disp) : (s.modDisp n f).retiring = s.retiring := rfl
@[simp] theorem State.modDisp_power (s : State) (n : Nat) (f : Disp → Disp) : (s.modDisp n f).power = s.power := rfl
@[simp] theorem State.modDisp_reason (s : State) (n : Nat) (f : Disp → Disp) : (s.modDisp n f).reason = s.reason := rfl
@[simp] theorem State.modDisp_unit (s : State) (n : Nat) (f : Disp → Disp) : (s.modDisp n f).unit = s.unit := rfl
@[simp] theorem State.modDisp_test (s : State) (n : Nat) (f : Disp → Disp) : (s.modDisp n f).test = s.test := rfl
@[simp] theorem State.modDisp_adminOk (s : State) (n : Nat) (f : Disp → Disp) : (s.modDisp n f).adminOk = s.adminOk := rfl
@[simp] theorem State.modDisp_powerCap (s : State) (n : Nat) (f : Disp → Disp) : (s.modDisp n f).powerCap = s.powerCap := rfl
@[simp] theorem State.modDisp_throttled (s : State) (n : Nat) (f : Disp → Disp) : (s.modDisp n f).throttled = s.throttled := rfl
@[simp] theorem State.modDisp_firmware (s : State) (n : Nat) (f : Disp → Disp) : (s.modDisp n f).firmware = s.firmware := rfl
@[simp] theorem State.modDisp_staged (s : State) (n : Nat) (f : Disp → Disp) : (s.modDisp n f).staged = s.staged := rfl
@[simp] theorem State.modDisp_reports (s : State) (n : Nat) (f : Disp → Disp) : (s.modDisp n f).reports = s.reports := rfl
@[simp] theorem State.again_cycle (s : State) (n : Nat) (i : Instr) : (s.again n i).cycle = s.cycle := rfl
@[simp] theorem State.again_ts (s : State) (n : Nat) (i : Instr) : (s.again n i).ts = s.ts := rfl
@[simp] theorem State.again_tsPhase (s : State) (n : Nat) (i : Instr) : (s.again n i).tsPhase = s.tsPhase := rfl
@[simp] theorem State.again_slew (s : State) (n : Nat) (i : Instr) : (s.again n i).slew = s.slew := rfl
@[simp] theorem State.again_slewAcc (s : State) (n : Nat) (i : Instr) : (s.again n i).slewAcc = s.slewAcc := rfl
@[simp] theorem State.again_freeCtr (s : State) (n : Nat) (i : Instr) : (s.again n i).freeCtr = s.freeCtr := rfl
@[simp] theorem State.again_core (s : State) (n : Nat) (i : Instr) : (s.again n i).core = s.core := rfl
@[simp] theorem State.again_behind (s : State) (n : Nat) (i : Instr) : (s.again n i).behind = s.behind := rfl
@[simp] theorem State.again_ahead (s : State) (n : Nat) (i : Instr) : (s.again n i).ahead = s.ahead := rfl
@[simp] theorem State.again_fenced (s : State) (n : Nat) (i : Instr) : (s.again n i).fenced = s.fenced := rfl
@[simp] theorem State.again_pkg (s : State) (n : Nat) (i : Instr) : (s.again n i).pkg = s.pkg := rfl
@[simp] theorem State.again_inbox (s : State) (n : Nat) (i : Instr) : (s.again n i).inbox = s.inbox := rfl
@[simp] theorem State.again_subj (s : State) (n : Nat) (i : Instr) : (s.again n i).subj = s.subj := rfl
@[simp] theorem State.again_cmd (s : State) (n : Nat) (i : Instr) : (s.again n i).cmd = s.cmd := rfl
@[simp] theorem State.again_cmdWait (s : State) (n : Nat) (i : Instr) : (s.again n i).cmdWait = s.cmdWait := rfl
@[simp] theorem State.again_reqs (s : State) (n : Nat) (i : Instr) : (s.again n i).reqs = s.reqs := rfl
@[simp] theorem State.again_nextReq (s : State) (n : Nat) (i : Instr) : (s.again n i).nextReq = s.nextReq := rfl
@[simp] theorem State.again_colls (s : State) (n : Nat) (i : Instr) : (s.again n i).colls = s.colls := rfl
@[simp] theorem State.again_objs (s : State) (n : Nat) (i : Instr) : (s.again n i).objs = s.objs := rfl
@[simp] theorem State.again_token (s : State) (n : Nat) (i : Instr) : (s.again n i).token = s.token := rfl
@[simp] theorem State.again_hbmUsed (s : State) (n : Nat) (i : Instr) : (s.again n i).hbmUsed = s.hbmUsed := rfl
@[simp] theorem State.again_lpddrUsed (s : State) (n : Nat) (i : Instr) : (s.again n i).lpddrUsed = s.lpddrUsed := rfl
@[simp] theorem State.again_lastCharge (s : State) (n : Nat) (i : Instr) : (s.again n i).lastCharge = s.lastCharge := rfl
@[simp] theorem State.again_localCasts (s : State) (n : Nat) (i : Instr) : (s.again n i).localCasts = s.localCasts := rfl
@[simp] theorem State.again_told (s : State) (n : Nat) (i : Instr) : (s.again n i).told = s.told := rfl
@[simp] theorem State.again_hostHeld (s : State) (n : Nat) (i : Instr) : (s.again n i).hostHeld = s.hostHeld := rfl
@[simp] theorem State.again_cmdPins (s : State) (n : Nat) (i : Instr) : (s.again n i).cmdPins = s.cmdPins := rfl
@[simp] theorem State.again_overflow (s : State) (n : Nat) (i : Instr) : (s.again n i).overflow = s.overflow := rfl
@[simp] theorem State.again_mlc (s : State) (n : Nat) (i : Instr) : (s.again n i).mlc = s.mlc := rfl
@[simp] theorem State.again_plots (s : State) (n : Nat) (i : Instr) : (s.again n i).plots = s.plots := rfl
@[simp] theorem State.again_nextPlot (s : State) (n : Nat) (i : Instr) : (s.again n i).nextPlot = s.nextPlot := rfl
@[simp] theorem State.again_nextInst (s : State) (n : Nat) (i : Instr) : (s.again n i).nextInst = s.nextInst := rfl
@[simp] theorem State.again_disps (s : State) (n : Nat) (i : Instr) : (s.again n i).disps = s.disps := rfl
@[simp] theorem State.again_saved (s : State) (n : Nat) (i : Instr) : (s.again n i).saved = s.saved := rfl
@[simp] theorem State.again_endings (s : State) (n : Nat) (i : Instr) : (s.again n i).endings = s.endings := rfl
@[simp] theorem State.again_rows (s : State) (n : Nat) (i : Instr) : (s.again n i).rows = s.rows := rfl
@[simp] theorem State.again_window (s : State) (n : Nat) (i : Instr) : (s.again n i).window = s.window := rfl
@[simp] theorem State.again_cxl (s : State) (n : Nat) (i : Instr) : (s.again n i).cxl = s.cxl := rfl
@[simp] theorem State.again_hostMem (s : State) (n : Nat) (i : Instr) : (s.again n i).hostMem = s.hostMem := rfl
@[simp] theorem State.again_pairs (s : State) (n : Nat) (i : Instr) : (s.again n i).pairs = s.pairs := rfl
@[simp] theorem State.again_apertures (s : State) (n : Nat) (i : Instr) : (s.again n i).apertures = s.apertures := rfl
@[simp] theorem State.again_discards (s : State) (n : Nat) (i : Instr) : (s.again n i).discards = s.discards := rfl
@[simp] theorem State.again_journal (s : State) (n : Nat) (i : Instr) : (s.again n i).journal = s.journal := rfl
@[simp] theorem State.again_nextSeq (s : State) (n : Nat) (i : Instr) : (s.again n i).nextSeq = s.nextSeq := rfl
@[simp] theorem State.again_journTs (s : State) (n : Nat) (i : Instr) : (s.again n i).journTs = s.journTs := rfl
@[simp] theorem State.again_journWait (s : State) (n : Nat) (i : Instr) : (s.again n i).journWait = s.journWait := rfl
@[simp] theorem State.again_granules (s : State) (n : Nat) (i : Instr) : (s.again n i).granules = s.granules := rfl
@[simp] theorem State.again_answers (s : State) (n : Nat) (i : Instr) : (s.again n i).answers = s.answers := rfl
@[simp] theorem State.again_irqs (s : State) (n : Nat) (i : Instr) : (s.again n i).irqs = s.irqs := rfl
@[simp] theorem State.again_peers (s : State) (n : Nat) (i : Instr) : (s.again n i).peers = s.peers := rfl
@[simp] theorem State.again_outbox (s : State) (n : Nat) (i : Instr) : (s.again n i).outbox = s.outbox := rfl
@[simp] theorem State.again_heldReads (s : State) (n : Nat) (i : Instr) : (s.again n i).heldReads = s.heldReads := rfl
@[simp] theorem State.again_errors (s : State) (n : Nat) (i : Instr) : (s.again n i).errors = s.errors := rfl
@[simp] theorem State.again_ways (s : State) (n : Nat) (i : Instr) : (s.again n i).ways = s.ways := rfl
@[simp] theorem State.again_retiring (s : State) (n : Nat) (i : Instr) : (s.again n i).retiring = s.retiring := rfl
@[simp] theorem State.again_power (s : State) (n : Nat) (i : Instr) : (s.again n i).power = s.power := rfl
@[simp] theorem State.again_reason (s : State) (n : Nat) (i : Instr) : (s.again n i).reason = s.reason := rfl
@[simp] theorem State.again_unit (s : State) (n : Nat) (i : Instr) : (s.again n i).unit = s.unit := rfl
@[simp] theorem State.again_test (s : State) (n : Nat) (i : Instr) : (s.again n i).test = s.test := rfl
@[simp] theorem State.again_adminOk (s : State) (n : Nat) (i : Instr) : (s.again n i).adminOk = s.adminOk := rfl
@[simp] theorem State.again_powerCap (s : State) (n : Nat) (i : Instr) : (s.again n i).powerCap = s.powerCap := rfl
@[simp] theorem State.again_throttled (s : State) (n : Nat) (i : Instr) : (s.again n i).throttled = s.throttled := rfl
@[simp] theorem State.again_firmware (s : State) (n : Nat) (i : Instr) : (s.again n i).firmware = s.firmware := rfl
@[simp] theorem State.again_staged (s : State) (n : Nat) (i : Instr) : (s.again n i).staged = s.staged := rfl
@[simp] theorem State.again_reports (s : State) (n : Nat) (i : Instr) : (s.again n i).reports = s.reports := rfl
@[simp] theorem State.putObj_cycle (s : State) (o : Obj) : (s.putObj o).cycle = s.cycle := rfl
@[simp] theorem State.putObj_ts (s : State) (o : Obj) : (s.putObj o).ts = s.ts := rfl
@[simp] theorem State.putObj_tsPhase (s : State) (o : Obj) : (s.putObj o).tsPhase = s.tsPhase := rfl
@[simp] theorem State.putObj_slew (s : State) (o : Obj) : (s.putObj o).slew = s.slew := rfl
@[simp] theorem State.putObj_slewAcc (s : State) (o : Obj) : (s.putObj o).slewAcc = s.slewAcc := rfl
@[simp] theorem State.putObj_freeCtr (s : State) (o : Obj) : (s.putObj o).freeCtr = s.freeCtr := rfl
@[simp] theorem State.putObj_core (s : State) (o : Obj) : (s.putObj o).core = s.core := rfl
@[simp] theorem State.putObj_behind (s : State) (o : Obj) : (s.putObj o).behind = s.behind := rfl
@[simp] theorem State.putObj_ahead (s : State) (o : Obj) : (s.putObj o).ahead = s.ahead := rfl
@[simp] theorem State.putObj_fenced (s : State) (o : Obj) : (s.putObj o).fenced = s.fenced := rfl
@[simp] theorem State.putObj_pkg (s : State) (o : Obj) : (s.putObj o).pkg = s.pkg := rfl
@[simp] theorem State.putObj_inbox (s : State) (o : Obj) : (s.putObj o).inbox = s.inbox := rfl
@[simp] theorem State.putObj_agenda (s : State) (o : Obj) : (s.putObj o).agenda = s.agenda := rfl
@[simp] theorem State.putObj_subj (s : State) (o : Obj) : (s.putObj o).subj = s.subj := rfl
@[simp] theorem State.putObj_cmd (s : State) (o : Obj) : (s.putObj o).cmd = s.cmd := rfl
@[simp] theorem State.putObj_cmdWait (s : State) (o : Obj) : (s.putObj o).cmdWait = s.cmdWait := rfl
@[simp] theorem State.putObj_reqs (s : State) (o : Obj) : (s.putObj o).reqs = s.reqs := rfl
@[simp] theorem State.putObj_nextReq (s : State) (o : Obj) : (s.putObj o).nextReq = s.nextReq := rfl
@[simp] theorem State.putObj_colls (s : State) (o : Obj) : (s.putObj o).colls = s.colls := rfl
@[simp] theorem State.putObj_token (s : State) (o : Obj) : (s.putObj o).token = s.token := rfl
@[simp] theorem State.putObj_hbmUsed (s : State) (o : Obj) : (s.putObj o).hbmUsed = s.hbmUsed := rfl
@[simp] theorem State.putObj_lpddrUsed (s : State) (o : Obj) : (s.putObj o).lpddrUsed = s.lpddrUsed := rfl
@[simp] theorem State.putObj_lastCharge (s : State) (o : Obj) : (s.putObj o).lastCharge = s.lastCharge := rfl
@[simp] theorem State.putObj_localCasts (s : State) (o : Obj) : (s.putObj o).localCasts = s.localCasts := rfl
@[simp] theorem State.putObj_told (s : State) (o : Obj) : (s.putObj o).told = s.told := rfl
@[simp] theorem State.putObj_hostHeld (s : State) (o : Obj) : (s.putObj o).hostHeld = s.hostHeld := rfl
@[simp] theorem State.putObj_cmdPins (s : State) (o : Obj) : (s.putObj o).cmdPins = s.cmdPins := rfl
@[simp] theorem State.putObj_overflow (s : State) (o : Obj) : (s.putObj o).overflow = s.overflow := rfl
@[simp] theorem State.putObj_mlc (s : State) (o : Obj) : (s.putObj o).mlc = s.mlc := rfl
@[simp] theorem State.putObj_plots (s : State) (o : Obj) : (s.putObj o).plots = s.plots := rfl
@[simp] theorem State.putObj_nextPlot (s : State) (o : Obj) : (s.putObj o).nextPlot = s.nextPlot := rfl
@[simp] theorem State.putObj_nextInst (s : State) (o : Obj) : (s.putObj o).nextInst = s.nextInst := rfl
@[simp] theorem State.putObj_disps (s : State) (o : Obj) : (s.putObj o).disps = s.disps := rfl
@[simp] theorem State.putObj_saved (s : State) (o : Obj) : (s.putObj o).saved = s.saved := rfl
@[simp] theorem State.putObj_endings (s : State) (o : Obj) : (s.putObj o).endings = s.endings := rfl
@[simp] theorem State.putObj_rows (s : State) (o : Obj) : (s.putObj o).rows = s.rows := rfl
@[simp] theorem State.putObj_window (s : State) (o : Obj) : (s.putObj o).window = s.window := rfl
@[simp] theorem State.putObj_cxl (s : State) (o : Obj) : (s.putObj o).cxl = s.cxl := rfl
@[simp] theorem State.putObj_hostMem (s : State) (o : Obj) : (s.putObj o).hostMem = s.hostMem := rfl
@[simp] theorem State.putObj_pairs (s : State) (o : Obj) : (s.putObj o).pairs = s.pairs := rfl
@[simp] theorem State.putObj_apertures (s : State) (o : Obj) : (s.putObj o).apertures = s.apertures := rfl
@[simp] theorem State.putObj_discards (s : State) (o : Obj) : (s.putObj o).discards = s.discards := rfl
@[simp] theorem State.putObj_journal (s : State) (o : Obj) : (s.putObj o).journal = s.journal := rfl
@[simp] theorem State.putObj_nextSeq (s : State) (o : Obj) : (s.putObj o).nextSeq = s.nextSeq := rfl
@[simp] theorem State.putObj_journTs (s : State) (o : Obj) : (s.putObj o).journTs = s.journTs := rfl
@[simp] theorem State.putObj_journWait (s : State) (o : Obj) : (s.putObj o).journWait = s.journWait := rfl
@[simp] theorem State.putObj_granules (s : State) (o : Obj) : (s.putObj o).granules = s.granules := rfl
@[simp] theorem State.putObj_answers (s : State) (o : Obj) : (s.putObj o).answers = s.answers := rfl
@[simp] theorem State.putObj_irqs (s : State) (o : Obj) : (s.putObj o).irqs = s.irqs := rfl
@[simp] theorem State.putObj_peers (s : State) (o : Obj) : (s.putObj o).peers = s.peers := rfl
@[simp] theorem State.putObj_outbox (s : State) (o : Obj) : (s.putObj o).outbox = s.outbox := rfl
@[simp] theorem State.putObj_heldReads (s : State) (o : Obj) : (s.putObj o).heldReads = s.heldReads := rfl
@[simp] theorem State.putObj_errors (s : State) (o : Obj) : (s.putObj o).errors = s.errors := rfl
@[simp] theorem State.putObj_ways (s : State) (o : Obj) : (s.putObj o).ways = s.ways := rfl
@[simp] theorem State.putObj_retiring (s : State) (o : Obj) : (s.putObj o).retiring = s.retiring := rfl
@[simp] theorem State.putObj_power (s : State) (o : Obj) : (s.putObj o).power = s.power := rfl
@[simp] theorem State.putObj_reason (s : State) (o : Obj) : (s.putObj o).reason = s.reason := rfl
@[simp] theorem State.putObj_unit (s : State) (o : Obj) : (s.putObj o).unit = s.unit := rfl
@[simp] theorem State.putObj_test (s : State) (o : Obj) : (s.putObj o).test = s.test := rfl
@[simp] theorem State.putObj_adminOk (s : State) (o : Obj) : (s.putObj o).adminOk = s.adminOk := rfl
@[simp] theorem State.putObj_powerCap (s : State) (o : Obj) : (s.putObj o).powerCap = s.powerCap := rfl
@[simp] theorem State.putObj_throttled (s : State) (o : Obj) : (s.putObj o).throttled = s.throttled := rfl
@[simp] theorem State.putObj_firmware (s : State) (o : Obj) : (s.putObj o).firmware = s.firmware := rfl
@[simp] theorem State.putObj_staged (s : State) (o : Obj) : (s.putObj o).staged = s.staged := rfl
@[simp] theorem State.putObj_reports (s : State) (o : Obj) : (s.putObj o).reports = s.reports := rfl
@[simp] theorem State.setGranule_cycle (s : State) (x : Granule) : (s.setGranule x).cycle = s.cycle := rfl
@[simp] theorem State.setGranule_ts (s : State) (x : Granule) : (s.setGranule x).ts = s.ts := rfl
@[simp] theorem State.setGranule_tsPhase (s : State) (x : Granule) : (s.setGranule x).tsPhase = s.tsPhase := rfl
@[simp] theorem State.setGranule_slew (s : State) (x : Granule) : (s.setGranule x).slew = s.slew := rfl
@[simp] theorem State.setGranule_slewAcc (s : State) (x : Granule) : (s.setGranule x).slewAcc = s.slewAcc := rfl
@[simp] theorem State.setGranule_freeCtr (s : State) (x : Granule) : (s.setGranule x).freeCtr = s.freeCtr := rfl
@[simp] theorem State.setGranule_core (s : State) (x : Granule) : (s.setGranule x).core = s.core := rfl
@[simp] theorem State.setGranule_behind (s : State) (x : Granule) : (s.setGranule x).behind = s.behind := rfl
@[simp] theorem State.setGranule_ahead (s : State) (x : Granule) : (s.setGranule x).ahead = s.ahead := rfl
@[simp] theorem State.setGranule_fenced (s : State) (x : Granule) : (s.setGranule x).fenced = s.fenced := rfl
@[simp] theorem State.setGranule_pkg (s : State) (x : Granule) : (s.setGranule x).pkg = s.pkg := rfl
@[simp] theorem State.setGranule_inbox (s : State) (x : Granule) : (s.setGranule x).inbox = s.inbox := rfl
@[simp] theorem State.setGranule_agenda (s : State) (x : Granule) : (s.setGranule x).agenda = s.agenda := rfl
@[simp] theorem State.setGranule_subj (s : State) (x : Granule) : (s.setGranule x).subj = s.subj := rfl
@[simp] theorem State.setGranule_cmd (s : State) (x : Granule) : (s.setGranule x).cmd = s.cmd := rfl
@[simp] theorem State.setGranule_cmdWait (s : State) (x : Granule) : (s.setGranule x).cmdWait = s.cmdWait := rfl
@[simp] theorem State.setGranule_reqs (s : State) (x : Granule) : (s.setGranule x).reqs = s.reqs := rfl
@[simp] theorem State.setGranule_nextReq (s : State) (x : Granule) : (s.setGranule x).nextReq = s.nextReq := rfl
@[simp] theorem State.setGranule_colls (s : State) (x : Granule) : (s.setGranule x).colls = s.colls := rfl
@[simp] theorem State.setGranule_objs (s : State) (x : Granule) : (s.setGranule x).objs = s.objs := rfl
@[simp] theorem State.setGranule_token (s : State) (x : Granule) : (s.setGranule x).token = s.token := rfl
@[simp] theorem State.setGranule_hbmUsed (s : State) (x : Granule) : (s.setGranule x).hbmUsed = s.hbmUsed := rfl
@[simp] theorem State.setGranule_lpddrUsed (s : State) (x : Granule) : (s.setGranule x).lpddrUsed = s.lpddrUsed := rfl
@[simp] theorem State.setGranule_lastCharge (s : State) (x : Granule) : (s.setGranule x).lastCharge = s.lastCharge := rfl
@[simp] theorem State.setGranule_localCasts (s : State) (x : Granule) : (s.setGranule x).localCasts = s.localCasts := rfl
@[simp] theorem State.setGranule_told (s : State) (x : Granule) : (s.setGranule x).told = s.told := rfl
@[simp] theorem State.setGranule_hostHeld (s : State) (x : Granule) : (s.setGranule x).hostHeld = s.hostHeld := rfl
@[simp] theorem State.setGranule_cmdPins (s : State) (x : Granule) : (s.setGranule x).cmdPins = s.cmdPins := rfl
@[simp] theorem State.setGranule_overflow (s : State) (x : Granule) : (s.setGranule x).overflow = s.overflow := rfl
@[simp] theorem State.setGranule_mlc (s : State) (x : Granule) : (s.setGranule x).mlc = s.mlc := rfl
@[simp] theorem State.setGranule_plots (s : State) (x : Granule) : (s.setGranule x).plots = s.plots := rfl
@[simp] theorem State.setGranule_nextPlot (s : State) (x : Granule) : (s.setGranule x).nextPlot = s.nextPlot := rfl
@[simp] theorem State.setGranule_nextInst (s : State) (x : Granule) : (s.setGranule x).nextInst = s.nextInst := rfl
@[simp] theorem State.setGranule_disps (s : State) (x : Granule) : (s.setGranule x).disps = s.disps := rfl
@[simp] theorem State.setGranule_saved (s : State) (x : Granule) : (s.setGranule x).saved = s.saved := rfl
@[simp] theorem State.setGranule_endings (s : State) (x : Granule) : (s.setGranule x).endings = s.endings := rfl
@[simp] theorem State.setGranule_rows (s : State) (x : Granule) : (s.setGranule x).rows = s.rows := rfl
@[simp] theorem State.setGranule_window (s : State) (x : Granule) : (s.setGranule x).window = s.window := rfl
@[simp] theorem State.setGranule_cxl (s : State) (x : Granule) : (s.setGranule x).cxl = s.cxl := rfl
@[simp] theorem State.setGranule_hostMem (s : State) (x : Granule) : (s.setGranule x).hostMem = s.hostMem := rfl
@[simp] theorem State.setGranule_pairs (s : State) (x : Granule) : (s.setGranule x).pairs = s.pairs := rfl
@[simp] theorem State.setGranule_apertures (s : State) (x : Granule) : (s.setGranule x).apertures = s.apertures := rfl
@[simp] theorem State.setGranule_discards (s : State) (x : Granule) : (s.setGranule x).discards = s.discards := rfl
@[simp] theorem State.setGranule_journal (s : State) (x : Granule) : (s.setGranule x).journal = s.journal := rfl
@[simp] theorem State.setGranule_nextSeq (s : State) (x : Granule) : (s.setGranule x).nextSeq = s.nextSeq := rfl
@[simp] theorem State.setGranule_journTs (s : State) (x : Granule) : (s.setGranule x).journTs = s.journTs := rfl
@[simp] theorem State.setGranule_journWait (s : State) (x : Granule) : (s.setGranule x).journWait = s.journWait := rfl
@[simp] theorem State.setGranule_answers (s : State) (x : Granule) : (s.setGranule x).answers = s.answers := rfl
@[simp] theorem State.setGranule_irqs (s : State) (x : Granule) : (s.setGranule x).irqs = s.irqs := rfl
@[simp] theorem State.setGranule_peers (s : State) (x : Granule) : (s.setGranule x).peers = s.peers := rfl
@[simp] theorem State.setGranule_outbox (s : State) (x : Granule) : (s.setGranule x).outbox = s.outbox := rfl
@[simp] theorem State.setGranule_heldReads (s : State) (x : Granule) : (s.setGranule x).heldReads = s.heldReads := rfl
@[simp] theorem State.setGranule_errors (s : State) (x : Granule) : (s.setGranule x).errors = s.errors := rfl
@[simp] theorem State.setGranule_ways (s : State) (x : Granule) : (s.setGranule x).ways = s.ways := rfl
@[simp] theorem State.setGranule_retiring (s : State) (x : Granule) : (s.setGranule x).retiring = s.retiring := rfl
@[simp] theorem State.setGranule_power (s : State) (x : Granule) : (s.setGranule x).power = s.power := rfl
@[simp] theorem State.setGranule_reason (s : State) (x : Granule) : (s.setGranule x).reason = s.reason := rfl
@[simp] theorem State.setGranule_unit (s : State) (x : Granule) : (s.setGranule x).unit = s.unit := rfl
@[simp] theorem State.setGranule_test (s : State) (x : Granule) : (s.setGranule x).test = s.test := rfl
@[simp] theorem State.setGranule_adminOk (s : State) (x : Granule) : (s.setGranule x).adminOk = s.adminOk := rfl
@[simp] theorem State.setGranule_powerCap (s : State) (x : Granule) : (s.setGranule x).powerCap = s.powerCap := rfl
@[simp] theorem State.setGranule_throttled (s : State) (x : Granule) : (s.setGranule x).throttled = s.throttled := rfl
@[simp] theorem State.setGranule_firmware (s : State) (x : Granule) : (s.setGranule x).firmware = s.firmware := rfl
@[simp] theorem State.setGranule_staged (s : State) (x : Granule) : (s.setGranule x).staged = s.staged := rfl
@[simp] theorem State.setGranule_reports (s : State) (x : Granule) : (s.setGranule x).reports = s.reports := rfl
@[simp] theorem State.setBank_cycle (s : State) (b : BankRows) : (s.setBank b).cycle = s.cycle := rfl
@[simp] theorem State.setBank_ts (s : State) (b : BankRows) : (s.setBank b).ts = s.ts := rfl
@[simp] theorem State.setBank_tsPhase (s : State) (b : BankRows) : (s.setBank b).tsPhase = s.tsPhase := rfl
@[simp] theorem State.setBank_slew (s : State) (b : BankRows) : (s.setBank b).slew = s.slew := rfl
@[simp] theorem State.setBank_slewAcc (s : State) (b : BankRows) : (s.setBank b).slewAcc = s.slewAcc := rfl
@[simp] theorem State.setBank_freeCtr (s : State) (b : BankRows) : (s.setBank b).freeCtr = s.freeCtr := rfl
@[simp] theorem State.setBank_core (s : State) (b : BankRows) : (s.setBank b).core = s.core := rfl
@[simp] theorem State.setBank_behind (s : State) (b : BankRows) : (s.setBank b).behind = s.behind := rfl
@[simp] theorem State.setBank_ahead (s : State) (b : BankRows) : (s.setBank b).ahead = s.ahead := rfl
@[simp] theorem State.setBank_fenced (s : State) (b : BankRows) : (s.setBank b).fenced = s.fenced := rfl
@[simp] theorem State.setBank_pkg (s : State) (b : BankRows) : (s.setBank b).pkg = s.pkg := rfl
@[simp] theorem State.setBank_inbox (s : State) (b : BankRows) : (s.setBank b).inbox = s.inbox := rfl
@[simp] theorem State.setBank_agenda (s : State) (b : BankRows) : (s.setBank b).agenda = s.agenda := rfl
@[simp] theorem State.setBank_subj (s : State) (b : BankRows) : (s.setBank b).subj = s.subj := rfl
@[simp] theorem State.setBank_cmd (s : State) (b : BankRows) : (s.setBank b).cmd = s.cmd := rfl
@[simp] theorem State.setBank_cmdWait (s : State) (b : BankRows) : (s.setBank b).cmdWait = s.cmdWait := rfl
@[simp] theorem State.setBank_reqs (s : State) (b : BankRows) : (s.setBank b).reqs = s.reqs := rfl
@[simp] theorem State.setBank_nextReq (s : State) (b : BankRows) : (s.setBank b).nextReq = s.nextReq := rfl
@[simp] theorem State.setBank_colls (s : State) (b : BankRows) : (s.setBank b).colls = s.colls := rfl
@[simp] theorem State.setBank_objs (s : State) (b : BankRows) : (s.setBank b).objs = s.objs := rfl
@[simp] theorem State.setBank_token (s : State) (b : BankRows) : (s.setBank b).token = s.token := rfl
@[simp] theorem State.setBank_hbmUsed (s : State) (b : BankRows) : (s.setBank b).hbmUsed = s.hbmUsed := rfl
@[simp] theorem State.setBank_lpddrUsed (s : State) (b : BankRows) : (s.setBank b).lpddrUsed = s.lpddrUsed := rfl
@[simp] theorem State.setBank_lastCharge (s : State) (b : BankRows) : (s.setBank b).lastCharge = s.lastCharge := rfl
@[simp] theorem State.setBank_localCasts (s : State) (b : BankRows) : (s.setBank b).localCasts = s.localCasts := rfl
@[simp] theorem State.setBank_told (s : State) (b : BankRows) : (s.setBank b).told = s.told := rfl
@[simp] theorem State.setBank_hostHeld (s : State) (b : BankRows) : (s.setBank b).hostHeld = s.hostHeld := rfl
@[simp] theorem State.setBank_cmdPins (s : State) (b : BankRows) : (s.setBank b).cmdPins = s.cmdPins := rfl
@[simp] theorem State.setBank_overflow (s : State) (b : BankRows) : (s.setBank b).overflow = s.overflow := rfl
@[simp] theorem State.setBank_mlc (s : State) (b : BankRows) : (s.setBank b).mlc = s.mlc := rfl
@[simp] theorem State.setBank_plots (s : State) (b : BankRows) : (s.setBank b).plots = s.plots := rfl
@[simp] theorem State.setBank_nextPlot (s : State) (b : BankRows) : (s.setBank b).nextPlot = s.nextPlot := rfl
@[simp] theorem State.setBank_nextInst (s : State) (b : BankRows) : (s.setBank b).nextInst = s.nextInst := rfl
@[simp] theorem State.setBank_disps (s : State) (b : BankRows) : (s.setBank b).disps = s.disps := rfl
@[simp] theorem State.setBank_saved (s : State) (b : BankRows) : (s.setBank b).saved = s.saved := rfl
@[simp] theorem State.setBank_endings (s : State) (b : BankRows) : (s.setBank b).endings = s.endings := rfl
@[simp] theorem State.setBank_window (s : State) (b : BankRows) : (s.setBank b).window = s.window := rfl
@[simp] theorem State.setBank_cxl (s : State) (b : BankRows) : (s.setBank b).cxl = s.cxl := rfl
@[simp] theorem State.setBank_hostMem (s : State) (b : BankRows) : (s.setBank b).hostMem = s.hostMem := rfl
@[simp] theorem State.setBank_pairs (s : State) (b : BankRows) : (s.setBank b).pairs = s.pairs := rfl
@[simp] theorem State.setBank_apertures (s : State) (b : BankRows) : (s.setBank b).apertures = s.apertures := rfl
@[simp] theorem State.setBank_discards (s : State) (b : BankRows) : (s.setBank b).discards = s.discards := rfl
@[simp] theorem State.setBank_journal (s : State) (b : BankRows) : (s.setBank b).journal = s.journal := rfl
@[simp] theorem State.setBank_nextSeq (s : State) (b : BankRows) : (s.setBank b).nextSeq = s.nextSeq := rfl
@[simp] theorem State.setBank_journTs (s : State) (b : BankRows) : (s.setBank b).journTs = s.journTs := rfl
@[simp] theorem State.setBank_journWait (s : State) (b : BankRows) : (s.setBank b).journWait = s.journWait := rfl
@[simp] theorem State.setBank_granules (s : State) (b : BankRows) : (s.setBank b).granules = s.granules := rfl
@[simp] theorem State.setBank_answers (s : State) (b : BankRows) : (s.setBank b).answers = s.answers := rfl
@[simp] theorem State.setBank_irqs (s : State) (b : BankRows) : (s.setBank b).irqs = s.irqs := rfl
@[simp] theorem State.setBank_peers (s : State) (b : BankRows) : (s.setBank b).peers = s.peers := rfl
@[simp] theorem State.setBank_outbox (s : State) (b : BankRows) : (s.setBank b).outbox = s.outbox := rfl
@[simp] theorem State.setBank_heldReads (s : State) (b : BankRows) : (s.setBank b).heldReads = s.heldReads := rfl
@[simp] theorem State.setBank_errors (s : State) (b : BankRows) : (s.setBank b).errors = s.errors := rfl
@[simp] theorem State.setBank_ways (s : State) (b : BankRows) : (s.setBank b).ways = s.ways := rfl
@[simp] theorem State.setBank_retiring (s : State) (b : BankRows) : (s.setBank b).retiring = s.retiring := rfl
@[simp] theorem State.setBank_power (s : State) (b : BankRows) : (s.setBank b).power = s.power := rfl
@[simp] theorem State.setBank_reason (s : State) (b : BankRows) : (s.setBank b).reason = s.reason := rfl
@[simp] theorem State.setBank_unit (s : State) (b : BankRows) : (s.setBank b).unit = s.unit := rfl
@[simp] theorem State.setBank_test (s : State) (b : BankRows) : (s.setBank b).test = s.test := rfl
@[simp] theorem State.setBank_adminOk (s : State) (b : BankRows) : (s.setBank b).adminOk = s.adminOk := rfl
@[simp] theorem State.setBank_powerCap (s : State) (b : BankRows) : (s.setBank b).powerCap = s.powerCap := rfl
@[simp] theorem State.setBank_throttled (s : State) (b : BankRows) : (s.setBank b).throttled = s.throttled := rfl
@[simp] theorem State.setBank_firmware (s : State) (b : BankRows) : (s.setBank b).firmware = s.firmware := rfl
@[simp] theorem State.setBank_staged (s : State) (b : BankRows) : (s.setBank b).staged = s.staged := rfl
@[simp] theorem State.setBank_reports (s : State) (b : BankRows) : (s.setBank b).reports = s.reports := rfl
@[simp] theorem State.modPeer_cycle (s : State) (n : Nat) (f : Peer → Peer) : (s.modPeer n f).cycle = s.cycle := rfl
@[simp] theorem State.modPeer_ts (s : State) (n : Nat) (f : Peer → Peer) : (s.modPeer n f).ts = s.ts := rfl
@[simp] theorem State.modPeer_tsPhase (s : State) (n : Nat) (f : Peer → Peer) : (s.modPeer n f).tsPhase = s.tsPhase := rfl
@[simp] theorem State.modPeer_slew (s : State) (n : Nat) (f : Peer → Peer) : (s.modPeer n f).slew = s.slew := rfl
@[simp] theorem State.modPeer_slewAcc (s : State) (n : Nat) (f : Peer → Peer) : (s.modPeer n f).slewAcc = s.slewAcc := rfl
@[simp] theorem State.modPeer_freeCtr (s : State) (n : Nat) (f : Peer → Peer) : (s.modPeer n f).freeCtr = s.freeCtr := rfl
@[simp] theorem State.modPeer_core (s : State) (n : Nat) (f : Peer → Peer) : (s.modPeer n f).core = s.core := rfl
@[simp] theorem State.modPeer_behind (s : State) (n : Nat) (f : Peer → Peer) : (s.modPeer n f).behind = s.behind := rfl
@[simp] theorem State.modPeer_ahead (s : State) (n : Nat) (f : Peer → Peer) : (s.modPeer n f).ahead = s.ahead := rfl
@[simp] theorem State.modPeer_fenced (s : State) (n : Nat) (f : Peer → Peer) : (s.modPeer n f).fenced = s.fenced := rfl
@[simp] theorem State.modPeer_pkg (s : State) (n : Nat) (f : Peer → Peer) : (s.modPeer n f).pkg = s.pkg := rfl
@[simp] theorem State.modPeer_inbox (s : State) (n : Nat) (f : Peer → Peer) : (s.modPeer n f).inbox = s.inbox := rfl
@[simp] theorem State.modPeer_agenda (s : State) (n : Nat) (f : Peer → Peer) : (s.modPeer n f).agenda = s.agenda := rfl
@[simp] theorem State.modPeer_subj (s : State) (n : Nat) (f : Peer → Peer) : (s.modPeer n f).subj = s.subj := rfl
@[simp] theorem State.modPeer_cmd (s : State) (n : Nat) (f : Peer → Peer) : (s.modPeer n f).cmd = s.cmd := rfl
@[simp] theorem State.modPeer_cmdWait (s : State) (n : Nat) (f : Peer → Peer) : (s.modPeer n f).cmdWait = s.cmdWait := rfl
@[simp] theorem State.modPeer_reqs (s : State) (n : Nat) (f : Peer → Peer) : (s.modPeer n f).reqs = s.reqs := rfl
@[simp] theorem State.modPeer_nextReq (s : State) (n : Nat) (f : Peer → Peer) : (s.modPeer n f).nextReq = s.nextReq := rfl
@[simp] theorem State.modPeer_colls (s : State) (n : Nat) (f : Peer → Peer) : (s.modPeer n f).colls = s.colls := rfl
@[simp] theorem State.modPeer_objs (s : State) (n : Nat) (f : Peer → Peer) : (s.modPeer n f).objs = s.objs := rfl
@[simp] theorem State.modPeer_token (s : State) (n : Nat) (f : Peer → Peer) : (s.modPeer n f).token = s.token := rfl
@[simp] theorem State.modPeer_hbmUsed (s : State) (n : Nat) (f : Peer → Peer) : (s.modPeer n f).hbmUsed = s.hbmUsed := rfl
@[simp] theorem State.modPeer_lpddrUsed (s : State) (n : Nat) (f : Peer → Peer) : (s.modPeer n f).lpddrUsed = s.lpddrUsed := rfl
@[simp] theorem State.modPeer_lastCharge (s : State) (n : Nat) (f : Peer → Peer) : (s.modPeer n f).lastCharge = s.lastCharge := rfl
@[simp] theorem State.modPeer_localCasts (s : State) (n : Nat) (f : Peer → Peer) : (s.modPeer n f).localCasts = s.localCasts := rfl
@[simp] theorem State.modPeer_told (s : State) (n : Nat) (f : Peer → Peer) : (s.modPeer n f).told = s.told := rfl
@[simp] theorem State.modPeer_hostHeld (s : State) (n : Nat) (f : Peer → Peer) : (s.modPeer n f).hostHeld = s.hostHeld := rfl
@[simp] theorem State.modPeer_cmdPins (s : State) (n : Nat) (f : Peer → Peer) : (s.modPeer n f).cmdPins = s.cmdPins := rfl
@[simp] theorem State.modPeer_overflow (s : State) (n : Nat) (f : Peer → Peer) : (s.modPeer n f).overflow = s.overflow := rfl
@[simp] theorem State.modPeer_mlc (s : State) (n : Nat) (f : Peer → Peer) : (s.modPeer n f).mlc = s.mlc := rfl
@[simp] theorem State.modPeer_plots (s : State) (n : Nat) (f : Peer → Peer) : (s.modPeer n f).plots = s.plots := rfl
@[simp] theorem State.modPeer_nextPlot (s : State) (n : Nat) (f : Peer → Peer) : (s.modPeer n f).nextPlot = s.nextPlot := rfl
@[simp] theorem State.modPeer_nextInst (s : State) (n : Nat) (f : Peer → Peer) : (s.modPeer n f).nextInst = s.nextInst := rfl
@[simp] theorem State.modPeer_disps (s : State) (n : Nat) (f : Peer → Peer) : (s.modPeer n f).disps = s.disps := rfl
@[simp] theorem State.modPeer_saved (s : State) (n : Nat) (f : Peer → Peer) : (s.modPeer n f).saved = s.saved := rfl
@[simp] theorem State.modPeer_endings (s : State) (n : Nat) (f : Peer → Peer) : (s.modPeer n f).endings = s.endings := rfl
@[simp] theorem State.modPeer_rows (s : State) (n : Nat) (f : Peer → Peer) : (s.modPeer n f).rows = s.rows := rfl
@[simp] theorem State.modPeer_window (s : State) (n : Nat) (f : Peer → Peer) : (s.modPeer n f).window = s.window := rfl
@[simp] theorem State.modPeer_cxl (s : State) (n : Nat) (f : Peer → Peer) : (s.modPeer n f).cxl = s.cxl := rfl
@[simp] theorem State.modPeer_hostMem (s : State) (n : Nat) (f : Peer → Peer) : (s.modPeer n f).hostMem = s.hostMem := rfl
@[simp] theorem State.modPeer_pairs (s : State) (n : Nat) (f : Peer → Peer) : (s.modPeer n f).pairs = s.pairs := rfl
@[simp] theorem State.modPeer_apertures (s : State) (n : Nat) (f : Peer → Peer) : (s.modPeer n f).apertures = s.apertures := rfl
@[simp] theorem State.modPeer_discards (s : State) (n : Nat) (f : Peer → Peer) : (s.modPeer n f).discards = s.discards := rfl
@[simp] theorem State.modPeer_journal (s : State) (n : Nat) (f : Peer → Peer) : (s.modPeer n f).journal = s.journal := rfl
@[simp] theorem State.modPeer_nextSeq (s : State) (n : Nat) (f : Peer → Peer) : (s.modPeer n f).nextSeq = s.nextSeq := rfl
@[simp] theorem State.modPeer_journTs (s : State) (n : Nat) (f : Peer → Peer) : (s.modPeer n f).journTs = s.journTs := rfl
@[simp] theorem State.modPeer_journWait (s : State) (n : Nat) (f : Peer → Peer) : (s.modPeer n f).journWait = s.journWait := rfl
@[simp] theorem State.modPeer_granules (s : State) (n : Nat) (f : Peer → Peer) : (s.modPeer n f).granules = s.granules := rfl
@[simp] theorem State.modPeer_answers (s : State) (n : Nat) (f : Peer → Peer) : (s.modPeer n f).answers = s.answers := rfl
@[simp] theorem State.modPeer_irqs (s : State) (n : Nat) (f : Peer → Peer) : (s.modPeer n f).irqs = s.irqs := rfl
@[simp] theorem State.modPeer_outbox (s : State) (n : Nat) (f : Peer → Peer) : (s.modPeer n f).outbox = s.outbox := rfl
@[simp] theorem State.modPeer_heldReads (s : State) (n : Nat) (f : Peer → Peer) : (s.modPeer n f).heldReads = s.heldReads := rfl
@[simp] theorem State.modPeer_errors (s : State) (n : Nat) (f : Peer → Peer) : (s.modPeer n f).errors = s.errors := rfl
@[simp] theorem State.modPeer_ways (s : State) (n : Nat) (f : Peer → Peer) : (s.modPeer n f).ways = s.ways := rfl
@[simp] theorem State.modPeer_retiring (s : State) (n : Nat) (f : Peer → Peer) : (s.modPeer n f).retiring = s.retiring := rfl
@[simp] theorem State.modPeer_power (s : State) (n : Nat) (f : Peer → Peer) : (s.modPeer n f).power = s.power := rfl
@[simp] theorem State.modPeer_reason (s : State) (n : Nat) (f : Peer → Peer) : (s.modPeer n f).reason = s.reason := rfl
@[simp] theorem State.modPeer_unit (s : State) (n : Nat) (f : Peer → Peer) : (s.modPeer n f).unit = s.unit := rfl
@[simp] theorem State.modPeer_test (s : State) (n : Nat) (f : Peer → Peer) : (s.modPeer n f).test = s.test := rfl
@[simp] theorem State.modPeer_adminOk (s : State) (n : Nat) (f : Peer → Peer) : (s.modPeer n f).adminOk = s.adminOk := rfl
@[simp] theorem State.modPeer_powerCap (s : State) (n : Nat) (f : Peer → Peer) : (s.modPeer n f).powerCap = s.powerCap := rfl
@[simp] theorem State.modPeer_throttled (s : State) (n : Nat) (f : Peer → Peer) : (s.modPeer n f).throttled = s.throttled := rfl
@[simp] theorem State.modPeer_firmware (s : State) (n : Nat) (f : Peer → Peer) : (s.modPeer n f).firmware = s.firmware := rfl
@[simp] theorem State.modPeer_staged (s : State) (n : Nat) (f : Peer → Peer) : (s.modPeer n f).staged = s.staged := rfl
@[simp] theorem State.modPeer_reports (s : State) (n : Nat) (f : Peer → Peer) : (s.modPeer n f).reports = s.reports := rfl
@[simp] theorem State.modCore_core (s : State) (f : Core → Core) : (s.modCore f).core = f s.core := rfl
@[simp] theorem State.tick_freeCtr (s : State) : s.tick.freeCtr = s.freeCtr + 1 := rfl
@[simp] theorem State.later_freeCtr (s : State) (n : Nat) (i : Instr) : (s.later n i).freeCtr = s.freeCtr + 1 := rfl
@[simp] theorem State.later_agenda (s : State) (n : Nat) (i : Instr) :
    (s.later n i).agenda = s.agenda ++ [⟨s.cycle + s.delay, n, i⟩] := rfl
@[simp] theorem State.after_agenda (s : State) (n m : Nat) (i : Instr) :
    (s.after n m i).agenda = s.agenda ++ [⟨s.cycle + n, m, i⟩] := rfl
@[simp] theorem State.again_agenda (s : State) (n : Nat) (i : Instr) :
    (s.again n i).agenda = s.agenda ++ [⟨s.cycle + 1, n, i⟩] := rfl
@[simp] theorem State.mapCores_core (s : State) (f : Core → Core) : (s.mapCores f).core = f s.core := rfl
@[simp] theorem State.mapCores_behind (s : State) (f : Core → Core) : (s.mapCores f).behind = s.behind.map f := rfl
@[simp] theorem State.mapCores_ahead (s : State) (f : Core → Core) : (s.mapCores f).ahead = s.ahead.map f := rfl
@[simp] theorem State.toStage_core (s : State) (g : Stage) : (s.toStage g).core = { s.core with stage := g } := rfl

end Sys2Proof.Machine
end

