-- ==== Sys2Proof/Laws/Syllables.lean ====
section
/-! SUPPORT. The guarded performance of a syllable (R37, R38, R43): everything it can do, and what it does where it is ready. -/
namespace Sys2Proof.Machine

/-- A ready syllable has no source that awaits a result. -/
theorem ready_short {s : State} {srcs : List Reg} (h : Ready s srcs) : s.core.short (.p s.core.iss.gp.val :: srcs) = false := by
  unfold Core.short
  cases hb : s.core.sbchk with
  | false => rfl
  | true =>
    rw [Bool.true_and, List.any_eq_false]
    intro r hr
    simp [h.2 hb r hr]

/-- What a performance can be: nothing behind a false guard, a hold of the body, STALL_SHORT, or the body. -/
theorem perform_cases (srcs : List Reg) (body : Core → Core) (c : Core) :
    (c.iss.guard = false ∧ perform srcs body c = (if c.short [.p c.iss.gp.val] then c.trap .stallShort else c.done)) ∨
    (c.iss.guard = true ∧ ((body c.done).out.holds = true ∨ c.short (.p c.iss.gp.val :: srcs) = false) ∧
      perform srcs body c = body c.done) ∨
    (c.iss.guard = true ∧ (body c.done).out.holds = false ∧ c.short (.p c.iss.gp.val :: srcs) = true ∧
      perform srcs body c = c.trap .stallShort) := by
  unfold perform
  cases hg : c.iss.guard with
  | false => exact .inl ⟨rfl, by simp⟩
  | true =>
    cases hh : (body c.done).out.holds with
    | true => exact .inr (.inl ⟨rfl, .inl rfl, by simp [hh]⟩)
    | false =>
      cases hs : c.short (.p c.iss.gp.val :: srcs) with
      | true => exact .inr (.inr ⟨rfl, rfl, rfl, by simp [hh]⟩)
      | false => exact .inr (.inl ⟨rfl, .inr rfl, by simp [hh]⟩)

/-- A syllable that acts on its core alone changes nothing but its core. -/
theorem syl_next (srcs : List Reg) (body : Core → Core) (s : State) :
    syl srcs body s = .next { s with core := perform srcs body s.core } := rfl
/-- A ready syllable that does not hold performs its body. -/
theorem syl_ready {s : State} {srcs : List Reg} {body : Core → Core} (h : Ready s srcs) (hh : (body s.core.done).out.holds = false) :
    syl srcs body s = .next { s with core := body s.core.done } := by
  simp [syl, perform, h.1, hh, ready_short h]
/-- A body that holds, behind a true guard, holds the bundle whatever its sources. -/
theorem syl_held {s : State} {srcs : List Reg} {body : Core → Core} (h : s.core.iss.guard = true)
    (hh : (body s.core.done).out.holds = true) : syl srcs body s = .next { s with core := body s.core.done } := by
  simp [syl, perform, h, hh]
/-- Behind a false guard a syllable does nothing. -/
theorem syl_off {s : State} {srcs : List Reg} {body : Core → Core} (h : s.core.iss.guard = false)
    (hs : s.core.short [.p s.core.iss.gp.val] = false) : syl srcs body s = .next { s with core := s.core.done } := by
  simp [syl, perform, h, hs]
/-- The same for a syllable that acts on more than its core. -/
theorem sylS_ready {s : State} {srcs : List Reg} {body : State → State} (h : Ready s srcs)
    (hh : (body { s with core := s.core.done }).core.out.holds = false) :
    sylS srcs body s = .next (body { s with core := s.core.done }) := by
  simp [sylS, performS, h.1, hh, ready_short h]
theorem sylS_held {s : State} {srcs : List Reg} {body : State → State} (h : s.core.iss.guard = true)
    (hh : (body { s with core := s.core.done }).core.out.holds = true) :
    sylS srcs body s = .next (body { s with core := s.core.done }) := by
  simp [sylS, performS, h, hh]
theorem sylS_off {s : State} {srcs : List Reg} {body : State → State} (h : s.core.iss.guard = false)
    (hs : s.core.short [.p s.core.iss.gp.val] = false) : sylS srcs body s = .next { s with core := s.core.done } := by
  simp [sylS, performS, h, hs]
/-- What a performance on the state can be. -/
theorem performS_cases (srcs : List Reg) (body : State → State) (s : State) :
    performS srcs body s = body { s with core := s.core.done } ∨
    performS srcs body s = { s with core := s.core.trap .stallShort } ∨ performS srcs body s = { s with core := s.core.done } := by
  unfold performS
  dsimp only
  cases hg : s.core.iss.guard with
  | false => cases hs : s.core.short [.p s.core.iss.gp.val] <;> simp
  | true =>
    cases hh : (body { s with core := s.core.done }).core.out.holds with
    | true => exact .inl (by simp)
    | false => cases hs : s.core.short (.p s.core.iss.gp.val :: srcs) <;> simp

/-! ### Writes as results in flight -/

theorem wx_gives (c : Core) (lat : Nat) (d : Fin 64) (v : Word) : c.done.wx lat d v = c.gives (givesX c lat d v) := by
  unfold Core.wx givesX Core.gives Core.done Core.put
  split <;> simp
theorem wp_gives (c : Core) (lat : Nat) (d : Fin 16) (b : Bool) : c.done.wp lat d b = c.gives (givesP c lat d b) := by
  unfold Core.wp givesP Core.gives Core.done Core.put
  split <;> simp
theorem wa_gives (c : Core) (lat : Nat) (d : Fin 16) (v : Word) : c.done.wa lat d v = c.gives [⟨c.cyc + lat - 1, .a d v⟩] := rfl
theorem wv_gives (c : Core) (lat : Nat) (d : Fin 32) (v : VReg) : c.done.wv lat d v = c.gives [⟨c.cyc + lat - 1, .v d v⟩] := rfl
theorem wm_gives (c : Core) (lat : Nat) (d : Fin 8) (b : MBits) : c.done.wm lat d b = c.gives [⟨c.cyc + lat - 1, .m d b⟩] := rfl
theorem wmp_gives (c : Core) (lat : Nat) (d : Fin 8) (v : Word) : c.done.wmp lat d v = c.gives [⟨c.cyc + lat - 1, .mp d v⟩] := rfl
@[simp] theorem gives_holds (c : Core) (fs : List InFlight) : (c.gives fs).out.holds = false := rfl

/-! ### Taking a trap (R302, R304) -/

/-- The core stops with the cause, its argument and a replay buffer; its message is on its way. Nothing else changes. -/
theorem takeTrap_eq (s : State) (k : Cause) (w : Word) :
    s.takeTrap k w =
      { s with
        core := { s.core with
          run := .trapped, cause := some k, targ := w, replay := some (s.core.replayFor s.core.pc k), out := .performed,
          fwait := none, spawnW := none, spawnFull := false, tmplW := none, stopTs := s.ts }
        agenda := s.agenda ++ [⟨s.cycle + s.delay, s.core.id, if k = .formatEmulate then .emulationDone s.core.id else .trapPolicy s.core.id⟩]
        freeCtr := s.freeCtr + 1 } := rfl
/-- Resuming clears the cause and notes the late faults that follow the replay; the registers stay. -/
theorem resumeRun_eq (c : Core) : c.resumeRun =
    { c with run := if c.retireIss then .retiring else .running, cause := none, targ := 0, lateKeep := c.late.length } := rfl

/-! ### Furrow claims (R213) -/

/-- Settling leaves no written claim at the front. -/
theorem settle_front (f : Furrow) : ∀ k ∈ f.settle.claims.head?, k.done = false := by
  intro k hk
  simp only [Furrow.settle] at hk
  generalize f.claims = l at hk
  induction l with
  | nil => simp at hk
  | cons a r ih =>
    cases ha : a.done with
    | true => exact ih (by simpa [ha] using hk)
    | false => simp [ha] at hk; exact hk ▸ ha
/-- Settling moves claims to filled slots one for one. -/
theorem settle_count (f : Furrow) : f.settle.filled + f.settle.claims.length = f.filled + f.claims.length := by
  have := (List.takeWhile_prefix (fun c : Claim => c.done) (l := f.claims)).length_le
  simp only [Furrow.settle, List.length_drop]; omega
/-- Popping moves taken slots to free ones one for one. -/
theorem popTaken_count (f : Furrow) (id : Nat) :
    (f.popTaken id).free + (f.popTaken id).taken.length = f.free + f.taken.length := by
  have := (List.takeWhile_prefix (fun c : Claim => c.done)
    (l := f.taken.map fun k => if k.req = id then { k with done := true } else k)).length_le
  simp only [List.length_map] at this
  simp only [Furrow.popTaken, List.length_drop, List.length_map]; omega

end Sys2Proof.Machine
end

