-- ==== Sys2Proof/Tests/Slice0.lean ====
section
/-! SUPPORT. Tests: the refusals of WellFormed, words written out from the spec's encodings, small steps, and for every statement
with hypotheses a state and operands that meet them. -/
namespace Sys2Proof.Tests
open Sys2Proof Sys2Proof.Machine
/- The tests are elaborated one after another: many at once would each ask for a thread of their own. -/
set_option Elab.async false

/-! ### WellFormed refuses an ill-formed term for each of its checks -/

theorem test_wf_csrrd : (Instr.csrrd 1 6).wf = false := by decide
theorem test_wf_csrwr : (Instr.csrwr 20 1).wf = false := by decide
theorem test_wf_loopx : (Instr.loopx 63 0).wf = false := by decide
theorem test_wf_lbreak : (Instr.lbreak 0 0).wf = false := by decide
theorem test_wf_vcvt : (Instr.vcvt .rne 0 0 31 .all).wf = false := by decide
theorem test_wf_vtag : (Instr.vtag 0 0 31 1 false).wf = false := by decide
theorem test_wf_vmovi_format : (Instr.vmovi 0 0 31).wf = false := by decide
theorem test_wf_vmovi_pattern : (Instr.vmovi 0 256 9).wf = false := by decide
theorem test_wf_vdefer_none : (Instr.vdefer 0 []).wf = false := by decide
theorem test_wf_vdefer_five : (Instr.vdefer 0 [0, 1, 2, 3, 4]).wf = false := by decide
theorem test_wf_vdrain : (Instr.vdrain 28 0 3).wf = false := by decide
theorem test_wf_cas : (Instr.atom .cas .rlx .core 0 62 ⟨0, 0⟩).wf = false := by decide
theorem test_wf_atom : (Instr.atom .add .rlx .core 0 63 ⟨0, 0⟩).wf = false := by decide
theorem test_wf_red_swp : (Instr.red .swp false .core 0 0).wf = false := by decide
theorem test_wf_red_cas : (Instr.red .cas false .core 0 0).wf = false := by decide
theorem test_wf_red : (Instr.red .add false .core 0 63).wf = false := by decide
theorem test_wf_stsync : (Instr.stsync false .core 0 63).wf = false := by decide
theorem test_wf_sow : (Instr.sow 0 63 ⟨0, 0⟩).wf = false := by decide
theorem test_wf_svc : (Instr.svc 0 57 ⟨0, 0⟩).wf = false := by decide

/-! ### Decoding: words written out from R42 to R48, R61 to R69 and R184 -/

/-- A bundle of one syllable, header and syllable word, decodes to an instruction. -/
def decodesTo (r : Nat × Nat × Instr) : Bool := decide (decodeTableWord 128 (r.1 + 2 ^ 64 * r.2.1) = some r.2.2)
/-- A microword decodes to an instruction. -/
def microIs (r : Nat × Instr) : Bool := match decodeMicro r.1 with | .ok i => decide (i = r.2) | .error _ => false

/-- Words of R61 to R67, fields placed by R46. -/
theorem test_decode_Arith : [
    (0x1, 0x00000003E07F0002, .add 63 1 62),
    (0x1, 0x00000003D0BF0003, .sub 63 2 61),
    (0x1, 0x00000003C0FF0004, .mul 63 3 60),
    (0x1, 0x00000003B13F0005, .mulh 63 4 59),
    (0x1, 0x00000003A17F0006, .mulhn 63 5 58),
    (0x1, 0x0000000391BF0007, .div 63 6 57),
    (0x1, 0x0000000381FF0008, .divn 63 7 56),
    (0x1, 0x00000003723F0009, .rem 63 8 55),
    (0x1, 0x00000003627F000A, .remn 63 9 54),
    (0x1, 0x0000000352BF000B, .min 63 10 53),
    (0x1, 0x0000000342FF000C, .max 63 11 52),
    (0x1, 0x00000003333F000D, .minn 63 12 51),
    (0x1, 0x00000003237F000E, .maxn 63 13 50),
    (0x1, 0x000000014FC10010, .and 1 63 20),
    (0x1, 0x000000015FC20011, .or 2 63 21),
    (0x1, 0x000000016FC30012, .xor 3 63 22),
    (0x1, 0x000000017FC40013, .andn 4 63 23),
    (0x1, 0x000000018FC50014, .shl 5 63 24),
    (0x1, 0x000000019FC60015, .shr 6 63 25),
    (0x1, 0x00000001AFC70016, .sra 7 63 26),
    (0x1, 0x00000001BFC80017, .rotl 8 63 27),
    (0x1, 0x0000000008450018, .clz 5 33),
    (0x1, 0x0000000008850019, .ctz 5 34),
    (0x1, 0x0000000008C5001A, .popc 5 35),
    (0x1, 0x0000000081CFA01B, .cmp .gen 15 7 8),
    (0x1, 0x000000383081001C, .sel 1 2 3 14)].all decodesTo = true := by decide
/-- Words of R61 to R67, fields placed by R46. -/
theorem test_decode_Moves : [
    (0x1, 0x0800000010090020, .movi 9 0x80000001),
    (0x1, 0x0FFFFFFF00C20022, .addi 2 3 4294967280),
    (0x1, 0x0FFFFFFF10C20023, .andi 2 3 4294967281),
    (0x1, 0x0FFFFFFF20C20024, .ori 2 3 4294967282),
    (0x1, 0x0FFFFFFF30C20025, .xori 2 3 4294967283),
    (0x1, 0x00000003F0C20026, .shli 2 3 63),
    (0x1, 0x00000003E0C20027, .shri 2 3 62),
    (0x1, 0x00000003D0C20028, .srai 2 3 61),
    (0x1, 0x000000007103C029, .cmpi .le 3 4 7),
    (0x1, 0x07FFFFFFF3CE002A, .aadd 14 15 0x7FFFFFFF),
    (0x1, 0x000000000A09002B, .amovAX 9 40),
    (0x1, 0x000000000268002C, .amovXA 40 9),
    (0x1, 0x000000013007002D, .csrrd 7 0x13),
    (0x1, 0x0000000001C0002E, .csrwr 0 7),
    (0x1, 0x00000000F0810030, .pand 1 2 15),
    (0x1, 0x00000000F0810031, .por 1 2 15),
    (0x1, 0x00000000F0810032, .pxor 1 2 15),
    (0x1, 0x0000000001440033, .pnot 4 5),
    (0x1, 0x0000000640C7A038, .lds .ws 7 3 100),
    (0x1, 0x00007FFFF3C7C039, .sts .d 7 15 0x7FFFF)].all decodesTo = true := by decide
/-- Words of R61 to R67, fields placed by R46. -/
theorem test_decode_Floats : [
    (0x1, 0x0000000030812040, .sfaddF32 .rtz 1 2 3),
    (0x1, 0x0000000030814041, .sfsubF32 .rup 1 2 3),
    (0x1, 0x0000000030816042, .sfmulF32 .rdn 1 2 3),
    (0x1, 0x0000001030818043, .sfmaF32 .rna 1 2 3 4),
    (0x1, 0x000000003081A044, .sfdivF32 .odd 1 2 3),
    (0x1, 0x0000000000810045, .sfsqrtF32 .rne 1 2),
    (0x1, 0x0000000030816046, .sfcmpF32 .le 1 2 3),
    (0x1, 0x0000000030812048, .sfaddF64 .rtz 1 2 3),
    (0x1, 0x0000000030814049, .sfsubF64 .rup 1 2 3),
    (0x1, 0x000000003081604A, .sfmulF64 .rdn 1 2 3),
    (0x1, 0x000000103081804B, .sfmaF64 .rna 1 2 3 4),
    (0x1, 0x000000003081A04C, .sfdivF64 .odd 1 2 3),
    (0x1, 0x000000000081004D, .sfsqrtF64 .rne 1 2),
    (0x1, 0x000000003081604E, .sfcmpF64 .le 1 2 3),
    (0x1, 0x000000207081204F, .sfcvt .rtz 1 2 7 16),
    (0x1, 0x0000000000810050, .tlook 1 2),
    (0x1, 0x0000000020400051, .tset 1 2),
    (0x1, 0x0000000000C00052, .tinv 3)].all decodesTo = true := by decide
/-- Words of R61 to R67, fields placed by R46. -/
theorem test_decode_Flow : [
    (0x1, 0x007FFFFFFF830060, .br (.pred 3) 0xFFFFFFFE true),
    (0x1, 0x0000000001510060, .br .mfault 5 false),
    (0x1, 0x003FFFFFFFC00061, .jmp 0xFFFFFFFF),
    (0x1, 0x00000000003F0062, .jmpx 63),
    (0x1, 0x0000000002400063, .call 9),
    (0x1, 0x0000000000000064, .ret),
    (0x1, 0x00000000033E0066, .loopx 62 12),
    (0x1, 0x0000000000C60067, .lbreak 6 3),
    (0x1, 0x0000000000000068, .retire),
    (0x1, 0x0000000000000069, .yield),
    (0x8000000001020001, 0x0000000000040021, .movl 4 0x8000000001),
    (0x3020001, 0x0000000000800065, .loop 3 2)].all decodesTo = true := by decide
/-- Words of R61 to R67, fields placed by R46. -/
theorem test_decode_Vector : [
    (0x2, 0x000001F0083F0002, .vadd .rne 31 1 2 (.mask 7 true)),
    (0x2, 0x000001F0083F2003, .vsub .rtz 31 1 2 (.mask 7 true)),
    (0x2, 0x000001F0083F4004, .vmul .rup 31 1 2 (.mask 7 true)),
    (0x2, 0x000001F0083F6005, .vdiv .rdn 31 1 2 (.mask 7 true)),
    (0x4, 0x00000000003E8006, .vsqrt .rna 30 1 .all),
    (0x4, 0x00000000003E8007, .vrcp .rna 30 1 .all),
    (0x4, 0x00000000003E8008, .vrsq .rna 30 1 .all),
    (0x2, 0x000001200C410009, .vmin 1 2 3 (.mask 2 false)),
    (0x2, 0x000001200C41000A, .vmax 1 2 3 (.mask 2 false)),
    (0x2, 0x000000000041000B, .vabs 1 2 .all),
    (0x2, 0x000000000041000C, .vneg 1 2 .all),
    (0x2, 0x000000000C41000D, .vcps 1 2 3 .all),
    (0x2, 0x000000000C47C00E, .vcmp .un 7 2 3 .all),
    (0x2, 0x0000FE000047000F, .vclass 7 2 127),
    (0x2, 0x000001500C410010, .vsel 1 2 3 5),
    (0x2, 0x0000000F8C41A013, .vfma .odd 1 2 3 31 .all),
    (0x2, 0x0000000F8C41A014, .vfms .odd 1 2 3 31 .all),
    (0x2, 0x0000000F8C41A015, .vfnma .odd 1 2 3 31 .all)].all decodesTo = true := by decide
/-- Words of R61 to R67, fields placed by R46. -/
theorem test_decode_VectorBits : [
    (0x2, 0x000000000C410018, .vand 1 2 3 .all),
    (0x2, 0x000000000C410019, .vor 1 2 3 .all),
    (0x2, 0x000000000C41001A, .vxor 1 2 3 .all),
    (0x2, 0x000000000041001B, .vnot 1 2 .all),
    (0x2, 0x000000000C41001C, .vshl 1 2 3 .all),
    (0x2, 0x000000000C41001D, .vshr 1 2 3 .all),
    (0x2, 0x000000000C41001E, .vsra 1 2 3 .all),
    (0x2, 0x0000200000414020, .vcvt .rup 1 2 16 .all),
    (0x2, 0x000000000C410021, .vscale .rne 1 2 3 .all),
    (0x2, 0x24000007F8840022, .vtag 4 4 9 0xFE true),
    (0x2, 0x0000000000410023, .vmov 1 2 .all),
    (0x2, 0x17FFFFFFF8030024, .vmovi 3 0xFFFFFFFE 5),
    (0x2, 0x0000FE0000410025, .vbcast 1 2 127)].all decodesTo = true := by decide
/-- Words of R61 to R67, fields placed by R46. -/
theorem test_decode_VectorData : [
    (0x2, 0x0022000400450030, .vld 5 2 512 (.mask 1 false)),
    (0x4, 0x00320FFFFFE50031, .vst 5 15 0x7FFFF (.mask 1 true)),
    (0x4, 0x0001F00000050032, .vldf 5 31 .all),
    (0x4, 0x0027E00000050033, .vstf 30 5 (some 3)),
    (0x4, 0x0000040000410034, .vgath .w 1 2 .all),
    (0x4, 0x000006000C400035, .vscat .d 2 3 none),
    (0x4, 0x000000000C410036, .vperm 1 2 3),
    (0x4, 0x000000000C410037, .vxcl 1 2 3),
    (0x4, 0x0000074000412038, .vred .argmax .rtz 1 2 (some 4)),
    (0x4, 0x0000040000412039, .vscan .max .rtz 1 2 .all),
    (0x4, 0x000000000009003A, .viota 9),
    (0x4, 0x0000FE00005F003B, .vtos 31 2 127),
    (0x4, 0x0000000000090040, .vrand 9),
    (0x4, 0x000007620C410041, .vdefer 6 [1, 2, 3, 4]),
    (0x4, 0x00000660001B0042, .vdrain 27 6 3),
    (0x4, 0x0000000000410048, .vhash 1 2 none)].all decodesTo = true := by decide
/-- Words of R61 to R67, fields placed by R46. -/
theorem test_decode_VectorFn : [
    (0x2, 0x000001F000416050, .vexp .rdn 1 2 (.mask 7 true)),
    (0x2, 0x000001F000416051, .vexp2 .rdn 1 2 (.mask 7 true)),
    (0x2, 0x000001F000416052, .vlog .rdn 1 2 (.mask 7 true)),
    (0x2, 0x000001F000416053, .vlog2 .rdn 1 2 (.mask 7 true)),
    (0x2, 0x000001F000416054, .vtanh .rdn 1 2 (.mask 7 true)),
    (0x2, 0x000001F000416055, .vsigm .rdn 1 2 (.mask 7 true)),
    (0x2, 0x000001F000416056, .verf .rdn 1 2 (.mask 7 true)),
    (0x2, 0x000001F000416057, .vsin .rdn 1 2 (.mask 7 true)),
    (0x2, 0x000001F000416058, .vcos .rdn 1 2 (.mask 7 true))].all decodesTo = true := by decide
/-- Words of R61 to R67, fields placed by R46. -/
theorem test_decode_Matrix : [
    (0x8, 0x0000000FF0000002, .mcall 255),
    (0x8, 0x0000000000000003, .mabort),
    (0x8, 0x0000000000000004, .mswap),
    (0x8, 0x0000000C801F2005, .macrd .rtz 31 200),
    (0x8, 0x0000000040400006, .macwr .rne 1 4),
    (0x8, 0x0000000000000007, .macclr),
    (0x8, 0x0000007000C00008, .mpset 7 3),
    (0x8, 0x0000007000030009, .mpget 3 7),
    (0x8, 0x00000000003F000A, .mstat 63),
    (0x8, 0x00000F800140000B, .mload 31 5)].all decodesTo = true := by decide
/-- Words of R61 to R67, fields placed by R46. -/
theorem test_decode_Objects : [
    (0x10, 0x00000FF300EF2002, .openH true 15 14 ⟨3, 255⟩),
    (0x10, 0x0000000000050003, .close 5),
    (0x10, 0x000000210005A004, .info .pages 5 ⟨1, 2⟩),
    (0x10, 0x0000002100900005, .alloc 9 ⟨1, 2⟩),
    (0x10, 0x0000000000050006, .free 5),
    (0x20, 0x0003F00009524010, .fetch .nooc ⟨2, 5, 63⟩ 9),
    (0x20, 0x0000700009522011, .store true ⟨2, 5, 7⟩ 9),
    (0x20, 0x0000700009520012, .gather ⟨2, 5, 7⟩ 9),
    (0x20, 0x0000700009520013, .scatter ⟨2, 5, 7⟩ 9),
    (0x20, 0x000000001F400014, .pushr 31 4),
    (0x20, 0x0000700000520015, .pref ⟨2, 5, 7⟩),
    (0x20, 0x000070210F520016, .copyo ⟨2, 5, 7⟩ 15 ⟨1, 2⟩),
    (0x20, 0x0000702109524017, .coll .bc ⟨2, 5, 7⟩ 9 ⟨1, 2⟩)].all decodesTo = true := by decide
/-- Words of R61 to R67, fields placed by R46. -/
theorem test_decode_Versions : [
    (0x10, 0x0000002100030020, .publ 3 ⟨1, 2⟩),
    (0x10, 0x0000002100430021, .subsc 3 4 ⟨1, 2⟩),
    (0x10, 0x0000002100030022, .pin 3 ⟨1, 2⟩),
    (0x10, 0x0000000000030023, .unpin 3),
    (0x10, 0x0000702100520024, .freeze ⟨2, 5, 7⟩ ⟨1, 2⟩),
    (0x10, 0x0000702100520025, .thaw ⟨2, 5, 7⟩ ⟨1, 2⟩),
    (0x10, 0x0000000F00000026, .thawt 15),
    (0x10, 0x0000702100520027, .grant ⟨2, 5, 7⟩ ⟨1, 2⟩)].all decodesTo = true := by decide
/-- Words of R61 to R67, fields placed by R46. -/
theorem test_decode_Sync : [
    (0x40, 0x0000304225010002, .atom .add .acqrel .die 1 20 ⟨2, 4⟩),
    (0x40, 0x0001600055010003, .red .xor true .system 1 20),
    (0x40, 0x0000104245010004, .ldsync true .rack 1 20 ⟨2, 4⟩),
    (0x40, 0x0000200035010005, .stsync true .package 1 20),
    (0x40, 0x0000000015010008, .barinit .gang 1 20),
    (0x40, 0x0000000020010009, .barr .die 1),
    (0x40, 0x000000420001000A, .barw .core 1 ⟨2, 4⟩),
    (0x40, 0x007C000000000010, .finit 31),
    (0x40, 0x007C000001400011, .fpush 31 5),
    (0x40, 0x007C000001400012, .fpop 31 5),
    (0x40, 0x007C000001400013, .fwait 31 5),
    (0x40, 0x0000000F003F0014, .qclr 63 15),
    (0x40, 0x00000FFF00000015, .tstamp ⟨15, 255⟩)].all decodesTo = true := by decide
/-- Words of R61 to R67, fields placed by R46. -/
theorem test_decode_Plots : [
    (0x40, 0x00000021014F0020, .spawn 15 5 ⟨1, 2⟩),
    (0x40, 0x00000021014F0021, .spawnw 15 5 ⟨1, 2⟩),
    (0x40, 0x000000210F8F0022, .sow 15 62 ⟨1, 2⟩),
    (0x40, 0x00000000014F0023, .bpost 15 5),
    (0x40, 0x00000021000F0024, .bread 15 ⟨1, 2⟩),
    (0x40, 0x0000002101400025, .plotrd 5 ⟨1, 2⟩),
    (0x40, 0x0000000001400030, .trap 5),
    (0x40, 0x0000000000000031, .brk),
    (0x40, 0x000000210E3F0032, .svc 63 56 ⟨1, 2⟩),
    (0x40, 0x0000000000000001, .nop)].all decodesTo = true := by decide
/-- Microwords of R69, fields placed by R184. -/
theorem test_decode_microwords : [
    (0x1, .mnop),
    (0x1FFFFE0001962, .mad ⟨.arg, .last 1, .arg 11, 255, 4095⟩),
    (0x20E0200053, .ada ⟨.mode .odd, .always, .imm 256, 7, 1⟩),
    (0x294, .mxp ⟨.mode .rtz, .last 0, .arg 0, 0, 0⟩),
    (0x10005, .mnp ⟨.mode .rne, .always, .imm 8, 0, 0⟩),
    (0x3EC012000000086, .bld (.last 0) 9 .other (.furrow 31)),
    (0x12000000000006, .bld .always 0 (.stage 1) .arg),
    (0x4000000000007, .bsel .other),
    (0x800000000000008, .zero .high),
    (0x807FFFFD00000000000A009, .mloopOpen ⟨1, true, 4095, 255, 256, .imm 5⟩),
    (0x3000000000000009, .mloopClose 1),
    (0xA, .mend)].all microIs = true := by decide

/-! ### Small states -/

/-- The task that the small states run, alone on core 0. -/
def t0 : Task := ⟨1, 0, 1, 0, 0, 7, 0, 0, (0, 0, 0, 0)⟩
/-- Core 0 runs a task with all of scratch, its scoreboard on. -/
def c0 : Core := { Core.reset 0 with run := .running, task := some t0, scrlim := 262144, sbchk := true, codeLen := 4096 }
/-- A state whose current core is `c`. -/
def st (c : Core) : State := { State.reset with core := c, power := .running, agenda := [] }
/-- The plain state. -/
def s0 : State := st c0
/-- Nothing is in flight, so every source is ready. -/
theorem ready_idle (s : State) (srcs : List Reg) (hg : s.core.iss.guard = true) (hf : s.core.inflight = []) : Ready s srcs := by
  refine ⟨hg, fun _ r _ => ?_⟩
  simp [Core.pending, hf]

/-- The same for a state whose context is the reset one. -/
theorem ready_of (c : Core) (srcs : List Reg) (hg : c.iss.guard = true) (hf : c.inflight = []) : Ready (st c) srcs := ready_idle _ _ hg hf
/-- The plain core with some registers set. -/
def withX (k : Fin 64) (v : Word) (c : Core) : Core := { c with x := setAt c.x k v }
def withA (k : Fin 16) (v : Word) (c : Core) : Core := { c with a := setAt c.a k v }
def withV (k : Fin 32) (v : VReg) (c : Core) : Core := { c with v := setAt c.v k v }
/-- A next state's core satisfies a test. -/
def nextCore (o : Host.Outcome State Fault Refusal) (p : Core → Bool) : Bool := match o with | .next t => p t.core | _ => false
/-- The value that the last result put in flight writes to x[D]. -/
def lastX (d : Fin 64) (v : Word) (lat : Nat) (c : Core) : Bool := match c.inflight.getLast? with
  | some ⟨n, .x r w⟩ => decide (r = d) && decide (w = v) && decide (n = lat - 1)
  | _ => false
/-- The same for p[D]. -/
def lastP (d : Fin 16) (b : Bool) (lat : Nat) (c : Core) : Bool := match c.inflight.getLast? with
  | some ⟨n, .p r w⟩ => decide (r = d) && decide (w = b) && decide (n = lat - 1)
  | _ => false
/-- Element e of w bytes and the tag of the last v-register put in flight. -/
def lastV (d : Fin 32) (w e : Nat) (v : Nat) (t : Tag) (c : Core) : Bool := match c.inflight.getLast? with
  | some ⟨_, .v r x⟩ => decide (r = d) && decide (bitsAt x.data w e = v) && decide (x.tag = t)
  | _ => false
/-- The syllable trapped. -/
def trapsAs (k : Cause) (c : Core) : Bool := decide (c.out = .trapped k 0)

/-! ### Scalar instructions -/

/-- x2 = -2^63, x3 = -1, x4 = 2^63 - 1, x5 = 1. -/
def cs : Core := withX 2 (BitVec.intMin 64) (withX 3 (-1) (withX 4 0x7FFFFFFFFFFFFFFF (withX 5 1 c0)))
def ss : State := st cs

/-- R77: ADD wraps; R78: DIV of -2^63 by -1, and by 0; R79: CLZ of 0; R80: a shift by 64 is a shift by 0; R71: SRA keeps the sign. -/
theorem test_add_wraps : nextCore (exec (.add 1 4 5) ss) (lastX 1 (BitVec.intMin 64) 1) = true := by decide
theorem test_sub_wraps : nextCore (exec (.sub 1 2 5) ss) (lastX 1 0x7FFFFFFFFFFFFFFF 1) = true := by decide
theorem test_mulh_signed : nextCore (exec (.mulh 1 3 5) ss) (lastX 1 (-1) 3) = true := by decide
theorem test_mulhn_unsigned : nextCore (exec (.mulhn 1 3 3) ss) (lastX 1 0xFFFFFFFFFFFFFFFE 3) = true := by decide
theorem test_div_overflow : nextCore (exec (.div 1 2 3) ss) (lastX 1 (BitVec.intMin 64) 20) = true := by decide
theorem test_div_by_zero : nextCore (exec (.div 1 4 0) ss) (lastX 1 (-1) 20) = true := by decide
theorem test_rem_by_zero : nextCore (exec (.rem 1 4 0) ss) (lastX 1 0x7FFFFFFFFFFFFFFF 20) = true := by decide
theorem test_remn_by_zero : nextCore (exec (.remn 1 3 0) ss) (lastX 1 (-1) 20) = true := by decide
theorem test_minn_unsigned : nextCore (exec (.minn 1 2 4) ss) (lastX 1 0x7FFFFFFFFFFFFFFF 1) = true := by decide
theorem test_min_signed : nextCore (exec (.min 1 2 4) ss) (lastX 1 (BitVec.intMin 64) 1) = true := by decide
theorem test_clz_zero : nextCore (exec (.clz 1 0) ss) (lastX 1 64 1) = true := by decide
theorem test_ctz_top : nextCore (exec (.ctz 1 2) ss) (lastX 1 63 1) = true := by decide
theorem test_popc_ones : nextCore (exec (.popc 1 3) ss) (lastX 1 64 1) = true := by decide
theorem test_srai_sign : nextCore (exec (.srai 1 2 63) ss) (lastX 1 (-1) 1) = true := by decide
theorem test_shri_zero_fill : nextCore (exec (.shri 1 2 63) ss) (lastX 1 1 1) = true := by decide
theorem test_movi_extends : nextCore (exec (.movi 1 0x80000000) ss) (lastX 1 0xFFFFFFFF80000000 1) = true := by decide
theorem test_movl_extends : nextCore (exec (.movl 1 0x8000000000) ss) (lastX 1 0xFFFFFF8000000000 1) = true := by decide
theorem test_cmp_signed : nextCore (exec (.cmp .lt 1 2 5) ss) (lastP 1 true 1) = true := by decide
theorem test_cmp_unsigned : nextCore (exec (.cmp .ltn 1 2 5) ss) (lastP 1 false 1) = true := by decide
theorem test_write_of_x0_vanishes : nextCore (exec (.add 0 4 5) ss) (fun c => decide (c.inflight = [])) = true := by decide
theorem test_false_guard_does_nothing :
    nextCore (exec (.add 1 4 5) (st { cs with iss := { cs.iss with guard := false } })) (fun c => decide (c.inflight = [])) = true := by decide
/-- R86: a misaligned access, and one that ends beyond S. -/
theorem test_lds_misaligned : nextCore (exec (.lds .w 1 0 2) ss) (trapsAs .scratchBounds) = true := by decide
theorem test_sts_beyond : nextCore (exec (.sts .d 1 0 262144) ss) (trapsAs .scratchBounds) = true := by decide
theorem test_lds_sign : nextCore (exec (.lds .bs 1 0 5) (st { cs with scratch := [⟨5, 0x80⟩] })) (lastX 1 0xFFFFFFFFFFFFFF80 5) = true := by decide +kernel
/-- R87: 1.0 + 1.0 in F32, with the upper half of the operand ignored; R89: F32 1.5 to I32 towards zero. -/
theorem test_sfadd : nextCore (exec (.sfaddF32 .rne 1 2 2) (st (withX 2 0xFFFFFFFF3F800000 c0))) (lastX 1 0x40000000 4) = true := by decide
theorem test_sfcvt : nextCore (exec (.sfcvt .rtz 1 2 15 5) (st (withX 2 0xBFC00000 c0))) (lastX 1 (-1) 4) = true := by decide

theorem witness_IntegerResults :
    (∃ i s srcs lat d v, xResult (State.core s) i = some (srcs, lat, d, v) ∧ Ready s srcs) ∧
    (∃ i s d a n, bitCountRegs i = some (d, a) ∧ bitCount ((State.core s).rx a) i = some n ∧ Ready s [.x a.val]) :=
  ⟨⟨.add 1 4 5, ss, _, _, _, _, rfl, ready_of _ _ rfl rfl⟩, ⟨.clz 1 0, ss, _, _, _, rfl, rfl, ready_of _ _ rfl rfl⟩⟩
theorem witness_PredicateAndAddressResults :
    (∃ i s srcs d q, pResult (State.core s) i = some (srcs, d, q) ∧ Ready s srcs) ∧
    (∃ i s srcs d v, aResult (State.core s) i = some (srcs, d, v) ∧ Ready s srcs) :=
  ⟨⟨.cmp .lt 1 2 5, ss, _, _, _, rfl, ready_of _ _ rfl rfl⟩, ⟨.aadd 1 0 4, ss, _, _, _, rfl, ready_of _ _ rfl rfl⟩⟩
/-- The last byte of scratch, a double word that ends with it, an offset just beyond, and a marked line. -/
theorem witness_ScratchAccess :
    (Ready ss [.a 0] ∧ scratchOk ss.core (((ss.core.ra 0).toNat + (262143#19).toNat)) 1 ∧ ss.core.marks.getLsbD (262143 / 128) = false) ∧
    (Ready ss [.a 0, .x 2] ∧ scratchOk ss.core (((ss.core.ra 0).toNat + (262136#19).toNat)) 8) ∧
    (¬ scratchOk ss.core (((ss.core.ra 0).toNat + (262144#19).toNat)) 1 ∧ ¬ scratchOk ss.core (((ss.core.ra 0).toNat + (1#19).toNat)) 2) ∧
    (let s := st { cs with marks := 1 }
     Ready s [.a 0] ∧ scratchOk s.core (((s.core.ra 0).toNat + (127#19).toNat)) 1 ∧ s.core.marks.getLsbD (127 / 128) = true) := by
  refine ⟨⟨ready_of _ _ rfl rfl, ?_, by decide +kernel⟩, ⟨ready_of _ _ rfl rfl, ?_⟩, ⟨?_, ?_⟩, ⟨ready_of _ _ rfl rfl, ?_, by decide +kernel⟩⟩ <;>
    simp only [scratchOk] <;> decide +kernel
theorem witness_ControlRegistersAndTags :
    (∃ n v, csrValue ss n = some v ∧ Ready ss []) ∧ Ready ss [.x 2] ∧
    (let s := st { cs with tags := [(3, -1), (7, 1)] }
     Ready s [.x 3] ∧ tagsRise s.core.tags ∧ Ready s [.x 3, .x 5]) := by
  refine ⟨⟨0x005, _, rfl, ready_of _ _ rfl rfl⟩, ready_of _ _ rfl rfl, ready_of _ _ rfl rfl, ?_, ready_of _ _ rfl rfl⟩
  simp [tagsRise, st]
theorem witness_ScalarFloat :
    (∃ i f lat d rm op rs, floatForm i = some (f, lat, d, rm, op, rs) ∧ Ready ss (rs.map fun r => .x r.val)) ∧
    ((15#5).toNat ∈ sfcvtCodes ∧ (5#5).toNat ∈ sfcvtCodes ∧ Ready ss [.x 2]) ∧
    ¬ ((15#5).toNat ∈ sfcvtCodes ∧ (9#5).toNat ∈ sfcvtCodes) ∧ Ready ss [.x 2, .x 3] :=
  ⟨⟨.sfmaF64 .rne 1 2 3 4, _, _, _, _, _, _, rfl, ready_of _ _ rfl rfl⟩, ⟨by decide, by decide, ready_of _ _ rfl rfl⟩, by decide,
    ready_of _ _ rfl rfl⟩

/-! ### Control flow -/

/-- A body of 16 bytes from address 64, whose last bundle is at 80. -/
def bodyAt (addr : Nat) : Core := { c0 with loops := [⟨0, 2, 64, 80, 0, 0⟩], pc := addr, iss := { c0.iss with addr := addr } }

theorem test_jmp_redirects : nextCore (exec (.jmp 4) s0) (fun c => decide (c.redirect = some ⟨3, some 32, .leave 0, 0⟩)) = true := by decide
theorem test_loop_pushes : nextCore (exec (.loop 3 2) s0) (fun c => decide (c.loops = [⟨0, 3, 8, 16, 0, 0⟩])) = true := by decide
theorem test_ret_empty : nextCore (exec .ret s0) (trapsAs .callDepth) = true := by decide

theorem witness_Transfers :
    ∃ i srcs taken t act cost, transferForm s0.core i = some (srcs, taken, t, act, cost) ∧ Ready s0 srcs ∧ ¬ endsBody s0.core ∧
      s0.core.eng.fresh = none ∧ (taken = true → targetOk s0.core t) := by
  refine ⟨.jmp 511, _, _, _, _, _, rfl, ready_of _ _ rfl rfl, ?_, rfl, fun _ => by simp only [targetOk]; decide +kernel⟩
  rintro ⟨l, h, -⟩
  exact nomatch (show none = some l from h)
/-- A false guard with its predicate at hand. -/
def sOff : State := st { c0 with iss := { c0.iss with guard := false } }
theorem guardOff_sOff : guardOff sOff := ⟨rfl, fun _ => rfl⟩
theorem witness_TransfersGuarded : guardOff sOff ∧ ¬ endsBody sOff.core ∧ (Instr.jmpx 3).isTransfer = true :=
  ⟨guardOff_sOff, (fun ⟨l, h, _⟩ => nomatch (show none = some l from h)), rfl⟩
theorem witness_TransferTargets :
    ∃ i srcs t act cost, transferForm s0.core i = some (srcs, true, t, act, cost) ∧ Ready s0 srcs ∧ ¬ endsBody s0.core ∧
      s0.core.eng.fresh = none ∧ ¬ targetOk s0.core t := by
  refine ⟨.call 512, _, _, _, _, rfl, ready_of _ _ rfl rfl, ?_, rfl, by simp only [targetOk]; decide +kernel⟩
  rintro ⟨l, h, -⟩
  exact nomatch (show none = some l from h)
theorem witness_TransferTraps :
    (Ready s0 [] ∧ ¬ endsBody s0.core ∧ ¬ (0 ≤ (s0.core.iss.addr + 8 * (512#32).toInt) ∧ s0.core.iss.addr + 8 * (512#32).toInt < (s0.core.codeLen : Int)) ∧
      s0.core.calls = [] ∧ (s0.core.loops.filter fun l => l.cd = s0.core.calls.length).length < (1 : Fin 7).val) ∧
    (let s := st { c0 with calls := List.replicate 16 ⟨8, 0⟩ }
     Ready s [] ∧ ¬ endsBody s.core ∧ 16 ≤ s.core.calls.length) ∧
    (let s := st { c0 with calls := [⟨4096, 0⟩] }
     Ready s [] ∧ ¬ endsBody s.core ∧ s.core.calls = ⟨4096, 0⟩ :: [] ∧ s.core.codeLen ≤ 4096) ∧
    (let s := st (bodyAt 64)
     Ready s [] ∧ endsBody s.core) := by
  refine ⟨⟨ready_of _ _ rfl rfl, ?_, by decide, rfl, by decide⟩, ⟨ready_of _ _ rfl rfl, ?_, by decide⟩, ⟨ready_of _ _ rfl rfl, ?_, rfl, by decide⟩,
    ready_of _ _ rfl rfl, ⟨⟨0, 2, 64, 80, 0, 0⟩, by decide, by decide, by decide⟩⟩ <;>
    · rintro ⟨l, h, -⟩
      exact nomatch (show none = some l from h)
theorem witness_LoopOpeners :
    (∃ i srcs n sw disp, loopForm s0.core i = some (srcs, n, sw, disp) ∧ i.wf = true ∧ Ready s0 srcs ∧ n ≠ 0 ∧ s0.core.loops.length < 6 ∧
      ∀ l, s0.core.innermost = some l → bodyEnd s0.core disp ≤ l.e) ∧
    (∃ i srcs sw disp, loopForm s0.core i = some (srcs, 0, sw, disp) ∧ i.wf = true ∧ Ready s0 srcs) :=
  ⟨⟨.loop 3 2, _, _, _, _, rfl, by decide, ready_of _ _ rfl rfl, by decide, by decide, fun l h => nomatch (show none = some l from h)⟩,
    ⟨.loopx 62 2, _, _, _, rfl, by decide, ready_of _ _ rfl rfl⟩⟩
theorem witness_LoopTraps :
    (let c := { c0 with loops := List.replicate 6 ⟨0, 2, 64, 4088, 0, 0⟩ }
     ∃ i srcs n sw disp, loopForm c i = some (srcs, n, sw, disp) ∧ i.wf = true ∧ Ready (st c) srcs ∧ n ≠ 0 ∧ c.loops.length = 6) ∧
    (let c := { c0 with loops := [⟨0, 2, 0, 8, 0, 0⟩] }
     ∃ i srcs n sw disp, loopForm c i = some (srcs, n, sw, disp) ∧ i.wf = true ∧ Ready (st c) srcs ∧ n ≠ 0 ∧
       ∃ l, c.innermost = some l ∧ l.e < bodyEnd c disp) :=
  ⟨⟨.loop 3 2, _, _, _, _, rfl, by decide, ready_of _ _ rfl rfl, by decide, by decide⟩,
    ⟨.loop 3 2, _, _, _, _, rfl, by decide, ready_of _ _ rfl rfl, by decide, _, rfl, by decide⟩⟩
/-- The end of a body on its first and on its last iteration, alone and with an outer level that shares the end. -/
theorem witness_Sequencer :
    (∀ k ∈ [0, 1], let l : Level := ⟨k, 2, 64, 80, 0, 0⟩
      let c := { bodyAt 80 with loops := [l] }
      c.redirect = none ∧ c.innermost = some l ∧ l.e = c.iss.addr ∧ (l.lc + 1 < l.n ↔ k = 0) ∧
        ∀ v ∈ c.loops.erase l, v.cd = c.calls.length → v.e ≠ c.iss.addr) ∧
    (let l : Level := ⟨1, 2, 64, 80, 0, 0⟩
     let o : Level := ⟨0, 2, 32, 80, 0, 0⟩
     let c := { bodyAt 80 with loops := [l, o] }
     c.redirect = none ∧ c.innermost = some l ∧ l.e = c.iss.addr ∧ ¬ l.lc + 1 < l.n ∧ c.loops = l :: o :: [] ∧ o.cd = c.calls.length ∧
       o.e = c.iss.addr ∧ o.lc + 1 < o.n) ∧
    noEnd c0 ∧ c0.redirect = none ∧
    (∀ act, let r : Redirect := ⟨1, some 32, act, 3⟩
      let c := { c0 with redirect := some r }
      noEnd c ∧ c.redirect = some r ∧ r.left ≤ 1 ∧ r.target = some 32 ∧ r.act = act ∧ c.loops.length ≤ 6 ∧ ∀ l ∈ c.loops, l.cd = c.calls.length) ∧
    (1 < ({ left := 3, target := none, act := .none, cost := 0 } : Redirect).left) := by
  have h0 : noEnd c0 := fun l h => nomatch (show none = some l from h)
  exact ⟨by decide, by decide, h0, rfl, fun act => ⟨(fun l h => nomatch (show none = some l from h)), rfl, Nat.le_refl 1, rfl, rfl,
    (by decide : (0 : Nat) ≤ 6), fun _ h => nomatch h⟩, by decide⟩

/-! ### Vector instructions -/

def tF32 : Tag := ⟨15, 0, false⟩
def tI32 : Tag := ⟨5, 0, false⟩
def tN32 : Tag := ⟨6, 0, false⟩
def tN64 : Tag := ⟨8, 0, false⟩
/-- v1 and v2: 1.0 in lane 0 of F32; v3: N32, 5 in lane 0 and the last lane; v4: I32; v5: N64; v6 and v7: poisoned, reserved; v8: F32
with infinity. m1 selects lane 0 alone. -/
def cv : Core :=
  let one : VReg := ⟨0x3F800000, tF32⟩
  let c := withV 1 one (withV 2 one (withV 3 ⟨BitVec.ofNat 4096 (5 + 5 * 2 ^ 4064), tN32⟩ (withV 4 ⟨0x80000000, tI32⟩ (withV 5 ⟨1, tN64⟩ c0))))
  let c := withV 6 ⟨0, ⟨15, 0, true⟩⟩ (withV 7 ⟨0, ⟨30, 0, false⟩⟩ (withV 8 ⟨0x7F800000, tF32⟩ (withV 10 one c)))
  { c with m := setAt c.m 1 0xF }
def sv : State := st cv

theorem test_vadd : nextCore (exec (.vadd .rne 10 1 2 .all) sv) (lastV 10 4 0 0x40000000 tF32) = true := by decide +kernel
theorem test_vsub_merges : nextCore (exec (.vsub .rne 10 1 2 (.mask 1 false)) sv) (lastV 10 4 0 0 tF32) = true := by decide +kernel
theorem test_vabs_min : nextCore (exec (.vabs 10 4 .all) sv) (lastV 10 4 0 0x80000000 tI32) = true := by decide +kernel
theorem test_vneg_min : nextCore (exec (.vneg 10 4 .all) sv) (lastV 10 4 0 0x80000000 tI32) = true := by decide +kernel
theorem test_vdiv_by_zero : nextCore (exec (.vdiv .rne 10 3 0 .all) (st (withV 0 ⟨0, tN32⟩ cv))) (lastV 10 4 0 0xFFFFFFFF tN32) = true := by
  decide +kernel
theorem test_vexp2_zero : nextCore (exec (.vexp2 .rne 10 1 .all) sv) (lastV 10 4 1 0x3F800000 tF32) = true := by decide +kernel
theorem test_vrcp_inf : nextCore (exec (.vrcp .rne 10 8 .all) sv) (lastV 10 4 0 0 tF32) = true := by decide +kernel
theorem test_vcvt_i32 : nextCore (exec (.vcvt .rtz 10 4 15 .all) sv) (lastV 10 4 0 0xCF000000 tF32) = true := by decide +kernel
theorem test_vbcast : nextCore (exec (.vbcast 10 3 127) sv) (lastV 10 4 64 5 tN32) = true := by decide +kernel
theorem test_viota : nextCore (exec (.viota 10) sv) (lastV 10 4 127 127 tN32) = true := by decide +kernel
theorem test_vred_sum : nextCore (exec (.vred .sum .rne 10 3 none) sv) (lastV 10 4 0 10 tN32) = true := by decide +kernel
theorem test_vred_argmax_lowest : nextCore (exec (.vred .argmax .rne 10 3 none) sv) (lastV 10 4 0 0 tN32) = true := by decide +kernel
theorem test_vadd_poison : nextCore (exec (.vadd .rne 10 6 1 .all) sv) (trapsAs .poison) = true := by decide +kernel
theorem test_vadd_mismatch : nextCore (exec (.vadd .rne 10 1 3 .all) sv) (trapsAs .formatMismatch) = true := by decide +kernel
theorem test_vadd_t16 : nextCore (exec (.vadd .rne 10 1 1 .all) (st (withV 1 ⟨0, ⟨17, 0, false⟩⟩ cv))) (trapsAs .formatEmulate) = true := by
  decide +kernel

theorem ready_v (c : Core) (srcs : List Reg) (hg : c.iss.guard = true) (hf : c.inflight = []) : Ready (st c) srcs := ready_of c srcs hg hf

theorem witness_VectorArithmetic :
    (∃ i f, arithForm cv i = some f ∧ Ready sv f.reads ∧ f.runs cv) ∧ (∃ i f, signForm cv i = some f ∧ Ready sv f.reads ∧ f.runs cv) := by
  refine ⟨⟨.vfma .rne 10 1 2 8 (.mask 1 false), _, rfl, ready_of _ _ rfl rfl, ?_⟩, ⟨.vcps 10 4 4 .all, _, rfl, ready_of _ _ rfl rfl, ?_⟩⟩ <;>
    simp only [VForm.runs, tagOk, mergeOk] <;> decide +kernel
theorem witness_VectorTrapOrder :
    (∃ i f, arithForm cv i = some f ∧ Ready sv f.reads ∧ f.cause cv = some .poison) ∧
    (∃ i f, signForm cv i = some f ∧ Ready sv f.reads ∧ f.cause cv = some .formatReserved) ∧
    (∃ i f, arithForm cv i = some f ∧ Ready sv f.reads ∧ f.cause cv = some .formatMismatch) ∧
    (∃ i f, arithForm (withV 1 ⟨0, ⟨17, 0, false⟩⟩ cv) i = some f ∧ f.cause (withV 1 ⟨0, ⟨17, 0, false⟩⟩ cv) = some .formatEmulate) :=
  ⟨⟨.vadd .rne 10 6 7 .all, _, rfl, ready_of _ _ rfl rfl, by decide +kernel⟩, ⟨.vneg 10 7 .all, _, rfl, ready_of _ _ rfl rfl, by decide +kernel⟩,
    ⟨.vsqrt .rne 10 4 .all, _, rfl, ready_of _ _ rfl rfl, by decide +kernel⟩, ⟨.vmul .rne 10 1 1 .all, _, rfl, by decide +kernel⟩⟩
theorem witness_VectorFunctions :
    ∃ i d a k rm single, functionForm i = some (d, a, k, rm, single) ∧ Ready sv (.v a.val :: maskReads k (.v d.val)) ∧
      fmtKind (cv.rv a).tag.fmt = .flt .f32 ∧ tagOk (cv.rv a).tag ∧ mergeOk cv k d (cv.rv a).tag.fmt 0 ∧
      selects cv k 4 0 = true ∧ special i ((cv.rv a).val 0) = some (.zero false) := by
  refine ⟨.vrcp .rne 10 8 (.mask 1 false), _, _, _, _, _, rfl, ready_of _ _ rfl rfl, by decide +kernel, ?_, ?_, by decide +kernel, ?_⟩
  · simp only [tagOk]; decide +kernel
  · simp only [mergeOk]; decide +kernel
  · rw [show (cv.rv 8).val 0 = .inf false by decide +kernel]; rfl
theorem witness_VectorBitsAndMasks :
    (∃ i d a b k op, bitForm i = some (d, a, b, k, op) ∧ tagCarries (cv.rv a).tag ∧ tagCarries (cv.rv b).tag ∧ (cv.rv b).tag.fmt = fmtRaw ∧
      mergeOk cv k d (bitTag (cv.rv a).tag (cv.rv b).tag).fmt (bitTag (cv.rv a).tag (cv.rv b).tag).scale) ∧
    (tagCarries (cv.rv 6).tag ∧ mergeOk cv (.mask 1 false) 10 (cv.rv 6).tag.fmt (cv.rv 6).tag.scale) ∧
    (∃ i d a b k op, shiftForm i = some (d, a, b, k, op) ∧ tagCarries (cv.rv a).tag ∧ tagCarries (cv.rv b).tag ∧
      (cv.rv a).tag.fmt = (cv.rv b).tag.fmt ∧ (cv.rv a).kind.isInt = true ∧ mergeOk cv k d (cv.rv a).tag.fmt (cv.rv a).tag.scale) ∧
    (tagOk (cv.rv 1).tag ∧ tagOk (cv.rv 8).tag ∧ (cv.rv 1).tag.fmt = (cv.rv 8).tag.fmt ∧ numbers (cv.rv 1).kind = true ∧
      ¬ (cv.rv 1).kind = .flt .t16 ∧ tagCarries (cv.rv 1).tag ∧ (cv.rv 1).tag.scale = (cv.rv 8).tag.scale) ∧
    ∀ srcs, Ready sv srcs := by
  refine ⟨⟨.vor 10 1 0 (.mask 1 false), _, _, _, _, _, rfl, ?_⟩, ?_, ⟨.vsra 9 4 4 (.mask 1 true), _, _, _, _, _, rfl, ?_⟩, ?_,
    fun srcs => ready_of _ srcs rfl rfl⟩ <;> simp only [tagCarries, tagOk, mergeOk] <;> decide +kernel
theorem witness_VectorConversionAndTags :
    (tagOk (cv.rv 4).tag ∧ numbers (cv.rv 4).kind = true ∧ numbers (fmtKind 15) = true ∧ ¬ ((cv.rv 4).kind = .flt .t16 ∨ fmtKind 15 = .flt .t16) ∧
      mergeOk cv (.mask 1 false) 10 15 0) ∧
    (tagOk (cv.rv 1).tag ∧ tagOk (cv.rv 4).tag ∧ floats (cv.rv 1).kind = true ∧ (cv.rv 4).kind = .int true (cv.rv 1).w ∧
      ¬ (cv.rv 1).kind = .flt .t16 ∧ mergeOk cv (.mask 1 false) 10 (cv.rv 1).tag.fmt (cv.rv 1).tag.scale) ∧
    ((cv.rv 1).tag.fmt ≠ fmtPoison ∧ tagCarries ⟨9, 3, false⟩ ∧ (31#5) = fmtPoison) ∧
    (tagCarries (cv.rv 6).tag ∧ mergeOk cv (.mask 1 false) 10 (cv.rv 6).tag.fmt (cv.rv 6).tag.scale) ∧ fmtKind 9 ≠ .reserved ∧
    ∀ srcs, Ready sv srcs := by
  refine ⟨?_, ?_, ?_, ?_, by decide, fun srcs => ready_of _ srcs rfl rfl⟩ <;> simp only [tagCarries, tagOk, mergeOk] <;> decide +kernel
/-- The last access that fits S, for a register of 4-byte elements, and the first one beyond; a register tagged POISON. -/
theorem witness_VectorLoadsAndStores :
    (tagCarries (cv.rv 1).tag ∧ vInScratch cv (vAddr cv 0 (261632#19)) (vSize (cv.rv 1).tag) ∧
      ¬ vInScratch cv (vAddr cv 0 (261664#19)) (vSize (cv.rv 1).tag)) ∧
    (((withV 1 ⟨0, ⟨31, 0, false⟩⟩ cv).rv 1).tag.fmt = fmtPoison) ∧ ∀ srcs, Ready sv srcs := by
  refine ⟨?_, by decide +kernel, fun srcs => ready_of _ srcs rfl rfl⟩ <;> simp only [tagCarries, vInScratch] <;> decide +kernel
/-- A furrow of two slots of 1,024 bytes: one filled, one free. -/
def fur : Furrow := { Furrow.none with base := 1024, slotsz := 1024, count := 2, filled := 1, free := 1, init := true, decl := true, tail := 1 }
def cf (g : Furrow) (c : Core) : Core := { c with f := setAt c.f 3 g }
/-- The first and the last access of a slot. -/
theorem witness_VectorFurrowAccess :
    (let c := cf fur cv
     tagCarries (c.rv 1).tag ∧ vConsumes (c.rf 3) (vSize (c.rv 1).tag) ∧ 0 < (c.rf 3).filled ∧ vProduces (c.rf 3) (vSize (c.rv 1).tag) ∧
     0 < (c.rf 3).free ∧ (c.rf 3).slotsz > (c.rf 3).vrd + 512 ∧ (c.rf 3).vwr = 0) ∧
    (let c := cf { fur with cons := 2, prod := 2, vrd := 512, vwr := 512, free := 0 } cv
     vConsumes (c.rf 3) 512 ∧ vProduces (c.rf 3) 512 ∧ (c.rf 3).slotsz ≤ (c.rf 3).vrd + 512 ∧ (c.rf 3).vwr ≠ 0) ∧
    ∀ srcs, Ready (st (cf fur cv)) srcs := by
  refine ⟨?_, ?_, fun srcs => ready_of _ srcs rfl rfl⟩ <;> simp only [tagCarries, vConsumes, vProduces] <;> decide +kernel
/-- A false guard on furrows that give and take; a furrow of another use, of another slot size, empty and full. -/
theorem witness_VectorFurrowHolds :
    (let s := st (cf fur { cv with iss := { cv.iss with guard := false } })
     guardOff s ∧ vConsumes (s.core.rf 3) 512 ∧ 0 < (s.core.rf 3).filled ∧ vProduces (s.core.rf 3) 512 ∧ 0 < (s.core.rf 3).free) ∧
    (Ready sv (.v 1 :: (maskReads .all (.v 1) ++ maskReadsO none)) ∧ tagCarries (sv.core.rv 1).tag ∧ vSize (sv.core.rv 1).tag = 512) ∧
    (let f := { fur with cons := 1, prod := 1 }
     f.cons ≠ 0 ∧ f.cons ≠ 2 ∧ f.prod ≠ 0 ∧ f.prod ≠ 2 ∧ { fur with slotsz := 1000 }.slotsz % 512 ≠ 0 ∧ Furrow.none.init = false) ∧
    (let f := { fur with filled := 0, free := 0 }
     vConsumes f 512 ∧ f.filled = 0 ∧ vProduces f 512 ∧ f.vwr = 0 ∧ f.free = 0) := by
  refine ⟨⟨⟨rfl, fun _ => rfl⟩, ?_, by decide +kernel, ?_, by decide +kernel⟩, ⟨ready_of _ _ rfl rfl, ?_, by decide +kernel⟩, by decide +kernel, ?_⟩ <;>
    simp only [vConsumes, vProduces, tagCarries] <;> decide +kernel
theorem witness_VectorGatherScatter :
    (let c := withV 3 ⟨BitVec.ofNat 4096 (8 + 262140 * 2 ^ 32), tN32⟩ cv
     tagOk (c.rv 3).tag ∧ (c.rv 3).tag.fmt = fmtN32 ∧ tagCarries (c.rv 1).tag ∧ (fmtKind (c.rv 1).tag.fmt).bytes = (gatherShape .w).1 ∧
     (c.rv 1).w = (gatherShape .w).1 ∧ (∀ e, e < 128 → selects c .all 4 e = true → (c.rv 3).bits e % 4 = 0 ∧ (c.rv 3).bits e + 4 ≤ c.scrlim) ∧
     ∀ e, e < 128 → selectsO c none 4 e = true → (c.rv 3).bits e % 4 = 0 ∧ (c.rv 3).bits e + 4 ≤ c.scrlim) ∧ ∀ srcs, Ready sv srcs := by
  refine ⟨?_, fun srcs => ready_of _ srcs rfl rfl⟩; simp only [tagCarries, tagOk] <;> decide +kernel
theorem witness_VectorLaneMovement :
    (tagCarries (cv.rv 1).tag ∧ tagOk (cv.rv 3).tag ∧ (cv.rv 3).tag.fmt = nFmt (cv.rv 1).w) ∧
    ((cv.rv 5).tag.poison = false ∧ (cv.rv 5).tag.fmt ≠ fmtPoison ∧ (cv.rv 5).w = 8) ∧ ∀ srcs, Ready sv srcs := by
  refine ⟨?_, by decide +kernel, fun srcs => ready_of _ srcs rfl rfl⟩; simp only [tagCarries, tagOk]; decide +kernel
/-- Every lane selected, and none: m2 is empty. -/
theorem witness_VectorReductions :
    (tagOk (cv.rv 1).tag ∧ numbers (cv.rv 1).kind = true ∧ ¬ (cv.rv 1).kind = .flt .t16) ∧
    ((List.range 128).filter (selectsO cv (some 2) 4) = [] ∧ (List.range 128).filter (selectsO cv none 4) ≠ []) ∧
    mergeOk cv (.mask 1 false) 10 (cv.rv 1).tag.fmt (cv.rv 1).tag.scale ∧ (cv.rv 5).tag = ⟨fmtN64, 0, false⟩ ∧ ∀ srcs, Ready sv srcs := by
  refine ⟨?_, by decide +kernel, ?_, by decide +kernel, fun srcs => ready_of _ srcs rfl rfl⟩ <;> simp only [tagOk, mergeOk] <;> decide +kernel
theorem witness_VectorQueues :
    (s0.core.task = some t0 ∧ ∀ srcs, Ready sv srcs) ∧
    ((cv.rv 1).tag.fmt ≠ fmtPoison ∧ fmtKind (cv.rv 1).tag.fmt ≠ .reserved ∧ (∀ r ∈ ([1, 3] : List (Fin 32)), (cv.rv r).tag.fmt ≠ fmtPoison) ∧
      cv.deferq.length + cv.deferIn.length + ((List.range 128).filter fun l => (cv.rm 1).getLsbD (4 * l)).length ≤ 4096) ∧
    (let c := { cv with deferq := List.replicate 4096 ⟨0, 0, 0, 0, 0, false⟩ }
     4096 < c.deferq.length + c.deferIn.length + ((List.range 128).filter fun l => (c.rm 1).getLsbD (4 * l)).length) ∧
    (27 : Fin 32).val + (3 : Fin 4).val + 1 ≤ 31 := by
  refine ⟨⟨rfl, fun srcs => ready_of _ srcs rfl rfl⟩, ?_, ?_, by decide⟩
  · decide +kernel
  · dsimp only; rw [List.length_replicate]; decide +kernel

/-! ### The matrix engine -/

/-- BF16 by BF16, no convolution; the same of I8 and of F16. -/
def mpOf (f : Nat) : Vector Word 8 :=
  setAt (setAt (Vector.replicate 8 (0 : Word)) (0 : Fin 8) (BitVec.ofNat 64 (f * 2 ^ 38))) (3 : Fin 8) (BitVec.ofNat 64 f)
def withE (e : Engine) (c : Core) : Core := { c with eng := e }
/-- Routine 0 runs, at index 4033. -/
def eRun (f : Nat) : Engine := { Engine.reset with active := some (.routine 0 (mpOf f)), done := false, ix := 4033 }
def se (e : Engine) : State := st (withE e c0)

theorem test_mcall_starts : nextCore (exec (.mcall 2) (st { c0 with mp := mpOf 14 })) (fun c =>
    decide (c.eng.active = some (.routine 2 (mpOf 14))) && !c.eng.done) = true := by decide +kernel
theorem test_mcall_bad_pair : nextCore (exec (.mcall 2) (st { c0 with mp := mpOf 0 })) (trapsAs .microFault) = true := by decide +kernel
theorem test_mstat_done : nextCore (exec (.mstat 1) s0) (lastX 1 0x15000 1) = true := by decide +kernel
theorem test_mend_completes : nextCore (exec .mend (se (eRun 14))) (fun c => decide (c.eng.fresh = some 0)) = true := by decide +kernel

theorem witness_MatrixWork :
    (takesWork Engine.reset ∧ captureOk (mpOf 14) ∧ s0.core.iss.emul = false) ∧
    (let c := cf fur (withX 2 4032 c0)
     takesWork c.eng ∧ (c.rf 3).init = true ∧ (c.rf 3).cons = 0 ∧ (c.rf 3).slotsz ≤ 2048 ∧ (c.rx 2).toNat + (c.rf 3).slotsz / 16 ≤ 4096) ∧
    (Engine.reset.active = none ∧ Engine.reset.pending = none ∧ Engine.reset.fault = false) ∧
    (let e := { Engine.reset with fault := true }
     e.fault = true ∧ e.active = none ∧ e.pending = none) ∧
    ((eRun 14).active ≠ none ∧ { eRun 14 with pending := some (.routine 1 (mpOf 14)) }.pending ≠ none) ∧ ∀ e srcs, Ready (se e) srcs := by
  refine ⟨?_, ?_, ⟨rfl, rfl, rfl⟩, ⟨rfl, rfl, rfl⟩, by decide +kernel, fun e srcs => ready_of _ srcs rfl rfl⟩ <;>
    simp only [takesWork, captureOk, fieldsOk] <;> decide +kernel
/-- The reissue after an emulation; T16 by T16, which it accepts, and an MLOAD with a FAULT. -/
theorem witness_MatrixTraps :
    (let s := st { c0 with mp := mpOf 17, iss := { c0.iss with emul := true } }
     Ready s [] ∧ s.core.iss.emul = true ∧ codeA s.core.mp = 17 ∧ codeB s.core.mp = 17 ∧ fieldsOk s.core.mp) ∧
    (let s := st (withE { Engine.reset with fault := true } (cf fur c0))
     Ready s [.x 2] ∧ (s.core.rf 3).init = true ∧ s.core.eng.fault = true ∧ s.core.iss.emul = false) := by
  refine ⟨⟨ready_of _ _ rfl rfl, rfl, by decide +kernel, by decide +kernel, ?_⟩, ready_of _ _ rfl rfl, rfl, rfl, rfl⟩
  simp only [fieldsOk]; decide +kernel
theorem witness_BankMoves :
    (let m : Word := 15
     dSel m = false ∧ numbers (fmtKind (dFmt m)) = true ∧ dScale m = 0 ∧ ¬ fmtKind (dFmt m) = .flt .t16 ∧ bankWf Bank.reset ∧
     tagCarries (cv.rv 1).tag ∧ (cv.rv 1).tag.fmt ≠ fmtRaw ∧ ¬ (cv.rv 1).kind = .flt .t16) ∧
    (dSel (BitVec.ofNat 64 (2 ^ 13)) = true ∧ ((withV 1 ⟨0, ⟨4, 0, false⟩⟩ cv).rv 1).tag.fmt = 4) ∧
    (accOf (dAcc (BitVec.ofNat 64 (5 * 2 ^ 14))) = some .i32 ∧ accOf (dAcc (BitVec.ofNat 64 (16 * 2 ^ 14))) = some .f64) ∧
    ∀ e srcs, Ready (se e) srcs := by
  refine ⟨?_, by decide +kernel, by decide +kernel, fun e srcs => ready_of _ srcs rfl rfl⟩; simp only [bankWf, tagCarries]; decide +kernel
theorem witness_ControlMicrowords :
    runsWith (eRun 14) (mpOf 14) ∧ (eRun 14).sub = 0 ∧ accOfMp (mpOf 14) = some (128, .f32) ∧
    { eRun 14 with sub := 1 }.sub ≠ 0 ∧ stageFree (eRun 14) (stageOf (eRun 14) .other) ∧ (eRun 14).load = none ∧
    (levelOf (eRun 14) 1 = none ∧ countOfMp (mpOf 14) (.imm 65535) ≠ 0 ∧ countOfMp (mpOf 14) (.arg 11) = 0 ∧ (4095 : Fin 4096).val ≠ 0) ∧
    (∀ lc, let e := { eRun 14 with lv1 := some ⟨lc, 3, 4030, 4033, 1, -1, true⟩ }
      ∃ l, levelOf e 1 = some l ∧ l.e = e.ix ∧ (l.lc + 1 < l.n ↔ lc + 1 < 3)) :=
  ⟨⟨0, rfl⟩, rfl, by decide +kernel, by decide, (fun _ h => nomatch (show none = some _ from h)), rfl, by decide +kernel,
    fun _ => ⟨_, rfl, rfl, Iff.rfl⟩⟩
/-- The last block of a store that fits S exactly, a furrow slot of a whole stage, and a load all of whose bytes are read. -/
theorem witness_StageLoads :
    (runsWith (eRun 14) (mpOf 14) ∧ ¬ withheldBy (eRun 14) .always ∧ (eRun 14).load = none ∧
      loadFrom (mpOf 14) 15 + stageBytes (mpOf 14) ≤ s0.core.scrlim ∧ (0 : Int) ≤ ((4095 : Fin 4096).val : Int) + (eRun 14).koff) ∧
    (let r := { fur with slotsz := 16384 }
     r.init = true ∧ r.cons = 0 ∧ r.slotsz = stageBytes (mpOf 14) ∧ 0 < r.filled ∧ r.count ≠ 0) ∧
    (∃ l : BLoad, { eRun 14 with load := some l }.load = some l ∧ l.size ≤ 32 * l.done ∧ l.furrow = none) ∧
    ∃ l : BLoad, { eRun 14 with load := some l }.load = some l ∧ l.size ≤ 32 * l.done ∧ l.furrow = some 3 :=
  ⟨⟨⟨0, rfl⟩, id, rfl, by decide +kernel, by decide +kernel⟩, by decide +kernel, ⟨⟨0, 0, 16384, 512, [], false, none⟩, rfl, by decide, rfl⟩,
    ⟨⟨1, 0, 16384, 512, [], false, some 3⟩, rfl, by decide, rfl⟩⟩
/-- A block before the first and one beyond the last; a load in flight; a withheld BLD; a store that ends beyond S; the furrow that ARG3
names: not initialised, of another use, of another slot size, empty; and the first 256 bytes of a load. -/
theorem witness_StageFaults :
    ((0 : Int) + ({ eRun 14 with koff := -1 } : Engine).koff < 0 ∧ 4095 < (4095 : Int) + ({ eRun 14 with koff := 1 } : Engine).koff) ∧
    (∃ l, ({ eRun 14 with load := some l } : Engine).load ≠ none) ∧
    withheldBy { eRun 14 with lv0 := some ⟨2, 3, 4030, 4033, 0, 0, false⟩ } (.last 0) ∧
    262144 < loadFrom (mpOf 14) 16 + stageBytes (mpOf 14) ∧
    loadFurrow (setAt (mpOf 14) (4 : Fin 8) (BitVec.ofNat 64 (3 * 2 ^ 48))) .arg = some 3 ∧
    ((c0.rf 3).init = false ∧ { fur with cons := 2 }.cons ≠ 0 ∧ { fur with cons := 2 }.cons ≠ 3 ∧ fur.slotsz ≠ stageBytes (mpOf 14) ∧
      { fur with slotsz := 16384, filled := 0 }.filled = 0) ∧
    ∃ l : BLoad, (withE { eRun 14 with load := some l } c0).eng.load = some l ∧ 32 * l.done ≤ l.size ∧ l.size % 256 = 0 ∧ l.done % 8 = 0 ∧
      32 * l.done ≠ l.size :=
  ⟨by decide +kernel, ⟨⟨0, 0, 16384, 0, [], false, none⟩, fun h => nomatch h⟩, ⟨_, rfl, rfl⟩, by decide +kernel, by decide +kernel, by decide +kernel,
    ⟨⟨0, 0, 16384, 504, [], false, none⟩, rfl, by decide, by decide, by decide, by decide⟩⟩
/-- A convolution of one by one. -/
def mpConv : Vector Word 8 :=
  let m := setAt (mpOf 14) (0 : Fin 8) (BitVec.ofNat 64 (14 * 2 ^ 38 + 2 ^ 51))
  setAt (setAt m (1 : Fin 8) (BitVec.ofNat 64 (1 + 2 ^ 12 + 2 ^ 24))) (2 : Fin 8) (BitVec.ofNat 64 (2 ^ 8))
/-- A row of A that fits S, one that does not, with and without a convolution; a rounding selector that names no mode; a count of 257. -/
theorem witness_EngineOperands :
    (accOfMp (mpOf 14) = some (128, .f32) ∧ ¬ bitField ((mpOf 14).get 0) 51 1 = 1 ∧
      bitField ((mpOf 14).get 0) 0 19 + 255 * bitField ((mpOf 14).get 0) 19 19 + 1023 * kBlock (aFmtOf (mpOf 14)) + kBlock (aFmtOf (mpOf 14)) ≤ 262144 ∧
      262144 < bitField ((mpOf 14).get 0) 0 19 + 255 * bitField ((mpOf 14).get 0) 19 19 + 1024 * kBlock (aFmtOf (mpOf 14)) + kBlock (aFmtOf (mpOf 14))) ∧
    (accOfMp mpConv = some (128, .f32) ∧ bitField (mpConv.get 0) 51 1 = 1 ∧ unfolds mpConv 0 0 = some 0 ∧ unfolds mpConv 0 1 = none ∧
      (activationAt mpConv 0).1 + (activationAt mpConv 0).2 = 2) ∧
    (let c := { c0 with scrlim := 0 }
     c.aRow ⟨mpOf 14⟩ 0 0 = none ∧ (eRun 14).sub = 0 ∧ cellTakes .mad (mpOf 14)) ∧
    modeOfMp (setAt (mpOf 14) (4 : Fin 8) (BitVec.ofNat 64 (7 * 2 ^ 32))) .arg = none ∧
    256 < countOfMp (setAt (mpOf 14) (4 : Fin 8) 257) (.arg 0) := by
  refine ⟨by decide +kernel, by decide +kernel, ⟨by decide +kernel, rfl, Or.inl rfl⟩, by decide +kernel, by decide +kernel⟩
/-- The last row of the bank in its one cycle, and the second cycle of ADA on I8; then the three faults. -/
theorem witness_CellOperations :
    (let x : Cell := ⟨.mode .rne, .always, .imm 2, 254, 0⟩
     let e := { eRun 14 with row := 1 }
     let c := withE e c0
     runsWith e (mpOf 14) ∧ accOfMp (mpOf 14) = some (128, .f32) ∧ cellForm .f32 (.mad x) = some (.mad, x, 1) ∧ ¬ withheldBy e x.skip ∧
     cellTakes .mad (mpOf 14) ∧ e.work.fmt = .f32 ∧ bankWf e.work ∧ stageFree e e.bact ∧ countOfMp (mpOf 14) x.cnt = 2 ∧ e.row < 2 ∧
     modeOfMp (mpOf 14) x.rm = some .rne ∧ (x.row0.val : Int) + e.roff + e.row = 255 ∧ (x.kb.val : Int) + e.koff = 0 ∧ 1 ≤ e.sub + 1 ∧
     e.sub = 0 ∧ ∃ arow bad, c.aRow ⟨mpOf 14⟩ 255 0 = some (arow, bad)) ∧
    (let x : Cell := ⟨.arg, .last 0, .imm 1, 0, 4095⟩
     let e := { eRun 1 with sub := 1, arow := [1], abad := true, work := { Bank.reset with fmt := .i32 } }
     runsWith e (mpOf 1) ∧ accOfMp (mpOf 1) = some (256, .i32) ∧ cellForm .i32 (.ada x) = some (.ada, x, 2) ∧ ¬ withheldBy e x.skip ∧
     cellTakes .ada (mpOf 1) ∧ e.work.fmt = .i32 ∧ bankWf e.work ∧ stageFree e e.bact ∧ modeOfMp (mpOf 1) x.rm = some .rne ∧
     (x.kb.val : Int) + e.koff ≤ 4095 ∧ 2 ≤ e.sub + 1 ∧ e.arow = [1] ∧ e.abad = true) ∧
    ¬ cellTakes .ada (mpOf 13) ∧ ({ eRun 14 with work := { Bank.reset with fmt := .i32 } }.work.fmt ≠ .f32) ∧
    (let e := { eRun 14 with roff := -1 }
     ((0 : Fin 256).val : Int) + e.roff + e.row < 0 ∧ stageFree e e.bact) ∧
    (256 : Int) ≤ ((255 : Fin 256).val : Int) + 1 + (eRun 14).row := by
  refine ⟨⟨⟨0, rfl⟩, by decide +kernel, rfl, id, Or.inl rfl, rfl, ?_, (fun _ h => nomatch (show none = some _ from h)), by decide +kernel,
    by decide, rfl, by decide, by decide, by decide, rfl, ?_⟩, ⟨⟨0, rfl⟩, by decide +kernel, rfl, ?_, ?_, rfl, ?_,
    (fun _ h => nomatch (show none = some _ from h)), by decide +kernel, by decide +kernel, by decide, rfl, rfl⟩, ?_, by decide +kernel,
    ⟨by decide +kernel, (fun _ h => nomatch (show none = some _ from h))⟩, by decide +kernel⟩
  · exact ⟨by decide, by decide⟩
  · cases h : (withE { eRun 14 with row := 1 } c0).aRow ⟨mpOf 14⟩ 255 0 with
    | some r => exact ⟨r.1, r.2, rfl⟩
    | none => exact absurd h (by decide +kernel)
  · rintro ⟨l, h, -⟩
    exact nomatch (show none = some l from h)
  · simp only [cellTakes]; decide +kernel
  · exact ⟨by decide, by decide⟩
  · simp only [cellTakes]; decide +kernel
/-- The first index an entry may name, one below it, and an entry that is not valid; the first and the last copy of a load. -/
theorem witness_WorkStartAndStoreLoad :
    (∀ v, let e := { eRun 14 with wait := 9, store := [(0, BitVec.ofNat 128 (2 ^ 15 + v))] }
      e.active = some (.routine 0 (mpOf 14)) ∧ e.wait = 9) ∧
    (let w (v : Nat) := (sparseGet (0 : Microword) [(0, BitVec.ofNat 128 v)] ((0 : Fin 256).val / 8)).toNat / 2 ^ (16 * ((0 : Fin 256).val % 8)) % 2 ^ 16
     2 ^ 15 ≤ w (2 ^ 15 + 32) ∧ w (2 ^ 15 + 32) / 2 ^ 12 % 8 = 0 ∧ 32 ≤ w (2 ^ 15 + 32) % 2 ^ 12 ∧ w (2 ^ 15 + 31) % 2 ^ 12 < 32 ∧ w 32 < 2 ^ 15 ∧
     w (2 ^ 15 + 2 ^ 12 + 32) / 2 ^ 12 % 8 ≠ 0) ∧
    (∀ written, { Engine.reset with active := some (.load 3 0 64 written) }.active = some (.load 3 0 64 written)) ∧
    0 < ((cf fur c0).rf 3).filled ∧ ((cf fur c0).rf 3).count ≠ 0 ∧ 0 + min 8 (64 - 0) < 64 ∧ ¬ 56 + min 8 (64 - 56) < 64 :=
  ⟨fun _ => ⟨rfl, rfl⟩, by decide +kernel, fun _ => rfl, by decide +kernel, by decide +kernel, by decide, by decide⟩
theorem witness_MatrixRegisters : ∀ srcs, Ready (st { c0 with mp := mpOf 14 }) srcs := fun srcs => ready_of _ srcs rfl rfl

/-! ### Object, synchronising and system syllables -/

/-- An entry: format, rank, LIVE, dimensions; valid, generation 1, owned by plot 9 with every right. -/
def ent (fmt rank : Nat) (live : Bool) (dims : List Nat) : BitVec 1024 :=
  BitVec.ofNat 1024 (1 + 2 ^ 14 + rank * 2 ^ 15 + fmt * 2 ^ 18 + (if live then 2 ^ 32 else 0) + 127 * 2 ^ 640 + 9 * 2 ^ 654 +
    (dims.zipIdx.map fun d => d.1 * 2 ^ (64 + 32 * d.2)).sum)
def v0 : Ver := ⟨0, .current, 0, [], none⟩
/-- A line of 8 N64 words; a LIVE I32 matrix of 4 by 256; a VERSIONED F32 vector with version 4 current; a LIVE F32 vector. -/
def oLine : Obj := ⟨0, 1, ent 8 1 true [8], [v0], [], [], [], [], none⟩
def oMat : Obj := ⟨0, 2, ent 5 2 true [4, 256], [v0], [], [], [], [], none⟩
def oVer : Obj := ⟨0, 3, ent 15 1 false [256] + BitVec.ofNat 1024 (4 * 2 ^ 768), [⟨4, .current, 0, [], none⟩], [], [], [], [], none⟩
def oFlt : Obj := ⟨0, 4, ent 15 1 true [256], [v0], [], [], [], [], none⟩
/-- A template of a TASKSET of weight 1; the same for SOW, with oLine as its ballot. -/
def tmpl : Nat := 3 + 2 ^ 16 + 2 ^ 928
def tmplS : Nat := tmpl + (mkHandle 0 1 1).toNat * 2 ^ 832
def oTmp (t : Nat) : Obj := ⟨0, 6, ent 2 1 true [256], [{ v0 with data := memPut [] 0 (toBytes 256 t) }], [], [], [], [], none⟩
/-- An open h-register of an object. -/
def hOf (index : Nat) (w : Bool) (ver : BitVec 32) : HReg := ⟨mkHandle 0 index 1, true, w, 127, ver, none⟩
/-- h1 to h4: oLine, oMat, oVer read without a pin, oVer written; h5 closed; h6 oVer with version 4 pinned; h7 oFlt; h8 the template. -/
def co : Core :=
  let hs := Vector.replicate 16 HReg.closed
  let hs := setAt (setAt (setAt (setAt hs (1 : Fin 16) (hOf 1 true 0)) (2 : Fin 16) (hOf 2 true 0)) (3 : Fin 16) (hOf 3 false 0xFFFFFFFF))
    (4 : Fin 16) (hOf 3 true 5)
  let hs := setAt (setAt (setAt hs (6 : Fin 16) (hOf 3 false 4)) (7 : Fin 16) (hOf 4 true 0)) (8 : Fin 16) (hOf 6 false 0)
  cf fur { c0 with h := hs, q := setAt c0.q (1 : Fin 16) (.outstanding 9 1 false none) }
/-- The task's TASKSET 1 under the ROOT 9. -/
def me : Plot := ⟨1, BitVec.ofNat 2048 (3 + 2 ^ 4 + 2 ^ 16 + 9 * 2 ^ 96 + 4 * 2 ^ 928), 0, false, [], none, false, none⟩
def root : Plot := ⟨9, BitVec.ofNat 2048 (2 ^ 16 + 2 ^ 48), 0, false, [], none, false, none⟩
/-- A sibling group 9 in the place of the ROOT. -/
def sibG : Plot := ⟨9, BitVec.ofNat 2048 (2 + 2 ^ 16 + 2 * 2 ^ 1088 + 2 * 2 ^ 1095), 0, false, [], none, false, none⟩
def so (c : Core) : State := { st c with objs := [oLine, oMat, oVer, oFlt, oTmp tmpl], plots := [me, root], nextPlot := 10 }

theorem test_open_closed_only : nextCore (exec (.openH false 1 0 ⟨0, 0⟩) (so co)) (trapsAs .objRights) = true := by decide +kernel
theorem test_open_names_slot : nextCore (exec (.openH false 5 0 ⟨2, 3⟩) (so co)) (fun c =>
    decide (.named 2 (.outstanding 4 1 false none) ∈ c.endFx)) = true := by decide +kernel
theorem test_fetch_claims : nextCore (exec (.fetch .plain ⟨2, 0, 5⟩ 3) (so co)) (fun c =>
    decide ((c.rf 3).claims = [⟨1, 1, false⟩] ∧ (c.rf 3).free = 0 ∧ (c.rf 3).tail = 0)) = true := by decide +kernel
theorem test_store_takes : nextCore (exec (.store false ⟨2, 0, 5⟩ 3) (so co)) (fun c =>
    decide ((c.rf 3).taken = [⟨1, 0, false⟩] ∧ (c.rf 3).filled = 0 ∧ (c.rf 3).head = 1)) = true := by decide +kernel
theorem test_fetch_wrong_size : nextCore (exec (.fetch .plain ⟨2, 0, 4⟩ 3) (so co)) (trapsAs .furrowConfig) = true := by decide +kernel
theorem test_atom_wrong_format : nextCore (exec (.atom .add .rlx .core 7 0 ⟨0, 0⟩) (so co)) (trapsAs .formatMismatch) = true := by decide +kernel
theorem test_atom_beyond : nextCore (exec (.atom .add .rlx .core 1 2 ⟨0, 0⟩) (so (withX 2 8 co))) (trapsAs .objBounds) = true := by decide +kernel
theorem test_fpush_too_many : nextCore (exec (.fpush 3 2) (so (withX 2 3 co))) (trapsAs .furrowConfig) = true := by decide +kernel
theorem test_spawn_zero : nextCore (exec (.spawn 8 0 ⟨0, 0⟩) (so co)) (fun c => decide (c.out = .performed)) = true := by decide +kernel

/-- A task of one request has room for more, and a slot is free unless it is outstanding without its word. -/
theorem idle_so (c : Core) : (∀ srcs, c.iss.guard = true → c.inflight = [] → Ready (so c) srcs) ∧ objectRoom (so c) ∧ yRoom (so c) :=
  ⟨fun srcs hg hf => ready_idle _ _ hg hf, by simp [objectRoom, ownRequests, so, st, State.reset], by simp [yRoom, so, st, State.reset]⟩
theorem slot_so (c : Core) (u : Due) (h : c.rq u.q = .empty) : slotFree (so c) u := fun _ _ _ e => nomatch h.symm.trans e

theorem witness_ObjectRequests :
    (∀ h, ((so co).core.rh h).due = none) ∧ slotFree (so co) ⟨0, 255⟩ ∧ ((so co).core.rh 5).opened = false ∧ ((so co).core.rh 1).opened = true ∧
    opens (so co) 1 [6] oLine ∧ (opens (so co) 3 [0] oVer ∧ oVer.live = false ∧ ((so co).core.rh 3).write = false) ∧
    (opens (so co) 4 [3] oVer ∧ ((so co).core.rh 4).write = true) ∧
    (opens (so co) 6 [] oVer ∧ ((so co).core.rh 6).write = false ∧ ((so co).core.rh 6).ver ≠ 0xFFFFFFFF) ∧
    (let a := ((so (withA 2 262112 co)).core.ra 2).toNat
     a % 32 = 0 ∧ a + 32 ≤ (so co).core.scrlim) := by
  refine ⟨by decide +kernel, slot_so _ _ (by decide +kernel), by decide +kernel, by decide +kernel, ?_, ?_, ?_, ?_, by decide +kernel⟩ <;>
    simp only [opens] <;> decide +kernel
/-- The last element of the matrix; a row list of one row at the end of scratch. -/
theorem witness_TileTransfers :
    (let s := so (withA 1 3 (withA 2 255 co))
     let x : Tile := ⟨2, 1, 5⟩
     opens s x.h [1] oMat ∧ opens s x.h [0] oMat ∧ writesBy (s.core.rh x.h) oMat ∧ readsBy (s.core.rh x.h) oMat ∧ tileIn s x oMat ∧
     slotFits (s.core.rf 3) x oMat ∧ (s.core.rf 3).cons = 0 ∧ 0 < (s.core.rf 3).filled ∧ (s.core.rf 3).prod = 0 ∧ 0 < (s.core.rf 3).free) ∧
    (let s := so (withA 2 255 (withA 3 262140 co))
     listOk s ⟨2, 1, 5⟩ oMat) := by
  refine ⟨?_, ?_⟩ <;> simp only [opens, writesBy, readsBy, tileIn, slotFits, listOk] <;> decide +kernel
/-- A push map whose entry for core 5, furrow 3 has one free slot left. -/
theorem witness_TileRequests :
    (let s := so co
     let x : Tile := ⟨2, 1, 5⟩
     opens s x.h [4] oMat ∧ opens s x.h [5, 1] oMat ∧ oMat.live = true ∧ slotFree s ⟨0, 0⟩ ∧ tileIn s x oMat ∧
     writesBy (s.core.rh x.h) oMat ∧ readsBy (s.core.rh x.h) oMat ∧ slotFits (s.core.rf 3) x oMat ∧ fmtKind oMat.fmt ≠ .flt .t16) ∧
    (∀ w, (so { co with q := setAt co.q (0 : Fin 16) (.landed w true) }).core.rq 0 = .landed w true) ∧
    (let e : PushEntry := ⟨5, 3, 1024, 2, 1, 8, false⟩
     let s := so (withA 2 (BitVec.ofNat 64 (5 + 512 * 3)) { co with pushMap := [e] })
     let v := (s.core.ra 2).toNat
     v < 2 ^ 14 ∧ v % 512 < 384 ∧ (s.core.rf 3).init = true ∧ (s.core.rf 3).cons = 0 ∧ 0 < (s.core.rf 3).filled ∧ 0 < (s.core.rf 3).count ∧
     s.core.pushMap.find? (fun m => m.core = v % 512 && m.furrow = v / 512) = some e ∧ 0 < e.free ∧ e.ended = false) := by
  refine ⟨?_, fun w => rfl, by decide +kernel⟩
  dsimp only
  refine ⟨?_, ?_, by decide +kernel, slot_so _ _ (by decide +kernel), ?_, ?_, ?_, ?_, by decide +kernel⟩ <;>
    simp only [opens, writesBy, readsBy, tileIn, slotFits] <;> decide +kernel
/-- A closed register, an open one for OPEN, a slot outstanding; the three causes of a tile; the four of a synchronising syllable. -/
theorem witness_RequestTraps :
    (((so co).core.rh 5).opened = false ∧ ((so co).core.rh 1).opened = true ∧ opens (so co) 1 [0] oLine ∧ oLine.live = true ∧
      (so co).core.rq 1 = .outstanding 9 1 false none) ∧
    (tileTrap (so co) ⟨3, 0, 5⟩ fur false oVer .version ∧ tileTrap (so (withA 0 4 co)) ⟨2, 0, 5⟩ fur true oMat .objBounds ∧
      tileTrap (so co) ⟨2, 0, 4⟩ fur true oMat .furrowConfig ∧ (0 : Nat) + oMat.rank ≤ 16) ∧
    (∃ i h a k right u sc op, syncForm (so co) i = some (h, a, k, right, u, sc, op) ∧ opens (so co) h [right] oVer ∧ oVer.live = false) ∧
    (∃ i h a k right u sc op, syncForm (so co) i = some (h, a, k, right, u, sc, op) ∧ opens (so co) h [right] oFlt ∧ oFlt.live = true ∧
      ¬ syncShape oFlt) ∧
    (let s := so (withX 2 8 co)
     ∃ i h a k right u sc op, syncForm s i = some (h, a, k, right, u, sc, op) ∧ opens s h [right] oLine ∧ syncShape oLine ∧
      oLine.count ≤ (s.core.rx a).toNat) := by
  refine ⟨?_, ?_, ⟨.ldsync true .core 3 2 ⟨0, 0⟩, _, _, _, _, _, _, _, rfl, ?_⟩, ⟨.red .add false .core 7 2, _, _, _, _, _, _, _, rfl, ?_, ?_, ?_⟩,
    ⟨.stsync true .core 1 2, _, _, _, _, _, _, _, rfl, ?_, ?_, ?_⟩⟩
  · simp only [opens]; decide +kernel
  · have h1 : ¬ readsBy ((so co).core.rh 3) oVer := by simp only [readsBy]; decide +kernel
    have h2 : writesBy ((so (withA 0 4 co)).core.rh 2) oMat := Or.inl (by decide +kernel)
    have h3 : ¬ tileIn (so (withA 0 4 co)) ⟨2, 0, 5⟩ oMat := by simp only [tileIn]; decide +kernel
    have h4 : writesBy ((so co).core.rh 2) oMat := Or.inl (by decide +kernel)
    have h5 : tileIn (so co) ⟨2, 0, 4⟩ oMat := by simp only [tileIn]; decide +kernel
    exact ⟨Or.inl ⟨rfl, h1⟩, Or.inr (Or.inl ⟨rfl, h2, h3⟩), Or.inr (Or.inr ⟨rfl, h4, h5, Or.inr (Or.inr (Or.inl (by decide +kernel)))⟩),
      by decide +kernel⟩
  · simp only [opens]; decide +kernel
  · simp only [opens]; decide +kernel
  · decide +kernel
  · rintro ⟨-, -, sg, n, h, -⟩
    rw [show fmtKind oFlt.fmt = .flt .f32 by decide +kernel] at h
    exact nomatch h
  · simp only [opens]; decide +kernel
  · exact ⟨by decide +kernel, by decide +kernel, false, 8, by decide +kernel, Or.inr rfl⟩
  · decide +kernel
/-- A barrier syllable on a VERSIONED object and on a matrix, BREAD on either; BPOST of an object that is not the group's ballot, and of a
ballot of another shape. -/
theorem witness_BarrierTraps :
    (∃ i h srcs right u sc op ev, barForm (so co) i = some (h, srcs, right, u, sc, op, ev) ∧ opens (so co) h [right] oVer ∧ oVer.live = false ∧
      op ≠ .bread) ∧
    (∃ i h srcs right u sc op ev, barForm (so co) i = some (h, srcs, right, u, sc, op, ev) ∧ opens (so co) h [right] oFlt ∧ oFlt.live = true ∧
      ¬ lineOk oFlt) ∧
    (∃ i h srcs right u sc op ev, barForm (so co) i = some (h, srcs, right, u, sc, op, ev) ∧ opens (so co) h [right] oFlt ∧ op = .bread) ∧
    (me.ballot ≠ ((so co).core.rh 1).handle) ∧
    (let s := { so co with plots := [{ me with desc := me.desc + BitVec.ofNat 2048 ((hOf 4 true 0).handle.toNat * 2 ^ 832) }] }
     ∃ p, s.plotAt t0.plot = some p ∧ p.ballot = (s.core.rh 7).handle ∧ opens s 7 [2] oFlt ∧ ¬ lineOk oFlt) := by
  have hl : ¬ lineOk oFlt := by simp only [lineOk]; decide +kernel
  refine ⟨⟨.barr .die 3, _, _, _, _, _, _, _, rfl, ?_, by decide +kernel, by decide⟩, ⟨.barr .die 7, _, _, _, _, _, _, _, rfl, ?_, by decide +kernel,
    hl⟩, ⟨.bread 7 ⟨0, 0⟩, _, _, _, _, _, _, _, rfl, ?_, rfl⟩, by decide +kernel, ⟨_, rfl, by decide +kernel, ?_, hl⟩⟩ <;>
    simp only [opens] <;> decide +kernel
/-- A syllable under a false guard, and under one that awaits a result. -/
theorem witness_FalseGuards :
    (isSyllable (.add 63 63 63) ∧ (Instr.add 63 63 63).isTransfer = false ∧ movesFurrow (.add 63 63 63) = false ∧ Instr.add 63 63 63 ≠ .nop) ∧
    guardOff sOff ∧
    (let s := st { c0 with iss := { c0.iss with guard := false, gp := 3, flying := 1 }, inflight := [⟨9, .p 3 true⟩] }
     s.core.iss.guard = false ∧ s.core.sbchk = true ∧ s.core.pending (.p s.core.iss.gp.val) = true) :=
  ⟨⟨⟨.s, ⟨15, true⟩, _, rfl⟩, rfl, rfl, by decide⟩, guardOff_sOff, rfl, rfl, by decide +kernel⟩
theorem witness_SystemSyllables :
    (∀ w b, (so { co with q := setAt co.q (0 : Fin 16) (.landed w b) }).core.rq 0 = .landed w b) ∧ slotFree (so co) ⟨0, 0⟩ ∧
    ∀ srcs, Ready (so co) srcs := ⟨fun _ _ => rfl, slot_so _ _ (by decide +kernel), fun srcs => (idle_so co).1 srcs rfl rfl⟩
/-- All slots free and all filled, none and too many. -/
theorem witness_FurrowInstructions :
    (let s := so co
     (s.core.rf 3).decl = true ∧ (s.core.rf 3).init = true ∧ (s.core.rf 3).remote = false ∧ s.furrowUsed 3 = false ∧ (s.core.rf 4).decl = false ∧
     (s.core.rf 4).init = false ∧ (s.core.rx 0).toNat = 0) ∧
    (let s := so (withX 2 1 co)
     (s.core.rx 2).toNat ≤ (s.core.rf 3).count ∧ 0 < (s.core.rx 2).toNat ∧ (s.core.rf 3).prod = 0 ∧ (s.core.rx 2).toNat ≤ (s.core.rf 3).free ∧
     (s.core.rf 3).cons = 0 ∧ (s.core.rx 2).toNat ≤ (s.core.rf 3).filled) ∧
    (let s := so (withX 2 3 co)
     (s.core.rf 3).count < (s.core.rx 2).toNat) := by decide +kernel
/-- The last element of the line; the task of a ballot's sibling; the last word of a descriptor and one beyond. -/
theorem witness_SyncRequests :
    (let s := so (withX 2 7 co)
     (∃ i h a k right u sc op, syncForm s i = some (h, a, k, right, u, sc, op) ∧ opens s h [right] oLine ∧ syncShape oLine ∧
       (s.core.rx a).toNat < oLine.count ∧ (s.core.rh h).due = none) ∧
     ∃ i h srcs right u sc op ev, barForm s i = some (h, srcs, right, u, sc, op, ev) ∧ opens s h [right] oLine ∧ lineOk oLine) ∧
    (let s := { so co with plots := [{ me with desc := me.desc + BitVec.ofNat 2048 ((hOf 1 true 0).handle.toNat * 2 ^ 832) }] }
     s.core.task = some t0 ∧ ∃ p, s.plotAt t0.plot = some p ∧ p.ballot = (s.core.rh 1).handle) ∧
    ((95 : Nat) < 128 ∧ 95 / 32 < 3 ∧ ¬ (96 / 32 < 3)) ∧ yRoom (so co) ∧ slotFree (so co) ⟨0, 0⟩ := by
  refine ⟨⟨⟨.atom .cas .rlx .core 1 2 ⟨0, 0⟩, _, _, _, _, _, _, _, rfl, ?_, ?_, ?_, ?_⟩, ⟨.barr .die 1, _, _, _, _, _, _, _, rfl, ?_, ?_⟩⟩,
    ⟨rfl, _, rfl, ?_⟩, by decide, (idle_so co).2.2, slot_so _ _ (by decide +kernel)⟩
  · simp only [opens]; decide +kernel
  · exact ⟨by decide +kernel, by decide +kernel, false, 8, by decide +kernel, Or.inr rfl⟩
  · decide +kernel
  · decide +kernel
  · simp only [opens]; decide +kernel
  · simp only [lineOk]; decide +kernel
  · decide +kernel
/-- A request of the task, the only one, on the object of a table index. -/
def rqOf (op : ReqOp) (reg : HReg) (index : Nat) (phase : ReqPhase) : Req :=
  ⟨1, op, ⟨0, 0, 1, 0, 1⟩, 0, .c0, some 0, 3, reg, 0, index, 1, [], 1, 32, none, 0, .core, 0, 0, 0, phase, 0, false, 0, 0, 0, false, none⟩
/-- A call of service 1, alone and behind an acquire of its task. -/
def svcReq : Req := rqOf (.svc 0 [1, 0, 0, 0, 0, 0, 0, 0] 7) HReg.closed 0 .sent
def acqReq : Req := { rqOf (.ldsync true) (hOf 1 true 0) 1 .waiting with id := 0 }
theorem witness_ServiceCalls :
    ({ so co with reqs := [svcReq] }.mustWait svcReq = false ∧ { so co with reqs := [acqReq, svcReq] }.mustWait svcReq = true) ∧
    (∀ q ∈ (so co).reqs, q.id ≠ (so co).nextReq) ∧ (so co).core.task ≠ none ∧ yRoom (so co) ∧ slotFree (so co) ⟨0, 0⟩ ∧
    (((so (withX 8 1 co)).core.rx 8).toNat % 2 ^ 16, Instr.svcAllocx) ∈ [(1, Instr.svcAllocx), (2, .svcSpill)] ∧
    (((so (withX 8 2 co)).core.rx 8).toNat % 2 ^ 16, Instr.svcSpill) ∈ [(1, Instr.svcAllocx), (2, .svcSpill)] :=
  ⟨⟨by decide +kernel, by decide +kernel⟩, (fun _ h => nomatch h), by decide +kernel, (idle_so co).2.2, slot_so _ _ (by decide +kernel), by decide +kernel, by decide +kernel⟩
/-- A port that the ROOT has not bound. -/
theorem witness_UnboundPort :
    (so co).core.task = some t0 ∧ (so co).plotAt ((so co).rootOf t0.plot) = some root ∧ (∀ b ∈ root.ports, b.1 ≠ 2) ∧ ownRequests (so co) = [] :=
  ⟨rfl, by decide +kernel, (fun _ h => nomatch h), by simp [ownRequests, so, st, State.reset]⟩
/-- A full launch pool on die 0. -/
def full : Plot := ⟨1, 3, 0, false, [], some 0, false, none⟩
def sFull (w : Bool) : State := { so (withX 2 1 { co with spawnFull := w }) with plots := [me, root] ++ List.replicate 4096 full }
theorem witness_Launches :
    (opens (so co) 8 [0] (oTmp tmpl) ∧ templateOk (oTmp tmpl) ∧ launches (so co) me root ∧ (so co).plots.length < 2 ^ 31 ∧
      ((so co).core.rh 8).due = none) ∧
    (launches { so co with plots := [me, sibG] } me sibG ∧ sibG.kind = kindSib) ∧
    (root.kind ≠ kindSib ∧ (0 : Nat) < ((so (withX 2 1 co)).core.rx 2).toNat ∧
      (let d := templateOf (so co) 8 (oTmp tmpl)
       field d 0 4 = kindTaskset ∧ badDesc d (some root) false = false) ∧
      (so co).poolOver root.id 1 = false ∧ (so co).poolUsed ((so co).core.id / 48) < 4096) ∧
    (∀ w, 4096 ≤ (sFull w).poolUsed ((sFull w).core.id / 48) ∧ (sFull w).core.spawnFull = w) ∧
    (let s := { so (withX 2 64 co) with objs := [oLine, oTmp tmplS] }
     let d := templateOf s 8 (oTmp tmplS)
     let group : Plot := ⟨0, newDesc (sowGroup d 64 33) (some root) 0, 0, false, [], none, false, none⟩
     opens s 8 [0] (oTmp tmplS) ∧ me.level ≤ 6 ∧ field d 0 4 = kindTaskset ∧ badDesc (sowGroup d 64 33) (some root) true = false ∧
     badDesc d (some group) true = false ∧ s.objOf (BitVec.ofNat 64 (field d 832 64)) = some oLine ∧ lineOk oLine ∧
     (s.rightsOf oLine me.id).getLsbD 2 = true ∧ oLine.ballot = none ∧ s.poolOver root.id 64 = false ∧ group.lpool = 0 ∧
     s.poolUsed (s.core.id / 48) + 64 ≤ 4096 ∧ (2 : Nat) ≤ (s.core.rx 2).toNat ∧ (s.core.rx 2).toNat ≤ 64 ∧
     (s.core.rx (xPlus 2 1)).toNat ≤ (s.core.rx 2).toNat) := by
  refine ⟨⟨?_, ?_, ⟨⟨t0, rfl, rfl⟩, by decide +kernel⟩, ?_, ?_⟩, ⟨⟨⟨t0, rfl, rfl⟩, by decide +kernel⟩, by decide +kernel⟩, by decide +kernel, fun w => ⟨?_, rfl⟩, ?_⟩
  · simp only [opens]; decide +kernel
  · simp only [templateOk]; decide +kernel
  · decide +kernel
  · decide +kernel
  · have h : (fun p : Plot => decide (p.pool = some ((sFull w).core.id / 48))) full = true := by cases w <;> decide +kernel
    have e : (sFull w).plots = [me, root] ++ List.replicate 4096 full := rfl
    unfold State.poolUsed
    rw [e, List.filter_append, List.length_append, List.filter_replicate, if_pos h, List.length_replicate]
    exact Nat.le_add_left ..
  · simp only [opens, lineOk]; decide +kernel

/-- A template on an ABSENT page, whose resolution has failed or has not; one that is there. -/
theorem witness_Templates :
    (let o := { oTmp tmpl with pages := [⟨0, 0, 1, .absent, [], 0, 0, 0, false, false, false, false⟩] }
     ∀ w ∈ [none, some (⟨0, 6, 0, 0⟩, true)], let s := { so { co with tmplW := w } with objs := [o] }
       opens s 8 [0] o ∧ templateOk o ∧ templateAbsent s 8 o ⟨0, 6, 0, 0⟩ ∧ (s.core.tmplW = some (⟨0, 6, 0, 0⟩, true) ↔ w ≠ none)) ∧
    templateHere (so co) 8 (oTmp tmpl) := by
  refine ⟨fun w hw => ?_, fun p ⟨g, hg, _⟩ => ?_⟩
  · simp only [List.mem_cons, List.not_mem_nil, or_false] at hw
    rcases hw with rfl | rfl <;> refine ⟨?_, ?_, ⟨⟨0, 0, 1, .absent, [], 0, 0, 0, false, false, false, false⟩, by decide +kernel, rfl, by decide⟩, ?_⟩ <;>
      simp only [opens, templateOk] <;> decide +kernel
  · exact absurd (hg.symm.trans (show (oTmp tmpl).pageAt ((oTmp tmpl).verOf ((so co).core.rh 8)) 0 = none by decide +kernel)) (fun h => nomatch h)

/-! ### Results, landings and homes -/

/-- A state with one request of the task and the given objects. -/
def sr (objs : List Obj) (r : Req) : State := { so co with objs := objs, reqs := [r], subj := r.id, nextReq := 2 }

theorem test_writeback_later_wins : nextCore (exec .resultWriteback (st { c0 with inflight := [⟨0, .x 1 5⟩, ⟨0, .x 1 6⟩, ⟨1, .x 2 7⟩] }))
    (fun c => decide (c.rx 1 = 6 ∧ c.rx 2 = 0 ∧ c.inflight = [⟨1, .x 2 7⟩])) = true := by decide +kernel
theorem test_open_pins : (match exec .versionEvent (sr [oVer] (rqOf (.openH false) (hOf 3 false 0) 3 .sent)) with
    | .next t => t.objs.map Obj.pinc = [1] && (t.reqs.map (·.phase)) =
        [.answered ⟨BitVec.ofNat 64 (4 * 256), some (3, { hOf 3 false 4 with due := none })⟩]
    | _ => false) = true := by decide +kernel

/-- A slot named that holds an h-register's new state, and one that does not; a slot of a remote producer's furrow popped; MABORT. -/
theorem witness_WriteBack :
    (Memory.wf s0.core.scratch ∧ (∃ l, l < 4096)) ∧
    (∀ b : Bool, let l : Landing := ⟨5, if b then some (3, hOf 3 false 4) else none⟩
      let c := { co with q := setAt co.q (1 : Fin 16) (.outstanding 9 1 false (some l)), endFx := [.named 1 (.outstanding 12 2 false none)] }
      c.endFx = [.named 1 (.outstanding 12 2 false none)] ∧ c.rq 1 = .outstanding 9 1 false (some l) ∧ (l.hset = some (3, hOf 3 false 4) ↔ b = true)) ∧
    (let c := { cf { fur with remote := true, pbnd := true, pcore := 5 } co with endFx := [.release 3 1] }
     c.endFx = [.release 3 1] ∧ (c.rf 3).remote = true ∧ (c.rf 3).pbnd = true ∧ c.task = some t0 ∧ .mabort ∉ c.endFx ∧
     ∀ e ∈ c.endFx, ∀ q v, e ≠ .named q v) ∧
    .mabort ∈ { co with endFx := [.mabort] }.endFx := by
  refine ⟨⟨by decide +kernel, ⟨4095, by decide⟩⟩, fun b => ⟨rfl, rfl, by cases b <;> decide⟩, ⟨rfl, rfl, rfl, rfl, by decide, ?_⟩, by decide⟩
  intro e he q v
  obtain rfl := List.mem_singleton.mp he
  exact fun h => nomatch h
/-- OPEN of no object, of an object the party may not read, of a LIVE and of a VERSIONED one, for reading, for writing, and for writing
one that is being written; PIN and the last version that SUBSC passes; the first it waits for; PUBL; CLOSE and UNPIN of a pin. -/
theorem witness_VersionEvents :
    (let r := rqOf (.openH false) (hOf 3 false 0) 3 .sent
     Acts (sr [] r) r ∧ (sr [] r).objOf r.reg.handle = none ∧
     Acts (sr [oVer] r) r ∧ (sr [oVer] r).objOf r.reg.handle = some oVer ∧ ((sr [oVer] r).rightsOf oVer r.party.plot).getLsbD 0 = true ∧
     oVer.live = false ∧ oVer.pinc < 2 ^ 32 - 1 ∧ ({ sr [oVer] r with plots := [] }.rightsOf oVer r.party.plot).getLsbD 0 = false) ∧
    (let r := rqOf (.openH true) (hOf 1 false 0) 1 .sent
     Acts (sr [oLine] r) r ∧ (sr [oLine] r).objOf r.reg.handle = some oLine ∧ oLine.live = true ∧
     ((sr [oLine] r).rightsOf oLine r.party.plot).getLsbD 1 = true) ∧
    (let r := rqOf (.openH true) (hOf 3 false 0) 3 .sent
     Acts (sr [oVer] r) r ∧ ((sr [oVer] r).rightsOf oVer r.party.plot).getLsbD 1 = true ∧ oVer.curv < 2 ^ 32 - 2 ∧ oVer.pwrt = 0 ∧
     (oVer.setPwrt 1).pwrt ≠ 0 ∧ (sr [oVer.setPwrt 1] r).objOf r.reg.handle = some (oVer.setPwrt 1)) ∧
    (let r := rqOf .pin (hOf 3 false 0xFFFFFFFF) 3 .sent
     Acts (sr [oVer] r) r ∧ (sr [oVer] r).objAt r.home r.index = some oVer ∧ oVer.gen = r.gen ∧ r.reg.ver = 0xFFFFFFFF ∧ oVer.curv < 2 ^ 32 - 1) ∧
    (∀ x, let r := rqOf (.subsc x) (hOf 3 false 0xFFFFFFFF) 3 .sent
      (sr [oVer] r).req = some r ∧ r.phase = .sent ∧ (x.toNat < oVer.curv ↔ x.toNat < 4) ∧ (oVer.curv ≤ x.toNat ↔ 4 ≤ x.toNat)) ∧
    (let r := rqOf .publ (hOf 3 true 5) 3 .sent
     Acts (sr [oVer] r) r ∧ r.reg.ver.toNat < 2 ^ 32 - 2 ∧ (sr [oVer] r).reqs.Pairwise (fun a b => a.id ≠ b.id)) ∧
    (let o := oVer.setE 832 32 1
     let r := rqOf .close (hOf 3 false 4) 3 .sent
     Acts (sr [o] r) r ∧ r.home = handleHome r.reg.handle ∧ r.index = handleIndex r.reg.handle ∧ r.reg.opened = true ∧ r.reg.write = false ∧
     o.live = false ∧ o.valid = true ∧ r.reg.ver.toNat = o.curv ∧ r.reg.ver ≠ 0xFFFFFFFF ∧ 0 < o.pinc) ∧
    (let r := rqOf (.subsc 4) (hOf 3 false 0xFFFFFFFF) 3 .waiting
     Named (sr [oVer] r) r ∧ r.phase = .waiting) := by
  have hc : oVer.curv = 4 := by decide +kernel
  refine ⟨?_, ?_, ?_, ?_, fun x => ⟨rfl, rfl, by rw [hc], by rw [hc]⟩, ?_, ?_, ?_⟩ <;> simp only [Acts, Named] <;> decide +kernel
/-- A word for an outstanding slot; the bytes of the first claim of a furrow with another behind it. -/
theorem witness_LandingsAndFills :
    (let r := { rqOf (.info .form 0) (hOf 1 true 0) 1 (.answered ⟨5, none⟩) with q := some 1 }
     let s := sr [oLine] r
     Named s r ∧ r.q = some 1 ∧ isCurrent s r.party ∧ s.core.rq 1 = .outstanding 9 r.id false none ∧ r.arr = 0) ∧
    (let r := { rqOf .freeze (hOf 2 true 0) 2 (.answered ⟨5, none⟩) with q := some 1, arr := 1 }
     let e : Event := ⟨1, 0, .thawCompleteMsg 0 3⟩
     let s := { sr [oMat] r with agenda := [e] }
     Named s r ∧ r.q = some 1 ∧ r.arr ≠ 0 ∧ e ∈ s.agenda ∧ e.instr = .thawCompleteMsg r.core 3 ∧ isCurrent s r.party ∧
     s.core.rq 1 = .outstanding 9 r.id false none ∧ ∀ e ∈ (sr [oMat] r).agenda, ∀ n, e.instr ≠ .thawCompleteMsg r.core n) ∧
    (let r := { rqOf (.fetch .plain) (hOf 2 true 0) 2 (.filling [1, 2] []) with q := none, furrow := some 3 }
     let s := { sr [oMat] r with core := cf { fur with claims := [⟨1, 0, false⟩, ⟨7, 1, false⟩] } co }
     Named s r ∧ r.furrow = some 3 ∧ r.q = none ∧ isCurrent s r.party ∧ Memory.wf s.core.scratch ∧ s.core.run ≠ .saving) := by
  refine ⟨?_, ?_, ?_⟩ <;> dsimp only
  · exact ⟨rfl, rfl, ⟨t0, rfl, rfl, rfl⟩, rfl, rfl⟩
  · exact ⟨rfl, rfl, by decide, by decide, rfl, ⟨t0, rfl, rfl, rfl⟩, rfl, fun _ h => nomatch h⟩
  · exact ⟨rfl, rfl, rfl, ⟨t0, rfl, rfl, rfl⟩, by decide +kernel, by decide⟩
/-- A load of eight bytes in the scalar port of a core whose frame stands still, with the slot that is filled before its read. -/
theorem witness_FillsBeforeLoads :
    let r := { rqOf (.fetch .plain) (hOf 2 true 0) 2 (.filling [1, 2] []) with q := none, furrow := some 3 }
    let l : LoadRec := ⟨4, 9, 0, 1024, 8, false, 5⟩
    let c := { cf { fur with claims := [⟨1, 0, false⟩] } co with stage := .halted, loads := [l], inflight := [⟨9, .x 4 7⟩], cyc := 5 }
    let s := { sr [oMat] r with core := c }
    Named s r ∧ r.furrow = some 3 ∧ r.q = none ∧ isCurrent s r.party ∧ Memory.wf s.core.scratch ∧ s.core.run ≠ .saving ∧
      s.core.stage = .halted ∧ s.core.loads = [l] ∧ s.core.inflight = [⟨l.ready, .x l.reg 7⟩] ∧ l.nth = 0 ∧ l.size ≤ 8 ∧ s.core.cyc ≤ l.port :=
  ⟨rfl, rfl, rfl, ⟨t0, rfl, rfl, rfl⟩, by decide +kernel, by decide, rfl, rfl, rfl, rfl, by decide, by decide⟩
/-- A request for no object; for one of another generation; a tile at the end of the matrix; a furrow slot for its STORE; a span of
one page; a page frozen twice; forms good and bad. -/
theorem witness_ObjectPerforms :
    (let r := rqOf (.info .form 0) (hOf 1 true 0) 1 .sent
     Acts (sr [] r) r ∧ (sr [] r).objAt r.home r.index = none ∧ isCurrent (sr [] r) r.party ∧ Acts (sr [oLine] r) r ∧
     (sr [oLine] r).objAt r.home r.index = some oLine) ∧
    (let r := { rqOf (.fetch .plain) (hOf 2 true 0) 2 .sent with origin := [3, 248], furrow := some 3, q := none }
     Acts (sr [oMat] r) r ∧ (sr [oMat] r).objAt r.home r.index = some oMat ∧ isCurrent (sr [oMat] r) r.party ∧ oMat.gen = r.gen ∧
     oMat.gen ≠ { r with gen := 2 }.gen ∧ reachable oMat ∧ ∃ x : Fin 64, r.rowB = rowSize x oMat ∧ rowSize x oMat * 8 % elemBits oMat.fmt = 0) ∧
    (let r := { rqOf (.store false) (hOf 2 true 0) 2 .sent with origin := [3, 248], furrow := some 3, q := none }
     let o := { oMat with grains := (r.bytes oMat).map fun b => ⟨b / 512, r.party, 0⟩ }
     let s := sr [o] r
     Acts s r ∧ s.objAt r.home r.index = some o ∧ o.live = true ∧ reachable o ∧ spanOpen s r o ∧
     (∀ b ∈ r.bytes o, ∃ g, o.grains.find? (fun g => g.g = b / 512) = some g ∧ g.owner.sameTask r.party = true)) ∧
    (let r := { rqOf .freeze (hOf 2 true 0) 2 .sent with origin := [3, 248] }
     let s := sr [oMat] r
     Acts s r ∧ oMat.hostsh = false ∧ oMat.pwrt = 0 ∧ (∀ g ∈ oMat.grains, g.owner.sameTask r.party = true) ∧ (∀ n, freezeCount oMat n < 255) ∧
     s.heldAt r oMat (spanPages r oMat) false 0 = false ∧ (∀ n ∈ spanPages r oMat, freezeCount oMat n = 0) ∧ spanPages r oMat ≠ []) ∧
    (let r := { rqOf .thaw (hOf 2 true 0) 2 .sent with origin := [3, 248] }
     let o := { oMat with frz := [⟨0, 2, false, [], [], [], []⟩] }
     Acts (sr [o] r) r ∧ (∀ n ∈ spanPages r o, 1 < freezeCount o n) ∧ ∀ z ∈ o.frz, z.thawing = false) ∧
    (let r := { rqOf .grant (hOf 2 true 0) 2 .sent with origin := [3, 248] }
     Acts (sr [oMat] r) r ∧ oMat.grains = [] ∧ (∀ n ∈ spanPages r oMat, freezeCount oMat n = 0) ∧
     (sr [oMat] r).heldAt r oMat (spanPages r oMat) false 0 = false) ∧
    (badForm (5 + 2 ^ 13 + 2 ^ 17) 8 0 0 false = false ∧ badForm 0 0 0 0 false = true ∧
      let r := rqOf (.alloc (BitVec.ofNat 64 (5 + 2 ^ 13 + 2 ^ 17)) 8 0 0 false) HReg.closed 0 .sent
      Acts (sr [] r) r) ∧
    ∀ q ∈ (so co).ancestors 1, q.hbmb = 0 := by
  refine ⟨?_, ?_, ?_, ?_, ?_, ?_, ⟨by decide +kernel, by decide +kernel, rfl, rfl, by decide +kernel⟩, by decide +kernel⟩ <;> dsimp only
  · exact ⟨⟨rfl, rfl, by decide +kernel⟩, by decide +kernel, ⟨t0, rfl, rfl, rfl⟩, ⟨rfl, rfl, by decide +kernel⟩, by decide +kernel⟩
  · exact ⟨⟨rfl, rfl, by decide +kernel⟩, by decide +kernel, ⟨t0, rfl, rfl, rfl⟩, by decide +kernel, by decide +kernel, ⟨by decide +kernel,
      by decide +kernel⟩, 0, by decide +kernel, by decide +kernel⟩
  · refine ⟨⟨rfl, rfl, by decide +kernel⟩, by decide +kernel, by decide +kernel, ⟨by decide +kernel, by decide +kernel⟩, ⟨by decide +kernel, by decide +kernel⟩,
      fun b hb => ⟨⟨0 + b / 512, ⟨0, 0, 1, 0, 1⟩, 0⟩, ?_, rfl⟩⟩
    revert b
    decide +kernel
  · exact ⟨⟨rfl, rfl, by decide +kernel⟩, by decide +kernel, by decide +kernel, by decide +kernel, fun _ => (by decide : (0 : Nat) < 255), by decide +kernel,
      by decide +kernel, by decide +kernel⟩
  · exact ⟨⟨rfl, rfl, by decide +kernel⟩, by decide +kernel, by decide +kernel⟩
  · exact ⟨⟨rfl, rfl, by decide +kernel⟩, rfl, by decide +kernel, by decide +kernel⟩
/-- A page of the matrix that is ABSENT, at which a FETCH comes to wait; nothing ABSENT; an INFO of an object freed meanwhile. -/
theorem witness_AbsentReads :
    (let r := { rqOf (.fetch .plain) (hOf 2 true 0) 2 .sent with origin := [3, 248], furrow := some 3, q := none }
     let g : Page := ⟨0, 0, 1, .absent, [], 0, 0, 0, false, false, false, false⟩
     let o := { oMat with pages := [g] }
     let s := sr [o] r
     Acts s r ∧ s.objAt r.home r.index = some o ∧ isCurrent s r.party ∧ o.gen = r.gen ∧ o.hostsh = false ∧ 0 ∈ spanPages r o ∧
     o.pageAt (o.verOf r.reg) 0 = some g ∧ g.res = .absent ∧ r.arr = 0 ∧ noneAbsent (sr [oMat] r)) ∧
    (let r := { rqOf (.info .form 0) (hOf 1 true 0) 1 .sent with gen := 2 }
     Acts (sr [oLine] r) r ∧ (sr [oLine] r).objAt r.home r.index = some oLine ∧ oLine.gen ≠ r.gen ∧ isCurrent (sr [oLine] r) r.party) := by
  refine ⟨⟨⟨rfl, rfl, by decide +kernel⟩, by decide +kernel, ⟨t0, rfl, rfl, rfl⟩, by decide +kernel, by decide +kernel, by decide +kernel,
    by decide +kernel, rfl, rfl, rfl, by decide +kernel⟩, ⟨⟨rfl, rfl, by decide +kernel⟩, by decide +kernel, by decide +kernel, ⟨t0, rfl, rfl, rfl⟩⟩⟩

/-! ### Casts, collectives, sync lines -/

/-- A push that has been read, for the furrow with a free slot; a thawing page that awaits one place, and two; a peer; a fill that may
form a cast, and one that may not. -/
theorem witness_PushesAndCasts :
    (let r := rqOf (.push 0 3 8 [] []) HReg.closed 0 (.filling [1, 2] [])
     let s := sr [] r
     Named s r ∧ r.op = .push 0 3 8 [] [] ∧ r.phase = .filling [1, 2] [] ∧ s.reqs = [r] ∧ s.core.task = some t0 ∧ 8 = t0.inst * 8 + t0.member ∧
     t0.member < 8 ∧ Memory.wf s.core.scratch ∧ 0 < (s.core.rf (Fin.ofNat 32 3)).count) ∧
    (let k : Peer := ⟨5, 0, [], Vector.replicate 5 0, false, true⟩
     let s := { so co with peers := [k] }
     s.peers.find? (fun k => k.pkg = s.pkg / 128 * 128 + 5) = some k ∧ k.pkg / 128 = 0 ∧ ∀ q ∈ s.peers, q.pkg / 128 ≠ 3) ∧
    (∀ home ∈ [0, 5], (so co).castFill ⟨home, 2, 0, 0⟩ = false) ∧ (so co).pkg = 0 ∧
    (so co).core.stage ≠ .halted ∧
    (∀ ps, let z : Frz := ⟨0, 0, true, [], ps, [], []⟩
      let o := { oMat with frz := [z] }
      { so co with objs := [o] }.objAt 0 2 = some o ∧ o.frz = [z] ∧ z.page = 0 ∧ z.thawing = true ∧ z.awaited = ps) ∧
    (∀ b ∈ [true, false], let r := { rqOf (.fetch .plain) (hOf 2 true 0) 2 (.filling [1, 2] []) with origin := [0, 0], casts := b }
      (sr [oMat] r).castFill ⟨0, 2, 0, 0⟩ = b) ∧
    (CastPlace.position 4 ≠ .here ∧ CastPlace.position 4 ∈ [CastPlace.here, .position 4]) :=
  ⟨⟨rfl, rfl, rfl, rfl, rfl, rfl, by decide, by decide +kernel, by decide +kernel⟩, by decide +kernel, by decide +kernel, rfl, by decide +kernel, fun _ => ⟨rfl, rfl, rfl, rfl, rfl⟩, by decide +kernel,
    by decide, by decide⟩
theorem witness_Collectives :
    (∀ kind, let r := { rqOf (.coll kind) (hOf 2 true 0) 2 .waiting with origin := [0, 0] }
      let j : Joined := ⟨0, 1, [], []⟩
      let k : Coll := ⟨1, 0, 2, [0, 0], kind, [j]⟩
      let s := { sr [oMat] r with colls := [k] }
      s.colls = [k] ∧ k.id = s.subj ∧ k.joined = [j] ∧ j.req = r.id ∧ s.reqs = [r] ∧ s.objAt k.home k.index = some oMat ∧
      isCurrent s r.party ∧ Named s r ∧ k.kind = kind ∧ r.gen = 1 ∧ { r with gen := 2 }.gen ≠ 1) ∧
    (oMat.gen = 1 ∧ oMat.live = true ∧ oMat.verOf (hOf 2 true 0) = 0 ∧ reachable oMat ∧ oMat.grains = [] ∧ (∀ n, freezeCount oMat n = 0) ∧
      oMat.shn ≠ 1 ∧ (oMat.setE 292 8 1).shn = 1) ∧
    ∀ held ∈ [true, false],
      let r := { rqOf (.coll .ag) (hOf 2 true 0) 2 .waiting with origin := [0, 0] }
      let k : Coll := ⟨1, 0, 2, [0, 0], .ag, [⟨0, 1, List.replicate 32 7, []⟩]⟩
      let o := { oMat with pages := [⟨0, 0, 1, .hbm, [], 0, 0, 0, held, false, false, false⟩] }
      (sr [o] r).heldAt r o (pagesOf ((k.puts o r).map fun p => o.elemBytes p.at_).flatten) true 0 = held := by
  refine ⟨fun kind => ⟨rfl, rfl, rfl, rfl, rfl, rfl, ⟨t0, rfl, rfl, rfl⟩, rfl, rfl, rfl, (by decide : (2 : Nat) ≠ 1)⟩, ⟨by decide +kernel, by decide +kernel,
    by decide +kernel, ⟨by decide +kernel, by decide +kernel⟩, rfl, fun _ => rfl, by decide +kernel, by decide +kernel⟩, by decide +kernel⟩
/-- A collective that is and is not late, of a BC and another kind, of an object shared by packages and one that is not. -/
theorem witness_CollectivesLate :
    ∀ kind, let r := { rqOf (.coll kind) (hOf 2 true 0) 2 .waiting with origin := [0, 0] }
      let j : Joined := ⟨0, 1, [], []⟩
      let k : Coll := ⟨1, 0, 2, [0, 0], kind, [j]⟩
      let s := { sr [oMat] r with colls := [k] }
      Named s r ∧ s.heldReads = [] ∧ s.cycle < r.issued + s.timeout r.party ∧
      (let t := { s with cycle := 2 ^ 32 }
       Named t r ∧ t.reqs = [r] ∧ t.colls = [k] ∧ k.joined = [j] ∧ j.req = r.id ∧ t.objAt k.home k.index = some oMat ∧ oMat.shn ≠ 1 ∧
       r.issued + t.timeout r.party ≤ t.cycle) ∧
      (let o := oMat.setE 292 8 1
       { s with objs := [o] }.objAt k.home k.index = some o ∧ o.shn = 1) := by
  intro kind
  refine ⟨rfl, rfl, ?_, ⟨rfl, rfl, rfl, rfl, rfl, rfl, by decide +kernel, ?_⟩, rfl, by decide +kernel⟩ <;> cases kind <;> decide +kernel
/-- The last word of the line, in the width of 8 bytes; the last word of the plot's first 32; an object freed meanwhile. -/
theorem witness_SyncPerforms :
    (∀ op ∈ [ReqOp.atom .add .rlx 1 0, .atom .cas .acqrel 1 0, .red .max true 5, .ldsync true, .stsync true 5],
      let r := { rqOf op (hOf 1 true 0) 1 .sent with n := 7, scope := .die }
      let s := sr [oLine] r
      Acts s r ∧ homeUp s r ∧ s.objAt r.home r.index = some oLine ∧ passes s r oLine ∧ fmtKind oLine.fmt = .int false 8) ∧
    (let r := rqOf (.plotrd 31) HReg.closed 0 .sent
     let s := sr [] r
     Acts s r ∧ homeUp s r ∧ (31 : Word).toNat < 32 ∧ s.plotAt r.party.plot = some me) ∧
    (let r := { rqOf (.atom .add .rlx 1 0) (hOf 1 true 0) 1 .sent with gen := 2 }
     Acts (sr [oLine] r) r ∧ homeUp (sr [oLine] r) r ∧ reachable oLine ∧ oLine.gen ≠ r.gen ∧ isCurrent (sr [oLine] r) r.party) := by
  refine ⟨fun op hop => ?_, ?_, ?_⟩
  · simp only [List.mem_cons, List.not_mem_nil, or_false] at hop
    rcases hop with rfl | rfl | rfl | rfl | rfl <;> refine ⟨⟨rfl, rfl, by decide +kernel⟩, (fun _ h => nomatch h), by decide +kernel,
      ⟨by decide +kernel, ⟨by decide +kernel, by decide +kernel⟩, ⟨rfl, by decide +kernel⟩, by decide +kernel, by decide +kernel, by decide +kernel,
      by decide +kernel⟩, by decide +kernel⟩
  · exact ⟨⟨rfl, rfl, by decide +kernel⟩, (fun _ h => nomatch h), by decide, rfl⟩
  · exact ⟨⟨rfl, rfl, by decide +kernel⟩, (fun _ h => nomatch h), ⟨by decide +kernel, by decide +kernel⟩, by decide +kernel, ⟨t0, rfl, rfl, rfl⟩⟩
/-- A release of the current task, whose core holds a dirty line. -/
theorem witness_ReleaseWritesBack :
    let r := { rqOf (.red .max true 5) (hOf 1 true 0) 1 .sent with n := 7, scope := .die }
    let s := { sr [oLine] r with core := { co with frames := [⟨0, 0, 2, 0, 0, 1, true⟩] } }
    Acts s r ∧ homeUp s r ∧ isCurrent s r.party ∧ s.core.frames ≠ [] :=
  ⟨⟨rfl, rfl, by decide +kernel⟩, (fun _ h => nomatch h), ⟨t0, rfl, rfl, rfl⟩, by decide⟩
/-- A barrier of EXPECT 2 with no arrival, and with one; one with a parent; its waits. -/
def barOf (parent : Word) : BarState := ⟨⟨0, 0, 1, 0, 1⟩, parent, 0, [], [], [], 0⟩
def oBar (index arrivals : Nat) (parent : Word) : Obj :=
  ⟨0, index, ent 8 1 true [8], [{ v0 with data := memPut [] 0 (toBytes 8 (2 ^ 63 + 5 * 2 ^ 60 + arrivals * 2 ^ 17 + 2 * 2 ^ 37)) }], [], [], [],
    [⟨0, none, some (barOf parent), none, 0, false⟩], none⟩
/-- The same with arrivals held at it. -/
def oBarH (arrivals held : Nat) (parent : Word) : Obj :=
  { oBar 7 arrivals parent with lines := [⟨0, none, some { barOf parent with held := held }, none, 0, false⟩] }
theorem witness_Barriers :
    (∀ arrivals ∈ [0, 1], ∀ parent ∈ [(0 : Word), mkHandle 0 7 1],
      let r := { rqOf .barr (hOf 1 true 0) 1 .sent with scope := .system }
      let o := oBar 1 arrivals parent
      let b := barOf parent
      let s := sr [o] r
      Acts s r ∧ homeUp s r ∧ s.objAt r.home r.index = some o ∧ wordsHeld o ∧ barUsable r o b ∧ b.waits = [] ∧ b.held = 0 ∧
      barField (o.word 0) 17 20 = arrivals ∧ barField (o.word 0) 37 20 = 2 ∧ (∀ k ∈ s.objs, ∀ c ∈ k.bar, handleIndex c.parent ≠ r.index)) ∧
    (∀ c ∈ [(0, 0, (0 : Word)), (1, 0, mkHandle 0 5 1), (1, 0, 0), (1, 2, 0), (2, 1, 0), (2, 2, 0)],
     let k := oBar 1 0 (mkHandle 0 7 1)
     let o := oBarH c.1 c.2.1 c.2.2
     let s := { so co with objs := [k, o] }
     s.objAt 0 1 = some k ∧ k.bar = some (barOf (mkHandle 0 7 1)) ∧ s.objOf (barOf (mkHandle 0 7 1)).parent = some o ∧
     o.bar = some { barOf c.2.2 with held := c.2.1 } ∧ wordsHeld o ∧ barField (o.word 0) 17 20 = c.1 ∧ barField (o.word 0) 37 20 = 2 ∧
     c.2.1 < 2 ^ 20 ∧ (handleIndex c.2.2 = 0 ↔ c.2.2 = 0)) ∧
    (let k := oBar 1 0 (mkHandle 0 7 1)
     (so co).objAt 0 9 = none ∧ (so co).objAt 0 1 = some oLine ∧ oLine.bar = none ∧ { so co with objs := [k] }.objAt 0 1 = some k ∧
     { so co with objs := [k] }.objOf (mkHandle 0 7 1) = none ∧
     { so co with objs := [k, { oLine with index := 7 }] }.objOf (mkHandle 0 7 1) = some { oLine with index := 7 }) ∧
    (let o := oBarH 0 2 (mkHandle 0 5 1)
     { so co with objs := [o] }.objAt 0 7 = some o ∧ o.bar = some { barOf (mkHandle 0 5 1) with held := 2 } ∧ wordsHeld o ∧
     barField (o.word 0) 37 20 = 2 ∧ handleIndex (mkHandle 0 5 1) ≠ 0) ∧
    (let r := rqOf .bread (hOf 1 true 0) 1 .waiting
     Named (sr [] r) r ∧ (sr [] r).cycle < r.issued + (sr [] r).timeout r.party ∧
     { sr [] r with cycle := 2 ^ 32 }.timeout r.party = 2 ^ 32 ∧ isCurrent (sr [] r) r.party) := by
  refine ⟨fun arrivals ha parent hp => ?_, fun c hc => ?_, by decide +kernel, ?_, ?_⟩
  · simp only [List.mem_cons, List.not_mem_nil, or_false] at ha hp
    rcases ha with rfl | rfl <;> rcases hp with rfl | rfl <;> refine ⟨⟨rfl, rfl, by decide +kernel⟩, (fun _ h => nomatch h), by decide +kernel, ?_,
      ⟨by decide +kernel, by decide +kernel⟩, rfl, rfl, by decide +kernel, by decide +kernel, by decide +kernel⟩ <;>
      simp only [wordsHeld, lineOk] <;> decide +kernel
  · simp only [List.mem_cons, List.not_mem_nil, or_false] at hc
    rcases hc with rfl | rfl | rfl | rfl | rfl | rfl <;> simp only [wordsHeld, lineOk] <;> decide +kernel
  · simp only [wordsHeld, lineOk]; decide +kernel
  · exact ⟨rfl, by decide +kernel, by decide +kernel, ⟨t0, rfl, rfl, rfl⟩⟩
/-- A line whose word 0 is w and whose word 1 is par. -/
def oWords (index w : Nat) (par : Word) (lines : List SyncLine) : Obj :=
  ⟨0, index, ent 8 1 true [8], [{ v0 with data := memPut [] 0 (toBytes 8 w ++ toBytes 8 par.toNat) }], [], [], [], lines, none⟩
def barLine (b : BarState) : List SyncLine := [⟨0, none, some b, none, 0, false⟩]
/-- An initialised barrier's word 0: scope SYSTEM, its level, EXPECT 2, PHASE. -/
def barWord (level phase : Nat) : Nat := 2 ^ 63 + 5 * 2 ^ 60 + level * 2 ^ 57 + 2 * 2 ^ 37 + phase
/-- BARINIT of no arrivals and of two, without a parent, under one that is gone, that is no barrier, that is not initialised, that is as
deep as may be, and that admits it. -/
theorem witness_BarrierInit :
    (∀ e ∈ [(0 : Word), 2, 2 ^ 20], ∀ par ∈ [(0 : Word), mkHandle 0 7 1, mkHandle 0 5 1, mkHandle 0 8 1],
      let r := { rqOf (.barinit e) (hOf 1 true 0) 1 .sent with scope := .die }
      let o := oWords 1 0 par []
      let s := sr [o, oWords 7 (barWord 0 0) 0 (barLine (barOf 0)), oWords 8 (barWord 5 0) 0 (barLine (barOf 0))] r
      Acts s r ∧ homeUp s r ∧ s.objAt r.home r.index = some o ∧ o.gen = r.gen ∧ wordsHeld o ∧ BitVec.ofNat 64 (o.word 1) = par) ∧
    (let s := { so co with objs := [oWords 7 (barWord 0 0) 0 (barLine (barOf 0)), oWords 8 (barWord 5 0) 0 (barLine (barOf 0)), { oLine with index := 4 }] }
     s.objOf (mkHandle 0 5 1) = none ∧ (∃ p, s.objOf (mkHandle 0 4 1) = some p ∧ p.bar = none) ∧
     (∃ p, s.objOf (mkHandle 0 8 1) = some p ∧ p.bar = some (barOf 0) ∧ barField (p.word 0) 57 3 = 5) ∧
     ∃ p, s.objOf (mkHandle 0 7 1) = some p ∧ p.bar = some (barOf 0) ∧ barField (p.word 0) 63 1 = 1 ∧ barField (p.word 0) 57 3 < 5 ∧
       Scope.die.code ≤ barField (p.word 0) 60 3 ∧ inDom (scopeOf (barField (p.word 0) 60 3)) (barOf 0).init ⟨0, 0, 1, 0, 1⟩ = true) := by
  refine ⟨fun e he par hp => ?_, by decide +kernel, ⟨{ oLine with index := 4 }, by decide +kernel, rfl⟩,
    ⟨oWords 8 (barWord 5 0) 0 (barLine (barOf 0)), by decide +kernel, rfl, by decide +kernel⟩,
    ⟨oWords 7 (barWord 0 0) 0 (barLine (barOf 0)), by decide +kernel, rfl, by decide +kernel⟩⟩
  simp only [List.mem_cons, List.not_mem_nil, or_false] at he hp
  rcases he with rfl | rfl | rfl <;> rcases hp with rfl | rfl | rfl | rfl <;> refine ⟨⟨rfl, rfl, by decide +kernel⟩, (fun _ h => nomatch h), rfl, by decide +kernel, ?_, by decide +kernel⟩ <;>
    simp only [wordsHeld, lineOk] <;> decide +kernel
/-- BARW of a phase that has ended and of the current one; BREAD of a line that holds no ballot, of a settled and an unsettled ballot;
waits that have and have not lasted too long, under no parent and under one. -/
theorem witness_BarrierWaits :
    (∀ phase ∈ [(0 : Nat), 1, 2 ^ 16, 2 ^ 16 + 1], ∀ held : Bool,
      let r := { rqOf (.barw none) (hOf 1 true 0) 1 .sent with scope := .system }
      let b := { barOf 0 with phases := if held then [(r.party, r.h, 0)] else [] }
      let o := oWords 1 (barWord 0 phase) 0 (barLine b)
      Acts (sr [o] r) r ∧ homeUp (sr [o] r) r ∧ (sr [o] r).objAt r.home r.index = some o ∧ barUsable r o b ∧ barField (o.word 0) 0 17 = phase ∧
      ((b.phases.find? fun y => y.1 = r.party && y.2.1 = r.h).map fun y => y.2.2) = if held then some 0 else none) ∧
    (let r := rqOf .bread (hOf 1 true 0) 1 .sent
     Acts (sr [oLine] r) r ∧ oLine.ballot = none ∧ oLine.word 0 < 2 ^ 64 ∧ isCurrent (sr [oLine] r) r.party ∧ oLine.gen = r.gen ∧
     ∀ w ∈ [2 ^ 63, 2 ^ 63 + 2 ^ 62, 0], let o := oWords 1 w 0 [⟨0, none, none, some ⟨9, [], [], []⟩, 0, false⟩]
      (sr [o] r).objAt r.home r.index = some o ∧ o.ballot = some ⟨9, [], [], []⟩ ∧ o.word 0 = w) ∧
    (∀ par ∈ [(0 : Word), mkHandle 0 7 1],
      let r := { rqOf (.barw none) (hOf 1 true 0) 1 .waiting with scope := .system }
      let o := oWords 1 (barWord 0 0) 0 (barLine (barOf par))
      let p := oWords 7 (barWord 0 0) 0 (barLine (barOf 0))
      let s := sr [o, p] r
      Named s r ∧ r.phase = .waiting ∧ s.objAt r.home r.index = some o ∧ o.bar = some (barOf par) ∧ isCurrent s r.party ∧
      (par = 0 → s.objOf par = none) ∧ (par ≠ 0 → s.objOf par = some p ∧ p.bar = some (barOf 0) ∧ s.objOf (barOf 0).parent = none) ∧
      s.cycle < max r.issued (max (barOf par).last (barOf 0).last) + s.timeout r.party ∧
      max r.issued (max (barOf par).last (barOf 0).last) + { s with cycle := 2 ^ 32 }.timeout r.party ≤ { s with cycle := 2 ^ 32 }.cycle) := by
  refine ⟨fun phase hp held => ?_, ⟨⟨rfl, rfl, by decide +kernel⟩, rfl, by decide +kernel, ⟨t0, rfl, rfl, rfl⟩, by decide +kernel, by decide +kernel⟩, fun par hp => ?_⟩
  · simp only [List.mem_cons, List.not_mem_nil, or_false] at hp
    rcases hp with rfl | rfl | rfl | rfl <;> cases held <;>
      exact ⟨⟨rfl, rfl, by decide +kernel⟩, (fun _ h => nomatch h), by decide +kernel, ⟨by decide +kernel, by decide +kernel⟩, by decide +kernel, by decide +kernel⟩
  · simp only [List.mem_cons, List.not_mem_nil, or_false] at hp
    rcases hp with rfl | rfl <;> exact ⟨rfl, rfl, rfl, rfl, ⟨t0, rfl, rfl, rfl⟩, by decide +kernel, by decide +kernel, by decide +kernel, by decide +kernel⟩
/-- A ballot of group 9: EXPECT 3, QUORUM q, settled or not. -/
def oBal (q : Nat) (settled : Bool) : Obj :=
  ⟨0, 1, ent 8 1 true [8], [{ v0 with data := memPut [] 0 (toBytes 8 (q * 2 ^ 17 + 3 * 2 ^ 24 + if settled then 2 ^ 62 else 0)) }], [], [], [],
    [⟨0, none, none, some ⟨9, [], [], []⟩, 0, false⟩], none⟩
/-- A release list of one row: flag 1, oLine, its last element. -/
def oRel : Obj :=
  ⟨0, 6, ent 8 2 true [1, 3], [{ v0 with data := memPut [] 0 (toBytes 8 1 ++ toBytes 8 (mkHandle 0 1 1).toNat ++ toBytes 8 7) }], [], [], [], [], none⟩
def meS : Plot := { me with desc := me.desc + BitVec.ofNat 2048 ((mkHandle 0 6 1).toNat * 2 ^ 768) }
def group : Plot := { root with desc := root.desc + BitVec.ofNat 2048 ((mkHandle 0 1 1).toNat * 2 ^ 832) }
theorem noMap_oBal (q : Nat) (hq : q = 1 ∨ q = 2 := by decide) (r : Req := rqOf (.bpost 5 6) (hOf 1 true 0) 1 .sent) :
    noMap (sr [oBal q false] r) (oBal q false) := by
  rintro k hk h hh ⟨-, hi⟩
  obtain rfl : k = oBal q false := List.mem_singleton.mp hk
  rcases hq with rfl | rfl <;> rcases hh with rfl | rfl | rfl <;> exact absurd hi (by decide +kernel)
theorem witness_Ballots :
    (∀ q ∈ [1, 2],
      let r := rqOf (.bpost 5 6) (hOf 1 true 0) 1 .sent
      let o := oBal q false
      let s := sr [o] r
      let b : BallotState := ⟨9, [], [], []⟩
      Acts s r ∧ s.objAt r.home r.index = some o ∧ s.plotAt r.party.plot = some me ∧ wordsHeld o ∧ o.ballot = some b ∧ b.group = me.parent ∧
      barField (o.word 0) 62 1 = 0 ∧ (∀ x ∈ b.posts, x.sib ≠ me.sibix) ∧ postsOf b 5 + 1 = 1 ∧ barField (o.word 0) 17 7 = q ∧
      (∃ i, i < barField (o.word 0) 24 7 ∧ i ≠ me.sibix ∧ (∀ x ∈ b.posts, x.sib ≠ i) ∧ i ∉ b.ended) ∧ o.valid = true ∧ noMap s o ∧
      o.maker = none) ∧
    (let r := rqOf (.bpost 5 6) (hOf 1 true 0) 1 .sent
     r ∈ (sr [oBal 1 true] r).reqs ∧ r.party.plot = me.id ∧ r.op = .bpost 5 6) ∧
    (∀ b ∈ [true, false],
     let o := oBal 1 b
     let s := { so co with objs := [o], plots := [me, group] }
     s.plotAt me.id = some me ∧ s.plotAt me.parent = some group ∧ s.reqs = [] ∧
     s.objAt (handleHome group.ballot) (handleIndex group.ballot) = some o ∧ o.ballot = some ⟨9, [], [], []⟩ ∧ group.id = 9 ∧
     barField (o.word 0) 62 1 = (if b then 1 else 0) ∧ 2 < barField (o.word 0) 24 7 ∧ 2 ≠ me.sibix) ∧
    (let s := so { co with task := none }
     plotsUnique s ∧ s.plotAt me.id = some me ∧ me.kind = kindTaskset ∧ me.state = stActive ∧ s.endings = [] ∧ (∀ c ∈ s.cores, c.runs me.id = false) ∧
     (∀ v ∈ s.saved, v.core.runs me.id = false) ∧ (me.set 50 4 2).state ≠ stActive) ∧
    (plotsUnique (so co) ∧ (so co).plotAt me.id = some me ∧ (so co).endings = [] ∧ (so co).saved = [] ∧ co.runs me.id = true ∧ co.run = .running ∧
     (∀ c ∈ (so co).cores, c.runs me.id = true → c.retireIss = false) ∧
     co.atBoundary = true ∧ co.lateNow = false ∧ { co with portStop := 3 }.atBoundary = false ∧ { co with late := [(0, 0)] }.lateNow = true ∧
     (∀ c ∈ (so co).behind ++ (so co).ahead, c.runs me.id = false) ∧
     (so { co with retireIss := true }).plotAt me.id = some me ∧ { co with retireIss := true }.runs me.id = true) ∧
    (let s := { so co with objs := [oLine, oRel], plots := [meS, root] }
     s.plotAt meS.id = some meS ∧ s.reqs = [] ∧ s.hostHeld = [] ∧ s.objOf meS.rlist = some oRel ∧ (so co).objOf me.rlist = none ∧ oRel.live = true ∧
     oRel.tiled = false ∧ oRel.rank = 2 ∧ fmtKind oRel.fmt = .int false 8 ∧ oRel.dim 0 ≤ oRel.dim 1 ∧ meS.sibix < oRel.dim 0 ∧ 3 ≤ oRel.dim 1 ∧
     oRel.readElem 0 [meS.sibix, 0] = 1 ∧ s.objOf (BitVec.ofNat 64 (oRel.readElem 0 [meS.sibix, 1])) = some oLine ∧
     (s.rightsOf oLine meS.id).getLsbD 2 = true ∧ meS.party = none ∧ fmtKind oLine.fmt = .int false 8 ∧
     oRel.readElem 0 [meS.sibix, 2] < oLine.count ∧ oLine.frz = [] ∧ oLine.grains = [] ∧ oLine.lines = [] ∧ oLine.pages = []) ∧
    syncShape oLine := by
  refine ⟨fun q hq => ?_, ⟨by decide +kernel, rfl, rfl⟩, by decide +kernel, ?_, ?_, by decide +kernel, by decide +kernel, by decide +kernel, false, 8,
    by decide +kernel, Or.inr rfl⟩
  · simp only [List.mem_cons, List.not_mem_nil, or_false] at hq
    rcases hq with rfl | rfl <;> refine ⟨⟨rfl, rfl, by decide +kernel⟩, by decide +kernel, by decide +kernel, ?_, by decide +kernel, by decide +kernel,
      by decide +kernel, (fun _ h => nomatch h), by decide +kernel, by decide +kernel, ⟨2, by decide +kernel, by decide +kernel, (fun _ h => nomatch h),
      (fun h => nomatch h)⟩, by decide +kernel, noMap_oBal _, rfl⟩ <;> simp only [wordsHeld, lineOk] <;> decide +kernel
  · simp only [plotsUnique]; decide +kernel
  · simp only [plotsUnique]; decide +kernel
/-- A release list of two entries, of which one names an object that is gone. -/
theorem witness_ReleaseLists :
    let l : Obj := ⟨0, 6, ent 8 2 true [1, 5], [{ v0 with data := memPut [] 0 (toBytes 8 2 ++ toBytes 8 (mkHandle 0 9 1).toNat ++ toBytes 8 0 ++
      toBytes 8 (mkHandle 0 1 1).toNat ++ toBytes 8 7) }], [], [], [], [], none⟩
    let s := { so co with objs := [oLine, l], plots := [meS, root] }
    s.plotAt meS.id = some meS ∧ s.reqs = [] ∧ s.hostHeld = [] ∧ s.objOf meS.rlist = some l ∧ l.live = true ∧ l.tiled = false ∧ l.rank = 2 ∧
    l.dim 0 ≤ l.dim 1 ∧ meS.sibix < l.dim 0 ∧ s.plotAt meS.parent = some root ∧ l.readElem 0 [meS.sibix, 0] = 2 ∧ 1 + 2 * 2 ≤ l.dim 1 ∧
    (∀ j, j < 2 → s.objOf (BitVec.ofNat 64 (l.readElem 0 [meS.sibix, 1 + 2 * j])) = (if j = 0 then none else some oLine)) ∧
    l.readElem 0 [meS.sibix, 4] < oLine.count ∧ ∀ q ∈ oLine.pages, q.moving = false := by decide +kernel

/-! ### Traps, tasks, memories -/

/-- One bundle: MCALL 255. -/
def mcallWords : List Byte := toBytes 16 (0x8 + 2 ^ 64 * 0x0000000FF0000002)
/-- The core of a task that TRAPped; the same task in the policy of its ROOT, held or not; a port's call. -/
theorem witness_TrapsAndServices :
    (let r := rqOf (.info .form 0) (hOf 1 true 0) 1 (.failed .objRights)
     let s := { sr [] r with core := { co with late := [(5, 1)] } }
     s.core.late = (5, 1) :: [] ∧ coresUnique s ∧ (1 : Nat) ≠ 0 ∧ s.reqs.find? (fun q => q.id = 1) = some r ∧ r.phase = .failed .objRights) ∧
    ((so { co with late := [(5, 0)] }).core.late = (5, 0) :: []) ∧
    (let s := so { co with run := .trapped, cause := some .trapInsn }
     coresUnique s ∧ plotsUnique s ∧ s.core.run = .trapped ∧ s.core.cause = some .trapInsn ∧ s.core.task = some t0 ∧
     s.plotAt t0.plot = some me ∧ s.holds t0 .trapInsn = false ∧
     { s with plots := [me, { root with policy := -1 }] }.holds t0 .trapInsn = true ∧ s.journWait = [] ∧ s.placeTaken = false ∧ s.endings = [] ∧
     ∃ e ∈ { s with endings := [⟨1, true, 0, [1], []⟩] }.endings, t0.plot ∈ e.ids) ∧
    (∀ b ∈ [true, false],
     let c := { co with run := .trapped, cause := some .formatEmulate, mp := mpOf 17, code := memPut [] 0 mcallWords, codeLen := 16,
                        iss := { co.iss with slot := if b then .m else .v0 } }
     c.cause = some .formatEmulate ∧ c.emulatedCall = if b then some 255 else none) ∧
    ({ so co with reqs := [acqReq, svcReq], subj := 1 }.mustWait svcReq = true ∧ Named { so co with reqs := [acqReq, svcReq], subj := 1 } svcReq ∧
      svcReq.phase = .sent) ∧
    (∀ handle, let msg : List Word := [1, handle, 0, 0, 0, 0, 0, 0]
      let r := { rqOf (.svc 0 msg 7) HReg.closed 0 .sent with q := some 0 }
      let s := sr [oLine] r
      Named s r ∧ r.phase = .sent ∧ r.op = .svc 0 msg 7 ∧ isCurrent s r.party ∧ msg.getD 1 0 = handle ∧ (msg.getD 0 0).toNat % 2 ^ 16 = 1 ∧
      s.mustWait r = false) ∧
    ((sr [oLine] (rqOf .free HReg.closed 0 .sent)).objOf (mkHandle 0 1 1) = some oLine ∧ (co.rh 1).opened = true ∧
      (co.rh 1).handle = mkHandle 0 1 1 ∧ (sr [] (rqOf .free HReg.closed 0 .sent)).objOf (mkHandle 0 1 1) = none) ∧
    badForm (BitVec.ofNat 64 (5 + 2 ^ 13 + 2 ^ 17)).toNat 8 0 0 false = false ∧
    ∀ q ∈ (so co).ancestors ((so co).rootOf 1), q.hbmb = 0 := by
  refine ⟨⟨rfl, ?_, by decide, rfl, rfl⟩, rfl, ⟨?_, ?_, rfl, rfl, rfl, rfl, by decide +kernel, by decide +kernel, rfl, by decide +kernel, rfl, _, List.mem_singleton.mpr rfl, by decide⟩,
    by decide +kernel, ⟨by decide +kernel, rfl, rfl⟩,
    fun _ => ⟨rfl, rfl, rfl, ⟨t0, rfl, rfl, rfl⟩, rfl, (by decide : (1 : Word).toNat % 2 ^ 16 = 1), rfl⟩, by decide +kernel, by decide +kernel,
    by decide +kernel⟩
  · simp only [coresUnique]; decide +kernel
  · simp only [coresUnique]; decide +kernel
  · simp only [plotsUnique]; decide +kernel
/-- Die 0's dispatcher with TASKSET 1 as its one candidate; an admission of it on core 0. -/
def mePlot : Plot := { me with desc := me.desc + BitVec.ofNat 2048 (2 ^ 1216) }
def idle0 : State := { so (Core.reset 0) with plots := [mePlot, root] }
def cand : Cand := ⟨1, 0, none, 0⟩
def adm (granted : Nat) : Adm := ⟨0, 1, [0], granted, none, 1, false⟩
/-- A member saved by a pre-emption. -/
def saved (held : Bool) : Saved := ⟨{ co with run := .saving }, none, held, 0, 0, none, []⟩
theorem preempted_saved : ({ idle0 with saved := [saved false] }.preempted mePlot.id 0).contains 1 = true := by
  have h : ∀ xs : List (Nat × Nat), xs = [(0, 1)] →
      ((xs.mergeSort (fun a b => decide (a.1 ≤ b.1))).map (·.2) |>.eraseDups).contains 1 = true := by
    rintro _ rfl
    simp [List.mergeSort_singleton, List.eraseDups_cons]
  unfold State.preempted
  exact h _ (by decide +kernel)
theorem witness_Dispatching :
    State.reset.power ≠ .running ∧
    (let s := { idle0 with disps := [⟨0, [cand], [], [], 0, 0⟩] }
     plotsUnique s ∧ s.power = .running ∧ s.plotAt cand.plot = some mePlot ∧ cand.until_ = none ∧ s.mayStart mePlot 0 = true ∧
     s.fits mePlot = true ∧ s.placement mePlot 0 = some [0] ∧ s.ep mePlot < 16 ∧ gangSize mePlot.gang ≤ mePlot.deficit) ∧
    (let s := { idle0 with disps := [⟨0, [cand], [], [adm 0], 1, 0⟩] }
     (adm 0).cores[(adm 0).granted]? = some 0 ∧ (adm 0).waits = false ∧ s.refuses 0 (adm 0).id 0 = false ∧
     { s with fenced := [0] }.refuses 0 (adm 0).id 0 = true ∧ cand.plot = (adm 0).plot ∧ { adm 0 with waits := true }.waits = true ∧
     (so co).coreAt 0 = some co ∧ co.run ≠ .idle ∧ (so co).fenced.contains 0 = false) ∧
    (let s := { idle0 with disps := [⟨0, [cand], [], [adm 1], 1, 0⟩] }
     plotsUnique s ∧ s.plotAt (adm 1).plot = some mePlot ∧ mePlot.state = stActive ∧ (adm 1).resume = none ∧ mePlot.nextix < mePlot.tasks ∧
     s.fitsWith mePlot (fun _ => 0) = true ∧ mePlot.rcores + gangSize mePlot.gang < 2 ^ 16 ∧
     s.mayCommit (mePlot.set 1024 32 4) 0 (adm 1) = false ∧ (∀ c ∈ (adm 1).cores, s.fenced.contains c = false) ∧
     { s with fenced := [0] }.plotAt (adm 1).plot = some mePlot ∧ { s with fenced := [0] }.fenced.contains 0 = true) ∧
    ({ idle0 with saved := [saved false] }.preempted mePlot.id 0).contains 1 = true ∧ { adm 1 with resume := some 1 }.resume = some 1 ∧
    (coresUnique idle0 ∧ idle0.plotAt mePlot.id = some mePlot ∧ idle0.core.task = none) ∧
    (let s := so { co with spawnW := some 5 }
     coresUnique s ∧ s.core.run = .running ∧ s.core.spawnW = some 5 ∧ s.core.spawnFull = false ∧ ∀ c ∈ s.behind ++ s.ahead, c.spawnW = none) := by
  refine ⟨by decide, ?_, ?_, ?_, preempted_saved, rfl, ?_, ?_⟩ <;> simp only [plotsUnique, coresUnique] <;> decide +kernel
/-- A member saved by a pre-emption; a core that waits to retire; an engine that waits on a furrow nobody fills. -/
theorem solo_so (c : Core) (h : c.task = some t0) : solo (so c) t0 :=
  ⟨h, (fun _ h => nomatch h), (fun _ h => nomatch h), (fun _ h => nomatch h)⟩
/-- A core of the other member of the task, which is held. -/
def heldMate : Core := { Core.reset 1 with run := .draining, cause := some .break_, task := some { t0 with member := 1 } }
/-- A save area of one row, which is in the layout or is all 0, and the TASKSET that names it. -/
def oSave (d : List Host.Cell) : Obj := ⟨0, 7, ent 2 2 true [1, 921600], [{ v0 with data := d }], [], [], [], [], none⟩
def meSave : Plot := { me with desc := me.desc + BitVec.ofNat 2048 ((mkHandle 0 7 1).toNat * 2 ^ 704) }
theorem witness_SavingAndRetiring :
    ((Core.reset 0).run ≠ .running ∧ (Core.reset 0).run ≠ .retiring ∧ (Core.reset 0).run ≠ .trapped ∧ (Core.reset 0).run ≠ .emulating) ∧
    ((so co).coreAt 0 = some co ∧ co.run = .running ∧ (so co).gangHeld co = false ∧ co.late = [] ∧ { co with late := [(5, 1)] }.late ≠ [] ∧
      (∀ b ∈ [true, false], let c := { co with portStop := if b then 0 else 1 }
        let s := { so c with ahead := [heldMate] }
        s.coreAt 0 = some c ∧ c.run = .running ∧ s.gangHeld c = true ∧ c.atBoundary = b)) ∧
    (∀ k, let s := so { co with run := .trapped, cause := k }
      s.coreAt 0 = some { co with run := .trapped, cause := k }) ∧
    (∀ b ∈ [true, false],
     let c := { co with run := .trapped, cause := some .formatEmulate, mp := mpOf 17, code := memPut [] 0 mcallWords, codeLen := 16,
                        iss := { co.iss with slot := if b then .m else .v0 }, replay := some ⟨0, 0, none, [.m], [], []⟩ }
     (so c).coreAt 0 = some c ∧ c.emulatedCall = if b then some 255 else none) ∧
    (coresUnique (so co) ∧ solo (so co) t0 ∧ (so { co with run := .draining }).core.run = .draining ∧ (so co).reqs = [] ∧
      (so { co with run := .saving }).core.run = .saving ∧ solo (so { co with run := .saving }) t0 ∧ (so co).plotAt t0.plot = some me) ∧
    (let r := rqOf (.info .form 0) (hOf 1 true 0) 1 (.failed .objRights)
     let s := { sr [] r with core := { co with run := .draining, late := [(5, 1)] } }
     s.core.run = .draining ∧ s.drained s.core = true ∧ s.core.replay = none ∧ s.core.late.drop s.core.lateKeep = (5, 1) :: [] ∧
     s.reqs.find? (fun q => q.id = 1) = some r ∧ r.phase = .failed .objRights) ∧
    (let r := rqOf (.fetch .plain) (hOf 2 true 0) 2 (.filling [1, 2] [])
     (sr [oMat] r).drained (sr [oMat] r).core = false) ∧
    ({ idle0 with saved := [saved false] }.saved = [saved false] ∧ (saved false).core.task = some t0 ∧ (saved false).slot = none ∧
      (saved false).core.pushMap = [] ∧ coresUnique idle0) ∧
    (∀ d ∈ [[⟨0, 1⟩], []], let v := { saved false with slot := some 0 }
      let s := { idle0 with saved := [v], objs := [oSave d], plots := [meSave, root] }
      s.saved = [v] ∧ v.core.task = some t0 ∧ v.slot = some 0 ∧ s.saveArea v.core = some (oSave d) ∧ v.core.pushMap = [] ∧
      s.plotAt t0.plot = some meSave) ∧
    badImage ((oSave [⟨0, 1⟩]).rowRead 0) = false ∧ badImage ((oSave []).rowRead 0) = true ∧
    (let c := { co with run := .retiring }
     let p := me.set 512 16 1
     let s := { so c with plots := [p, root] }
     coresUnique s ∧ plotsUnique s ∧ s.coreAt 0 = some c ∧ c.task = some t0 ∧ s.retireReady c = true ∧ s.plotAt t0.plot = some p ∧
     p.kind = kindTaskset ∧ p.donen < p.tasks ∧ gangSize t0.shape ≤ p.rcores ∧ s.retireReady co = false) ∧
    lastMember (so { co with run := .retiring }) 0 t0.inst ∧
    (let s := { so { co with run := .retiring } with ahead := [heldMate] }
     ¬ lastMember s 0 t0.inst ∧ coresUnique s ∧ (∀ e ∈ s.cores, ∀ u, e.task = some u → u.inst = t0.inst → u.member = t0.member → e.id = 0) ∧
     s.saved = []) ∧
    (let c := withE { Engine.reset with active := some (.load 4 0 64 0) } co
     let s := so c
     s.coreAt 0 = some c ∧ c.engineWait = some 4 ∧ s.prodLive c (c.rf 4) false = false ∧ c.late = [] ∧ co.engineWait = none ∧
     let d := { c with f := setAt c.f 4 { Furrow.none with prod := 2 } }
     d.engineWait = some 4 ∧ (so d).prodLive d (d.rf 4) false = true) := by
  refine ⟨by decide, ?_, fun k => rfl, by decide +kernel, ⟨?_, solo_so _ rfl, rfl, rfl, rfl, solo_so _ rfl, rfl⟩, by decide +kernel, by decide +kernel,
    ⟨rfl, rfl, rfl, rfl, ?_⟩, by decide +kernel, by decide +kernel, by decide +kernel, ?_, ?_, ?_, by decide +kernel⟩
  · decide +kernel
  · simp only [coresUnique]; decide +kernel
  · simp only [coresUnique]; decide +kernel
  · simp only [coresUnique, plotsUnique]; decide +kernel
  · refine ⟨fun c hc hn => ?_, (fun _ h => nomatch h), fun _ h => nomatch h⟩
    obtain rfl := List.mem_singleton.mp hc
    exact absurd rfl hn
  · refine ⟨fun h => h.1 heldMate (List.mem_cons_of_mem _ (List.mem_singleton.mpr rfl)) (by decide) _ rfl rfl, ?_, fun e he u hu hi hm => ?_, rfl⟩
    · simp only [coresUnique]; decide +kernel
    · rcases List.mem_cons.mp he with rfl | he
      · rfl
      · obtain rfl := List.mem_singleton.mp he
        obtain rfl := Option.some.inj hu
        exact absurd hm (by decide)
/-- A page in each residency the steps act on; a bank at the threshold, with one alert and two. -/
def page (res : Residency) (moving : Bool) : Page := ⟨0, 0, 1, res, [], 0, 0, 0, moving, false, false, false⟩
theorem witness_MemoryTiers :
    (∀ res moving, let o := { oMat with pages := [page res moving] }
      { so co with objs := [o] }.objAt 0 2 = some o ∧ o.pages = [page res moving] ∧ (page res moving).ver = 0 ∧ (page res moving).num = 0) ∧
    (let p := { page .absent false with copy := true }
     let o := { oMat with pages := [p] }
     { so co with objs := [o] }.objAt 0 2 = some o ∧ p.ver = 0 ∧ p.num = 0 ∧ p.res = .absent ∧ p.copy = true) ∧
    (so co).place 0 = some (.hbm, 0) ∧ 0 < (so co).freeHbm 0 ∧ 2048 ≤ (so co).freeHbm 0 ∧
    (let o := { oMat with pages := [page .hbm false] }
     let s := { so co with objs := [o], hbmUsed := [(0, 1572864)] }
     s.freeHbm 0 < 2048 ∧ s.guarded (page .hbm false) = false ∧ o.stuck (page .hbm false) = false ∧ s.lpddrUsed < Config.lpddrPages) ∧
    (let o := { oMat with pages := [page .absent false] }
     let s := { so co with objs := [o], hbmUsed := (List.range 8).map (fun d => (d, 1572864)), lpddrUsed := 25165824 }
     s.place 0 = none ∧ s.allHeld (s.rootOf 1) = false) ∧
    (let o := { oMat with pages := [page .hbm false] }
     let s := { so co with objs := [o], plots := [me, (root.set 448 48 1000000).set 1280 48 0], lastCharge := 1 }
     s.rootOf (page .hbm false).charge = s.roomFor) ∧
    (page .lpddr false).tier = .lpddr ∧ (page .hbm false).tier = .hbm ∧ (page .poison true).tier ≠ .lpddr ∧
    (let b (counts : List (Nat × Nat)) (alerts waiting : List Nat) : BankRows := ⟨3, 4, counts, alerts, 0, 0, 0, waiting, []⟩
     ∀ x ∈ [([(7, 5)], [], []), ([(7, 5)], [9], []), ([(7, 5)], [9], [7]), ([], [9, 7], [])],
       let s := { so co with rows := [b x.1 x.2.1 x.2.2] }
       s.window = s.ts / 32000000 ∧ s.rows = [b x.1 x.2.1 x.2.2] ∧ (b x.1 x.2.1 x.2.2).alerts = x.2.1 ∧
       (b x.1 x.2.1 x.2.2).waiting = x.2.2) ∧
    (countOf 7 [(7, 1022)] + 1 < Config.rowThreshold ∧ Config.rowThreshold ≤ countOf 7 [(7, 1023)] + 1 ∧
      [(7, 1022)] = [(7, countOf 7 [(7, 1022)])] ∧ [(7, 1023)] = [(7, countOf 7 [(7, 1023)])]) := by
  refine ⟨fun _ _ => ⟨rfl, rfl, rfl, rfl⟩, ⟨rfl, rfl, rfl, rfl, rfl⟩, ?_⟩
  decide +kernel
/-- A FETCH that waits for an ABSENT page, and a template that waits for it, when the tenant has nothing to give up. -/
theorem witness_MissingPages :
    let r : PageRef := ⟨0, 2, 0, 0⟩
    let q := { rqOf (.fetch .plain) (hOf 2 true 0) 2 .waiting with origin := [0, 0], absent := true }
    let o := { oMat with pages := [page .absent false], frz := [⟨0, 1, false, [], [], [], []⟩] }
    let s := { sr [o] q with hbmUsed := (List.range 8).map (fun d => (d, 1572864)), lpddrUsed := 25165824, core := { co with tmplW := some (r, false) } }
    s.objAt r.home r.index = some o ∧ o.pages = [page .absent false] ∧ (page .absent false).copy = false ∧ s.place (page .absent false).die = none ∧
    s.allHeld (s.rootOf (page .absent false).charge) = true ∧ s.waitFor r = [q] ∧ isCurrent s q.party ∧ s.core.tmplW = some (r, false) :=
  ⟨rfl, rfl, rfl, by decide +kernel, by decide +kernel, by decide +kernel, ⟨t0, rfl, rfl, rfl⟩, rfl⟩

/-! ### The host port, the links and management -/

/-- An administrative pair: 16 entries each way, STATUS and ENABLE as given. -/
def qp (status enable : Nat) : QPair :=
  ⟨3, BitVec.ofNat 512 (2 ^ 64 * 8192 + 4096 + 4 * 2 ^ 224 + 4 * 2 ^ 232 + enable * 2 ^ 288 + status * 2 ^ 296), 0, 0, 0, 0, 0, 0, true, true, [], [], false⟩
theorem witness_QueuePairs :
    ((qp 1 1).n < 1024 ∧ pairField (qp 1 1) 296 8 = 1 ∧ { qp 1 1 with pend := [5] }.pend ≠ []) ∧
    (pairField (qp 0 0) 296 8 ≠ 1 ∧ (qp 0 0).badFields = false ∧ pairField (qp 0 0) 192 32 = 0 ∧ State.reset.adminOk = false ∧
      { qp 0 0 with regs := 0 }.badFields = true ∧ pairField (qp 0 0) 288 1 = 0) ∧
    (let q := { qp 1 1 with pend := [5], cqTail := 15 }
     q.pend = 5 :: [] ∧ Memory.wf s0.hostMem ∧ (q.cqTail + 1) % 2 ^ pairField q 232 8 = q.cqHead ∧
     (q.cqTail + 1) % 2 ^ pairField q 232 8 ≠ { q with cqHead := 1 }.cqHead) ∧
    (pairField (qp 0 1) 296 8 ≠ 1 ∧ pairField (qp 0 1) 288 1 = 1 ∧ (1 : BitVec 32).getLsbD 0 = true ∧
      pairField { qp 0 0 with regs := (qp 0 0).regs + BitVec.ofNat 512 (9 * 2 ^ 192) } 192 32 = 9) ∧
    ({ qp 1 1 with wrote := true }.wrote = true ∧ pairField { qp 1 1 with regs := (qp 1 1).regs + BitVec.ofNat 512 (2 ^ 289) } 289 1 = 1) := by
  decide +kernel
/-- An aperture of the matrix, read-only and writable, and the last bytes it reaches; a granule whose tenure has and has not passed. -/
theorem witness_AperturesAndGranules :
    (State.reset.aperture (4194304 / 4194304) = none) ∧
    (∀ w, let a : Aperture := ⟨1, mkHandle 0 2 1, 0, w, 0, 0⟩
      { so co with apertures := [a] }.aperture ((4194304 + 4088) / 4194304) = some a ∧ a.ver = 0 ∧ a.write = w) ∧
    ((so co).objOf (mkHandle 0 2 1) = some oMat ∧ oMat.live = true ∧ reachable oMat ∧ 0 + (4194304 + 4088) % 4194304 + 8 ≤ oMat.size ∧
      oMat.grains = [] ∧ oMat.frz = [] ∧ oMat.pages = []) ∧
    (∀ held ∈ [true, false], let o := { oMat with pages := [page .hbm held] }
     (so co).hostMustHold (barKey 4088) o 0 (pagesOf ((List.range 8).map (4088 + ·))) = held) ∧
    (∀ held ∈ [true, false], let g : GranuleRef := ⟨0, 2, 0⟩
     let o := { oMat with pages := [page .hbm held] }
     let x : Granule := ⟨g, false, 100, true, [], [(4, 7)]⟩
     x.moving = true ∧ x.accel = false ∧ x.dirty ≠ [] ∧ x.queue = [] ∧ (∀ p ∈ o.pages, p.res ≠ .absent) ∧
     (so co).hostMustHold (GranuleRef.key g) o 0 (pagesOf (x.dirty.map (·.1))) = held) ∧
    (let g : GranuleRef := ⟨0, 2, 0⟩
     let o := oMat.setE 34 1 1
     let x : Granule := ⟨g, true, 100, false, [], []⟩
     let s := { so co with cxl := true, granules := [x], objs := [o], ts := 2099 }
     (s.cxl = true ∧ s.granules = [x] ∧ x.at_ = g ∧ s.objAt g.home g.index = some o ∧ o.valid = true ∧ o.hostsh = true ∧ (so co).cxl = false) ∧
     (GranuleAccess.host (.load 0 8) = x.accel ∧ GranuleAccess.host (.device 1) ≠ x.accel ∧ GranuleAccess.device 1 ∉ x.queue) ∧
     (x.moving = false ∧ { x with moving := true }.moving = true ∧ { x with accel := false }.accel = false ∧ s.ts < x.since + 2000 ∧
       x.since ≠ 0 ∧ { x with since := 99 }.since + 2000 ≤ s.ts ∧ x.queue = []) ∧
     ({ x with moving := true, queue := [.load 0 8] }.queue = [.load 0 8] ∧
       { x with queue := [.load 0 8, .device 1] }.queue = .load 0 8 :: [.device 1])) := by
  refine ⟨by decide +kernel, fun _ => ⟨rfl, rfl, rfl⟩, ⟨by decide +kernel, by decide +kernel, ⟨by decide +kernel, by decide +kernel⟩,
    by decide +kernel, rfl, rfl, rfl⟩, by decide +kernel, by decide +kernel, by decide +kernel⟩
/-- A command of the administrative pair with five words. -/
def cmdOf (plot a32 : BitVec 32) (w0 w1 w2 w3 w4 : Word) : Command := ⟨3, 1, 0, false, 0, plot, a32, w0, w1, w2, w3, w4, 0⟩
def sc (c : Command) : State := { so co with pairs := [qp 1 1], cmd := c }
/-- A descriptor image of a ROOT at address 64. -/
def image : List Host.Cell := memPut [] 64 (toBytes 256 (2 ^ 16))
theorem admin_sc (c : Command) (h : c.pair = 3) : byAdmin (sc c) c := ⟨qp 1 1, by rw [h]; rfl, by decide +kernel⟩
theorem witness_PlotCommands :
    (let s := { sc (cmdOf 0 0 64 0 0 0 0) with hostMem := image }
     plainArgs s.cmd 0 64 0 0 0 0 ∧ s.cmd.w0.toNat % 64 = 0 ∧ s.cmd.plot = 0 ∧ s.plotAt 0 = none ∧ s.plots.length < 2 ^ 31 ∧
     badDesc (BitVec.ofNat 2048 (memRead s.hostMem s.cmd.w0.toNat 256)) none false = false ∧ badDesc 0 none false = true) ∧
    (let s := { sc (cmdOf 9 0 0 0 0 0 0) with plots := [root] }
     plotsUnique s ∧ s.plotAt s.cmd.plot.toNat = some root ∧ root.kind = kindRoot ∧ plainArgs s.cmd 0 0 0 0 0 0 ∧ root.state = stActive ∧
     (∀ k ∈ s.children root.id, 2 ≤ k.state) ∧ s.saved = [] ∧ s.endings = [] ∧ ∀ c ∈ { s with core := Core.reset 0 }.cores, c.task = none) ∧
    (plainArgs (cmdOf 9 0 0x7FFFFBE 0 0 0 0) 0 27 0 0 0 0 ∧ (0x7FFFFBE : Word).getLsbD 0 = false ∧ (0x7FFFFBE : Word).getLsbD 6 = false) ∧
    plainArgs (cmdOf 9 1 0 0 0 0 0) 1 0 0 0 0 0 ∧
    (let s := sc (cmdOf 9 0 100 0 0 0 0)
     plainArgs s.cmd 0 48 0 0 0 0 ∧ ((s.plots.filter fun k => k.kind = kindRoot && k.id ≠ root.id).map (·.minhbm)).sum + s.cmd.w0.toNat ≤
       s.poolBytes) ∧
    (plainArgs (cmdOf 9 63 1 1023 0 0 0) 6 2 10 0 0 0 ∧ 2 ≤ (63#32).toNat) ∧
    (let s := sc (cmdOf 9 0 (mkHandle 0 6 1) 7 0 0 0)
     let d := (oTmp tmpl).template (if (oTmp tmpl).live then 0 else (oTmp tmpl).curv)
     s.objOf s.cmd.w0 = some (oTmp tmpl) ∧ templateOk (oTmp tmpl) ∧ plainArgs s.cmd 0 64 4 0 0 0 ∧ s.cmd.w1.toNat < 8 ∧
     field d 0 4 = kindTaskset ∧ badDesc d (some root) false = false) ∧
    (∀ held, let s := { sc (cmdOf 1 0 1 0 0 0 0) with saved := [saved held] }
      s.saved = [saved held] ∧ (saved held).core.task = some t0 ∧ t0.plot = 1 ∧ t0.inst = 1 ∧ (saved held).held = held ∧
      plainArgs s.cmd 0 32 0 0 0 0 ∧ (s.plotAt 1).isSome = true) := by
  refine ⟨?_, ?_, ?_, ?_, ?_, ?_, ?_, fun held => ⟨rfl, rfl, rfl, rfl, rfl, ?_, rfl⟩⟩ <;>
    simp only [plainArgs, plotsUnique, templateOk] <;> decide +kernel
/-- The journal's one entry; a member saved in slot 0; a new object's form; the last 8 bytes of the matrix. -/
theorem witness_ObjectCommands :
    (let s := { sc (cmdOf 0 0 1 65536 0 64 0) with journal := [(1, 5)] }
     plainArgs s.cmd 0 64 64 0 64 0 ∧ s.cmd.w1 ≠ 0 ∧ s.cmd.w1.toNat ≤ 65536 ∧ s.cmd.w3.toNat % 64 = 0 ∧
     (∀ e ∈ s.journal.head?, e.1 ≤ s.cmd.w0.toNat) ∧ s.journal ≠ [] ∧ Memory.wf s.hostMem) ∧
    (let z : Frz := ⟨0, 1, false, [], [], [], []⟩
     { oMat with frz := [z] }.rowFrozen 0 = true ∧ oMat.rowFrozen 0 = false) ∧
    (∀ held, let v := { saved held with slot := some 0 }
      let p := { me with desc := me.desc + BitVec.ofNat 2048 ((mkHandle 0 2 1).toNat * 2 ^ 704) }
      let s := { sc (cmdOf 1 0 1 921592 8 0 0) with saved := [v], plots := [p, root] }
      plainArgs s.cmd 1 35 64 64 64 0 ∧ s.cmd.w1.toNat + s.cmd.w2.toNat ≤ 921600 ∧ s.saved = [v] ∧ v.core.task = some t0 ∧ t0.plot = 1 ∧
      t0.inst = s.cmd.w0.toNat % 2 ^ 32 ∧ t0.member = s.cmd.w0.toNat / 2 ^ 32 ∧ s.plotAt 1 = some p ∧ s.objOf p.save = some oMat ∧
      v.slot = some 0 ∧ v.held = held ∧ Memory.wf s.hostMem ∧
      ∀ moving ∈ [true, false], let o := { oMat with pages := [{ page .hbm moving with num := 14 }] }
        (∀ g ∈ o.pages, g.res ≠ .absent) ∧
        s.hostMustHold s.cmd.seq o 0 (pagesOf ((List.range s.cmd.w2.toNat).map (921600 * 0 + s.cmd.w1.toNat + ·))) = moving) ∧
    (let s := sc (cmdOf 9 0 (BitVec.ofNat 64 (5 + 2 ^ 13 + 2 ^ 17)) 8 0 0 16383)
     plainArgs s.cmd 0 64 64 64 64 14 ∧ s.cmd.w0.getLsbD 19 = false ∧
     badForm s.cmd.w0.toNat s.cmd.w1.toNat s.cmd.w2.toNat s.cmd.w3.toNat s.cxl = false ∧ badForm 0 0 0 0 s.cxl = true ∧
     (∀ q ∈ s.ancestors s.cmd.plot.toNat, q.hbmb = 0) ∧ (s.plotAt s.cmd.plot.toNat).isSome = true ∧ s.cxl = false ∧
     (BitVec.ofNat 64 (5 + 2 ^ 13 + 2 ^ 17 + 2 ^ 19)).getLsbD 19 = true) ∧
    (let s := sc (cmdOf 0 0 (mkHandle 0 2 1) 4088 8 0 0)
     s.cmd.plot = 0 ∧ s.objOf s.cmd.w0 = some oMat ∧ plainArgs s.cmd 0 64 64 64 64 0 ∧ oMat.live = true ∧ reachable oMat ∧ oMat.readable 0 = true ∧
     s.cmd.w2 ≠ 0 ∧ s.cmd.w2.toNat ≤ 2 ^ 32 ∧ s.pinOfCmd s.cmd = none ∧ oMat.grains = [] ∧ oMat.frz = [] ∧
     s.hostMustHold s.cmd.seq oMat 0 (pagesOf ((List.range s.cmd.w2.toNat).map (s.cmd.w1.toNat + ·))) = false ∧
     s.hostMustHold s.cmd.seq { oMat with pages := [page .hbm true] } 0 (pagesOf ((List.range s.cmd.w2.toNat).map (s.cmd.w1.toNat + ·))) = true ∧
     s.cmd.w1.toNat + s.cmd.w2.toNat ≤ oMat.size ∧ plainArgs (cmdOf 0 0 (mkHandle 0 2 1) 0 0 0 0) 0 64 0 0 0 0) ∧
    (let s := sc (cmdOf 0 1023 (mkHandle 0 2 1) 0 1 0 0)
     plainArgs s.cmd 10 64 64 64 0 0 ∧ s.cmd.w0 ≠ 0 ∧ s.cmd.w2.toNat < 2 ∧ s.cmd.w1.toNat % 4096 = 0 ∧ s.apertures = [] ∧ oMat.hostsh = false) := by
  refine ⟨?_, by decide +kernel, fun held => ?_, ?_, ?_, ?_⟩
  · simp only [plainArgs]; decide +kernel
  · cases held <;> simp only [plainArgs] <;> decide +kernel
  · simp only [plainArgs]; decide +kernel
  · simp only [plainArgs, reachable]; decide +kernel
  · simp only [plainArgs]; decide +kernel
theorem witness_LinksAndErrors :
    (s0.portTo 5 = some 5 ∧ { s0 with errors := (List.range 18).flatMap fun p => [⟨.lane p 0, [], 0, true⟩, ⟨.lane p 8, [], 0, true⟩] }.portTo 5 = none ∧
      s0.peers = [] ∧ s0.heldReads = []) ∧
    (∀ c ∈ [(5, true), (200, false)], let p : Peer := ⟨c.1, 3, [⟨2, 7, .invalidate ⟨0, 0, 0, 0⟩⟩], Vector.replicate 5 7, false, false⟩
     let s := { s0 with peers := [p] }
     let next (b : LinkBody) : Nat := p.recvd.get (s.chanOf p.pkg b)
     s.peers = [p] ∧ s.heldReads = [] ∧ (s.portTo p.pkg).isSome = true ∧ s.sameRack p.pkg = c.2 ∧ isAck (.invalidate ⟨0, 0, 0, 0⟩) = false ∧
     (∀ b ∈ [LinkBody.invalidate ⟨0, 0, 0, 0⟩, .castAck ⟨0, 2, 0, 0⟩ (.rack 1), .hello true], 6 < next b ∧ next b < 8 ∧ 7 = next b) ∧
     p.lost = false ∧ (∀ m ∈ p.unacked, m.seq ≠ 4) ∧ s.ts < 7 + 1000000 ∧ 7 + 1000000 ≤ { s with ts := 1000007 }.ts) ∧
    (∀ n, CastPlace.here ≠ .rack n) ∧
    (let z : Frz := ⟨0, 0, true, [], [.rack 0], [5, 6], []⟩
     let o := { oMat with frz := [z] }
     { so co with objs := [o] }.objAt 0 2 = some o ∧ o.frz = [z] ∧ z.page = 0) ∧
    (Resource.exists_ (.lane 19 15) = true ∧ Resource.exists_ (.lane 20 0) = false ∧
      { s0 with errors := [⟨.lane 19 15, [0, 0], 0, false⟩] }.errors = [⟨.lane 19 15, [0, 0], 0, false⟩] ∧ s0.ts < 0 + 86400000000000) ∧
    ((-100 : Int) ≤ -100 ∧ (100 : Int) ≤ 100) ∧
    ((86400000000000 : Nat) < 1 + 86400000000000 ∧ State.reset.errors = []) ∧
    (let o := { oMat with pages := [page .hbm false] }
     coresUnique (so co) ∧ { so co with objs := [o] }.objAt 0 2 = some o ∧ o.pages = [page .hbm false] ∧ (page .hbm false).res = .hbm ∧
     511 / 512 = (page .hbm false).num) := by
  refine ⟨by decide +kernel, by decide +kernel, (fun _ h => nomatch h), by decide +kernel, by decide +kernel, by decide, by decide, ?_⟩
  simp only [coresUnique]; decide +kernel
/-- The digest of "abc" that the standard of R2's hash gives. -/
theorem test_sha256 : sha256 [0x61, 0x62, 0x63] = [0xba, 0x78, 0x16, 0xbf, 0x8f, 0x01, 0xcf, 0xea, 0x41, 0x41, 0x40, 0xde, 0x5d, 0xae, 0x22,
    0x23, 0xb0, 0x03, 0x61, 0xa3, 0x96, 0x17, 0x7a, 0x9c, 0xb4, 0x10, 0xff, 0x61, 0xf2, 0x00, 0x15, 0xad] := by decide +kernel
theorem witness_PowerAndManagement :
    State.reset.power = .starting ∧ s0.power ≠ .starting ∧ (1200 : Nat) ≤ 3400 ∧ ¬ (3400 : Nat) < 3400 := by decide

/-! ### The machine as a whole -/

/-- Two bundles at address 0: ADD x1, x2, x3 and an empty one; the core is at their issue. -/
def addWords : List Byte := toBytes 16 (0x01 + 2 ^ 64 * 0x0000000030810002)
def sIssue (code : List Byte) : State := st { c0 with stage := .issue, code := memPut [] 0 code, codeLen := code.length }
theorem witness_StepRunsDecoded :
    issues (sIssue addWords) ⟨.none, 0, [⟨.s, ⟨0, false⟩, .add 1 2 3⟩]⟩ ∧ issues (sIssue (toBytes 8 0)) ⟨.none, 0, []⟩ := by
  refine ⟨?_, ?_⟩ <;>
    exact ⟨⟨rfl, rfl, rfl, by decide, rfl, rfl, by decide +kernel, rfl, fun h => nomatch h⟩, (fun _ h => nomatch (show none = some _ from h)),
      (fun _ h => nomatch (show none = some _ from h)), by decide +kernel⟩
/-- The same word with FIRST of level 1 (R36) at its issue: no level is active, the level is in its first iteration, and in its second. -/
theorem witness_BundleTests :
    let b : Bundle := ⟨.first 0, 0, [⟨.s, ⟨0, false⟩, .add 1 2 3⟩]⟩
    testLevel b.test = some 0 ∧ ∀ ls ∈ [[], [⟨0, 2, 0, 16, 0, 0⟩], [⟨1, 2, 0, 16, 0, 0⟩]],
      let c := { c0 with stage := .issue, loops := ls, code := memPut [] 0 (toBytes 16 (0x9001 + 2 ^ 64 * 0x0000000030810002)), codeLen := 16 }
      reachesIssue (st c) b ∧ levelNo (st c).core 0 = ls.head? ∧ ∀ l ∈ ls, testSays b.test l ↔ l.lc = 0 := by
  refine ⟨rfl, fun ls h => ?_⟩
  simp only [List.mem_cons, List.not_mem_nil, or_false] at h
  rcases h with rfl | rfl | rfl <;>
    refine ⟨⟨rfl, rfl, rfl, by decide, rfl, rfl, by decide +kernel, rfl, fun h => nomatch h⟩, rfl, ?_⟩ <;>
    simp only [testSays] <;> decide
/-- What a syllable may do to a bundle: it is performed, with few results in flight and with 48; it traps, is held, stops the clock, or
waits for a furrow that nobody fills. -/
theorem witness_StepCases :
    (∃ t, performs 0 16 0 [⟨.s, ⟨0, false⟩, .add 1 2 3⟩] (landedFor (sIssue addWords)) t ∧ t.core.vInFlight ≤ 48) ∧
    (∃ t, exec .emptyBundle (landedFor (sIssue (toBytes 8 0))) = .next t ∧ t.core.vInFlight ≤ 48) ∧
    nextCore (exec (.vmovi 1 0 15) (st { c0 with inflight := List.replicate 48 ⟨9, .m 0 0⟩ })) (fun c => decide (48 < c.vInFlight)) = true ∧
    nextCore (exec .ret s0) (fun c => decide (c.out = .trapped .callDepth 0)) = true ∧
    nextCore (exec .mswap (se (eRun 14))) (fun c => decide (c.out = .held)) = true ∧
    nextCore (exec (.fwait 3 2) (so (withX 2 2 co))) (fun c => decide (c.out = .orphaned)) = true ∧
    nextCore (exec (.qclr 5 1) (so { co with sbchk := false })) (fun c => decide (c.out = .stopped)) = true := by
  refine ⟨⟨_, ⟨_, rfl, rfl, rfl⟩, ?_⟩, ⟨_, rfl, ?_⟩, ?_, ?_, ?_, ?_, ?_⟩ <;> decide +kernel
theorem witness_RoundTrips :
    (∃ slot g i w, Instr.wf i = true ∧ encodeSyllable slot g i = some w ∧ i.readsLimm = false) ∧
    (∃ i ws, Instr.wf i = true ∧ i.loopEndOk 16 = true ∧ encode i = some ws) ∧ ∃ i w, encodeMicro i = some w :=
  ⟨⟨.s, ⟨15, true⟩, .add 63 63 63, _, by decide, rfl, rfl⟩, ⟨.loop 3 2, _, by decide, by decide, rfl⟩, ⟨.mend, _, rfl⟩⟩
theorem witness_MemoryIsLittleEndian : Memory.wf [] ∧ Memory.wf (memWrite [] 4 8 0x0102030405060708) := by decide +kernel
theorem witness_StepKeepsSteady : Steady (sIssue addWords) ∧ ∃ t, step (sIssue addWords) = .next t :=
  ⟨⟨by decide +kernel, by decide, by decide, by decide, by decide, by decide, by decide⟩, _, rfl⟩
end Sys2Proof.Tests
end

/-! PROOFS. Memories: what O58 says of a write, and that the canonical form is unique. -/
namespace Sys2Proof.Machine

/-- The least listed key of a canonical map does not read as the default. -/
theorem sparseGet_head_ne {α : Type} [DecidableEq α] {d : α} {lo j : Nat} {w : α} {r : List (Nat × α)}
    (h : sparseWf d lo ((j, w) :: r) = true) : sparseGet d ((j, w) :: r) j ≠ d := by
  simp only [sparseWf, Bool.and_eq_true, decide_eq_true_eq] at h
  simpa [sparseGet] using h.1.2

/-- A canonical map that reads as the default everywhere lists nothing. -/
theorem sparse_eq_nil {α : Type} [DecidableEq α] {d : α} {lo : Nat} {m : List (Nat × α)} (h : sparseWf d lo m = true)
    (hd : ∀ a, sparseGet d m a = d) : m = [] := by
  cases m with
  | nil => rfl
  | cons e r => exact absurd (hd e.1) (sparseGet_head_ne h)

/-- Of two canonical maps that read alike, neither begins above the other's least key. -/
theorem sparse_head_le {α : Type} [DecidableEq α] {d : α} {lo j j' : Nat} {w w' : α} {r r' : List (Nat × α)}
    (h : sparseWf d lo ((j, w) :: r) = true)
    (heq : ∀ a, sparseGet d ((j, w) :: r) a = sparseGet d ((j', w') :: r') a) : j' ≤ j := by
  refine Nat.le_of_not_lt fun hlt => sparseGet_head_ne h ?_
  rw [heq j, sparseGet_cons, if_neg (by omega), if_pos (by omega)]

/-- Canonical maps that read alike are equal. -/
theorem sparse_ext {α : Type} [DecidableEq α] {d : α} : ∀ {m m' : List (Nat × α)} {lo lo' : Nat},
    sparseWf d lo m = true → sparseWf d lo' m' = true → (∀ a, sparseGet d m a = sparseGet d m' a) → m = m'
  | [], _, _, _, _, h', heq => (sparse_eq_nil h' fun a => (heq a).symm).symm
  | _ :: _, [], _, _, h, _, heq => sparse_eq_nil h heq
  | (j, w) :: r, (j', w') :: r', _, _, h, h', heq => by
    obtain rfl : j = j' := Nat.le_antisymm (sparse_head_le h' fun a => (heq a).symm) (sparse_head_le h heq)
    obtain rfl : w = w' := by simpa [sparseGet] using heq j
    simp only [sparseWf, Bool.and_eq_true] at h h'
    rw [sparse_ext h.2 h'.2 fun a => ?_]
    by_cases ha : a ≤ j
    · rw [sparseGet_below h.2 a (by omega), sparseGet_below h'.2 a (by omega)]
    · simpa only [sparseGet_cons, if_neg (show ¬ j = a by omega), if_neg (show ¬ a < j by omega)] using heq a

/-- Reading where bytes were put gives those bytes. -/
theorem memBytes_put {m : Mem} (h : Memory.wf m) (bs : List Byte) (a : Nat) : memBytes (memPut m a bs) a bs.length = bs := by
  refine List.ext_getElem (memBytes_length ..) fun k hk hk' => ?_
  have hread := memBytes_getD (memPut m a bs) bs.length a k hk'
  rw [memGet_put bs a h, if_pos ⟨by omega, by omega⟩, Nat.add_sub_cancel_left] at hread
  simpa [List.getD_eq_getElem?_getD, hk, hk'] using hread

theorem memRead_write {m : Mem} (h : Memory.wf m) (a n v : Nat) : memRead (memWrite m a n v) a n = v % 256 ^ n := by
  have hbytes := memBytes_put h (toBytes n v) a
  rw [toBytes_length] at hbytes
  rw [memRead, memWrite, hbytes, ofBytes_toBytes]

theorem memGet_write_inside {m : Mem} (h : Memory.wf m) (a n v k : Nat) (hk : k < n) :
    memGet (memWrite m a n v) (a + k) = BitVec.ofNat 8 (v / 256 ^ k) := by
  rw [memWrite, memGet_put _ a h, if_pos (by simpa using hk), Nat.add_sub_cancel_left, toBytes_getD n v k hk]

theorem memGet_write_outside {m : Mem} (h : Memory.wf m) (a n v b : Nat) (hb : b < a ∨ a + n ≤ b) :
    memGet (memWrite m a n v) b = memGet m b := by
  rw [memWrite, memGet_put _ a h, toBytes_length, if_neg (by omega)]

/-- Settles O58: what a write puts reads back by `memBytes_put`, and canonical maps that read alike are equal. -/
theorem memoryIsLittleEndian : Obligations.MemoryIsLittleEndian :=
  ⟨fun _ a n v h => ⟨memRead_write h a n v, memGet_write_inside h a n v, memGet_write_outside h a n v⟩,
    fun _ _ h h' => sparse_ext h h'⟩

/-- Settles O60: reset gives an empty host memory, the highest cap and no correction. -/
theorem resetIsSteady : Obligations.ResetIsSteady :=
  ⟨memEmpty_wf, by decide, by decide, by decide, by decide, by decide, by decide⟩

end Sys2Proof.Machine

/-! PROOFS. What `Steady` speaks of: every operation on the state but the few that are about it leaves it as it was. -/
namespace Sys2Proof.Machine

/-- The fields of the state that `Steady` speaks of: host memory, the power cap, the timestamp's phase and its correction. -/
def State.kept (s : State) : Mem × Nat × Nat × Int × Nat := (s.hostMem, s.powerCap, s.tsPhase, s.slew, s.slewAcc)
/-- What `Steady` says of them. -/
def KeptSteady : Mem × Nat × Nat × Int × Nat → Prop
  | (mem, cap, phase, slew, acc) => Memory.wf mem ∧ 1200 ≤ cap ∧ cap ≤ 3400 ∧ phase < 21 ∧ -100 ≤ slew ∧ slew ≤ 100 ∧ acc < 1000000
theorem steady_iff_kept (s : State) : Steady s ↔ KeptSteady s.kept := Iff.rfl

/-- An update of any of the other fields leaves them. (Here and below the proof is `by rfl`, not `rfl`: a theorem proved by `rfl`
itself is one that simp uses for definitional unfolding only, and it would leave the kernel to unfold the whole state.) -/
@[simp] theorem State.with_kept (s : State) (cycle ts freeCtr core behind ahead fenced pkg inbox agenda subj cmd cmdWait reqs
    nextReq colls objs token hbmUsed lpddrUsed lastCharge localCasts told hostHeld cmdPins overflow mlc plots nextPlot nextInst
    disps saved endings rows window cxl pairs apertures discards journal nextSeq journTs journWait granules answers irqs peers
    outbox heldReads errors ways retiring power reason unit test adminOk throttled firmware staged reports) :
    State.kept { s with
      cycle, ts, freeCtr, core, behind, ahead, fenced, pkg, inbox, agenda, subj, cmd, cmdWait, reqs, nextReq, colls, objs,
      token, hbmUsed, lpddrUsed, lastCharge, localCasts, told, hostHeld, cmdPins, overflow, mlc, plots, nextPlot, nextInst,
      disps, saved, endings, rows, window, cxl, pairs, apertures, discards, journal, nextSeq, journTs, journWait, granules,
      answers, irqs, peers, outbox, heldReads, errors, ways, retiring, power, reason, unit, test, adminOk, throttled,
      firmware, staged, reports } = s.kept := by rfl
@[simp] theorem ite_kept {c : Prop} [Decidable c] (s t : State) :
    (if c then s else t).kept = if c then s.kept else t.kept := apply_ite ..
@[simp] theorem foldl_kept {α : Type} {f : State → α → State} (h : ∀ s a, (f s a).kept = s.kept) (l : List α) (s : State) :
    (l.foldl f s).kept = s.kept := by
  induction l generalizing s with
  | nil => rfl
  | cons a r ih => rw [List.foldl_cons, ih, h]
/-- An answer of one attempt or of the next comes from one of the two. -/
theorem eq_some_of_orElse {α : Type} {a : α} : ∀ {o o' : Option α}, (o <|> o') = some a → o = some a ∨ o' = some a
  | none, _, h => .inr h
  | some _, _, h => .inl h

/-! ### The agenda, the cores, taking a trap (Sys2Proof/Machine/Ops) -/

@[simp] theorem State.tick_kept (s : State) : s.tick.kept = s.kept := by rfl
@[simp] theorem State.later_kept (s : State) (subj : Nat) (i : Instr) : (s.later subj i).kept = s.kept := by rfl
@[simp] theorem State.after_kept (s : State) (n subj : Nat) (i : Instr) : (s.after n subj i).kept = s.kept := by rfl
@[simp] theorem State.again_kept (s : State) (subj : Nat) (i : Instr) : (s.again subj i).kept = s.kept := by rfl
@[simp] theorem State.modCore_kept (s : State) (f : Core → Core) : (s.modCore f).kept = s.kept := by rfl
@[simp] theorem State.mapCores_kept (s : State) (f : Core → Core) : (s.mapCores f).kept = s.kept := by rfl
@[simp] theorem State.modCoreAt_kept (s : State) (id : Nat) (f : Core → Core) : (s.modCoreAt id f).kept = s.kept := by rfl
@[simp] theorem State.takeTrap_kept (s : State) (k : Cause) (targ : Word) : (s.takeTrap k targ).kept = s.kept := by rfl
@[simp] theorem State.takeLate_kept (s : State) (core : Nat) (k : Cause) (r : Option Replay) :
    (s.takeLate core k r).kept = s.kept := by rfl

/-! ### The end of a cycle (Sys2Proof/Machine/Control) -/

@[simp] theorem State.returnSlots_kept (s : State) (c : Core) (f : Fin 32) (n : Nat) : (s.returnSlots c f n).kept = s.kept := by
  induction n generalizing s with
  | zero => rfl
  | succ n ih => simp [State.returnSlots, ih]
@[simp] theorem State.endEffects_kept (s : State) : s.endEffects.kept = s.kept := by
  rw [State.endEffects, foldl_kept fun _ _ => State.returnSlots_kept ..]
  rfl

/-! ### Updates by number, casts, the memory-side cache (Sys2Proof/Machine/Lookup) -/

@[simp] theorem State.modObj_kept (s : State) (home index : Nat) (f : Obj → Obj) : (s.modObj home index f).kept = s.kept := by rfl
@[simp] theorem State.modPlot_kept (s : State) (id : Nat) (f : Plot → Plot) : (s.modPlot id f).kept = s.kept := by rfl
@[simp] theorem State.modChain_kept (s : State) (id : Nat) (f : Plot → Plot) : (s.modChain id f).kept = s.kept := by rfl
@[simp] theorem State.modParty_kept (s : State) (p : Party) (f : Core → Core) : (s.modParty p f).kept = s.kept := by rfl
@[simp] theorem State.modTask_kept (s : State) (p : Party) (f : Core → Core) : (s.modTask p f).kept = s.kept := by rfl
@[simp] theorem State.formCasts_kept (s : State) (o : Obj) (v : Nat) (ns : List Nat) (at_ : CastPlace) :
    (s.formCasts o v ns at_).kept = s.kept := by
  simp [State.formCasts]
@[simp] theorem State.mlcPut_kept (s : State) (alloc : Bool) (o : Obj) (v ver chunk : Nat) (at_ : Nat × Bool) :
    (s.mlcPut alloc o v ver chunk at_).kept = s.kept := by
  simp [State.mlcPut]
@[simp] theorem State.mlcChunk_kept (s : State) (alloc : Bool) (from_ : Option Nat) (o : Obj) (v chunk : Nat) :
    (s.mlcChunk alloc from_ o v chunk).kept = s.kept := by
  unfold State.mlcChunk
  split <;> simp
@[simp] theorem State.mlcTouch_kept (s : State) (alloc : Bool) (from_ : Option Nat) (home index v : Nat) (bs : List Nat) :
    (s.mlcTouch alloc from_ home index v bs).kept = s.kept := by
  unfold State.mlcTouch
  split <;> simp
@[simp] theorem State.mlcDrop_kept (s : State) (home index ver num : Nat) : (s.mlcDrop home index ver num).kept = s.kept := by rfl

/-! ### Issue and replays (Sys2Proof/Machine/Issue) -/

@[simp] theorem State.toStage_kept (s : State) (g : Stage) : (s.toStage g).kept = s.kept := by rfl
@[simp] theorem State.clockStop_kept (s : State) : s.clockStop.kept = s.kept := by rfl
/-- A bundle's outcome starts from the state before its syllables or from the one after them. -/
theorem settle_kept (s : State) (addr len stall would : Nat) (late : Bool) (r : State × Tally) :
    (settle s addr len stall would late r).kept = s.kept ∨ (settle s addr len stall would late r).kept = r.1.kept := by
  unfold settle
  dsimp only
  generalize (r.2.held || _) = held
  split
  · simp
  · split
    · simp
    · split
      · simp
      · split <;> simp
@[simp] theorem State.reissue_kept (s : State) (r : Req) : (s.reissue r).kept = s.kept := by rfl
@[simp] theorem replayRewritten_kept (ex : Instr → State → Out) (s : State) (p : Replay) (r : Req) :
    (replayRewritten ex s p r).kept = s.kept := by
  unfold replayRewritten
  dsimp only
  repeat' split
  all_goals simp
@[simp] theorem replaySlot_kept (ex : Instr → State → Out) (s : State) (p : Replay) (id : Nat) :
    (replaySlot ex s p id).kept = s.kept := by
  unfold replaySlot
  split <;> simp

/-! ### Object syllables at issue (Sys2Proof/Machine/Objects) -/

@[simp] theorem State.fail_kept (s : State) (k : Cause) : (s.fail k).kept = s.kept := by rfl
@[simp] theorem State.held_kept (s : State) : s.held.kept = s.kept := by rfl
@[simp] theorem State.checked_kept {s : State} {f : State → State} (h : (f s).kept = s.kept) (ks : List (Bool × Cause)) :
    (s.checked ks f).kept = s.kept := by
  unfold State.checked
  split <;> simp [h]
@[simp] theorem State.send_kept (s : State) (r : Req) (i : Instr) : (s.send r i).kept = s.kept := by rfl
@[simp] theorem State.sendQ_kept (s : State) (r : Req) (u : Due) (thaw : Bool) (i : Instr) :
    (s.sendQ r u thaw i).kept = s.kept := by rfl
@[simp] theorem State.dueH_kept (s : State) (h : Fin 16) (r : HReg) (u : Due) : (s.dueH h r u).kept = s.kept := by rfl
@[simp] theorem State.withObj_kept {s : State} {body : Obj → State} (h : ∀ o, (body o).kept = s.kept) (r : HReg) (rights : List Nat) :
    (s.withObj r rights body).kept = s.kept := by
  unfold State.withObj
  repeat' split
  all_goals simp [h]
@[simp] theorem State.holdProd_kept (s : State) (f : Fin 32) : (s.holdProd f).kept = s.kept := by rfl
@[simp] theorem State.holdCons_kept (s : State) (f : Fin 32) : (s.holdCons f).kept = s.kept := by rfl
theorem State.prodHold_kept {s t : State} {f : Fin 32} (h : s.prodHold f = some t) : t.kept = s.kept := by
  simp only [State.prodHold, Option.ite_none_right_eq_some, Option.some.injEq] at h
  simp [← h.2]
theorem State.consHold_kept {s t : State} {f : Fin 32} (h : s.consHold f = some t) : t.kept = s.kept := by
  simp only [State.consHold, Option.ite_none_right_eq_some, Option.some.injEq] at h
  simp [← h.2]
@[simp] theorem State.sendProd_kept (s : State) (r : Req) (f : Fin 32) (i : Instr) (named : Option (Due × Bool)) :
    (s.sendProd r f i named).kept = s.kept := by
  unfold State.sendProd
  split <;> simp
@[simp] theorem State.sendCons_kept (s : State) (r : Req) (f : Fin 32) (i : Instr) (named : Option (Due × Bool)) :
    (s.sendCons r f i named).kept = s.kept := by
  unfold State.sendCons
  split <;> simp
@[simp] theorem State.prefPage_kept (s : State) (o : Obj) (v n : Nat) : (s.prefPage o v n).kept = s.kept := by
  unfold State.prefPage
  repeat' split
  all_goals simp

/-! ### Pages and links (Sys2Proof/Machine/Store) -/

@[simp] theorem State.charge_kept (s : State) (plot n : Nat) : (s.charge plot n).kept = s.kept := by rfl
@[simp] theorem State.uncharge_kept (s : State) (plot n : Nat) : (s.uncharge plot n).kept = s.kept := by rfl
@[simp] theorem State.takePage_kept (s : State) (res : Residency) (die : Nat) : (s.takePage res die).kept = s.kept := by
  unfold State.takePage
  split <;> simp
@[simp] theorem State.dropPage_kept (s : State) (p : Page) : (s.dropPage p).kept = s.kept := by
  unfold State.dropPage
  split <;> simp
theorem State.newPages_kept {s : State} {ver plot die : Nat} {ns : List Nat} {r : State × List Page}
    (h : s.newPages ver plot die ns = some r) : r.1.kept = s.kept := by
  induction ns generalizing s r with
  | nil => cases h; rfl
  | cons n ns ih =>
    unfold State.newPages at h
    split at h
    · cases h
    · obtain ⟨q, hq, rfl⟩ := Option.map_eq_some_iff.mp h
      simp [ih hq]
@[simp] theorem State.sweepPages_kept (s : State) (home index : Nat) : (s.sweepPages home index).kept = s.kept := by
  unfold State.sweepPages
  split <;> simp
@[simp] theorem State.touchPage_kept (s : State) (home index v : Nat) (read : Bool) (n : Nat) :
    (s.touchPage home index v read n).kept = s.kept := by
  unfold State.touchPage
  repeat' split
  all_goals simp
@[simp] theorem State.sweepFrames_kept (s : State) (p : Party) : (s.sweepFrames p).kept = s.kept := by rfl
@[simp] theorem State.sweepTask_kept (s : State) (p : Party) : (s.sweepTask p).kept = s.kept := by
  simp [State.sweepTask]
@[simp] theorem State.cleanParty_kept (s : State) (p : Party) : (s.cleanParty p).kept = s.kept := by rfl
@[simp] theorem State.cacheTile_kept (s : State) (r : Req) (o : Obj) (v : Nat) (dirty : Bool) :
    (s.cacheTile r o v dirty).kept = s.kept := by rfl
@[simp] theorem State.useTile_kept (s : State) (r : Req) (o : Obj) (v : Nat) : (s.useTile r o v).kept = s.kept := by rfl
@[simp] theorem State.uncacheTile_kept (s : State) (r : Req) (o : Obj) : (s.uncacheTile r o).kept = s.kept := by rfl

/-! ### Requests at their homes (Sys2Proof/Machine/Home) -/

@[simp] theorem State.modPeer_kept (s : State) (pkg : Nat) (f : Peer → Peer) : (s.modPeer pkg f).kept = s.kept := by rfl
@[simp] theorem State.putPacket_kept (s : State) (pkg seq : Nat) (b : LinkBody) : (s.putPacket pkg seq b).kept = s.kept := by
  unfold State.putPacket
  split <;> simp
@[simp] theorem State.post_kept (s : State) (pkg : Nat) (b : LinkBody) : (s.post pkg b).kept = s.kept := by
  unfold State.post
  split <;> simp
@[simp] theorem State.meet_kept (s : State) (pkg : Nat) : (s.meet pkg).kept = s.kept := by
  simp [State.meet]
@[simp] theorem State.sendPeer_kept (s : State) (pkg : Nat) (b : LinkBody) : (s.sendPeer pkg b).kept = s.kept := by
  simp [State.sendPeer]
@[simp] theorem State.modReq_kept (s : State) (id : Nat) (f : Req → Req) : (s.modReq id f).kept = s.kept := by rfl
@[simp] theorem State.finish_kept (s : State) (id : Nat) : (s.finish id).kept = s.kept := by rfl
@[simp] theorem State.answer_kept (s : State) (id : Nat) (l : Landing) : (s.answer id l).kept = s.kept := by rfl
@[simp] theorem State.status_kept (s : State) (id code value : Nat) : (s.status id code value).kept = s.kept := by rfl
@[simp] theorem State.retry_kept (s : State) (r : Req) (i : Instr) : (s.retry r i).kept = s.kept := by rfl
@[simp] theorem State.unjoin_kept (s : State) (id : Nat) : (s.unjoin id).kept = s.kept := by
  simp [State.unjoin]
@[simp] theorem State.lateFail_kept (s : State) (r : Req) (k : Cause) : (s.lateFail r k).kept = s.kept := by
  unfold State.lateFail
  split <;> simp
@[simp] theorem State.takePlace_kept (s : State) (r : Req) (absent : Bool) : (s.takePlace r absent).kept = s.kept := by
  simp [State.takePlace]
@[simp] theorem State.hold_kept (s : State) (r : Req) (i : Instr) : (s.hold r i).kept = s.kept := by
  simp [State.hold]
@[simp] theorem State.holdAbsent_kept (s : State) (r : Req) (i : Instr) : (s.holdAbsent r i).kept = s.kept := by
  simp [State.holdAbsent]
theorem State.missing_kept {s t : State} {o : Obj} {v : Nat} {ns : List Nat} (h : s.missing o v ns = some t) : t.kept = s.kept := by
  unfold State.missing at h
  dsimp only at h
  split at h
  · cases h
  · cases h
    exact foldl_kept (fun s p => by simp) _ _
theorem State.missingFor_kept {s t : State} {r : Req} {o : Obj} {v : Nat} {ns : List Nat} (h : s.missingFor r o v ns = some t) :
    t.kept = s.kept := by
  unfold State.missingFor at h
  split at h
  next u hu => cases h; exact State.missing_kept hu
  next =>
    simp only [Option.ite_none_right_eq_some, Option.some.injEq] at h
    rw [h.2]
@[simp] theorem State.setGranule_kept (s : State) (x : Granule) : (s.setGranule x).kept = s.kept := by rfl
@[simp] theorem State.askGranule_kept (s : State) (a : GranuleAccess) (g : GranuleRef) : (s.askGranule a g).kept = s.kept := by
  simp [State.askGranule]
@[simp] theorem State.displace_kept (s : State) (die : Nat) (o : Obj) (l : SyncLine) : (s.displace die o l).kept = s.kept := by
  simp [State.displace]
@[simp] theorem State.touchLine_kept (s : State) (home index m : Nat) : (s.touchLine home index m).kept = s.kept := by
  unfold State.touchLine
  dsimp only
  repeat' split
  all_goals simp
@[simp] theorem State.touchLines_kept (s : State) (home index : Nat) (bs : List Nat) :
    (s.touchLines home index bs).kept = s.kept := by
  unfold State.touchLines
  split <;> simp
/-- A write that its checks let go on begins with room for its shadow pages. -/
theorem State.writeCheck_kept {s t : State} {r : Req} {o : Obj} {bs : List Nat} {own : Bool} (h : s.writeCheck r o bs own = .go t) :
    t.kept = s.kept := by
  unfold State.writeCheck at h
  dsimp only at h
  repeat' split at h
  all_goals cases h
  next hp => simp [State.newPages_kept hp]
@[simp] theorem State.countFetch_kept (s : State) (r : Req) (o : Obj) : (s.countFetch r o).kept = s.kept := by rfl
@[simp] theorem State.countStore_kept (s : State) (r : Req) (o : Obj) : (s.countStore r o).kept = s.kept := by rfl
@[simp] theorem State.writeTile_kept (s : State) (r : Req) (ps : Obj → List Put) : (s.writeTile r ps).kept = s.kept := by
  unfold State.writeTile
  split <;> simp
@[simp] theorem State.popSlot_kept (s : State) (r : Req) : (s.popSlot r).kept = s.kept := by
  unfold State.popSlot
  split <;> simp
@[simp] theorem State.startFill_kept (s : State) (r : Req) (d : List Byte × List Bool) : (s.startFill r d).kept = s.kept := by rfl
@[simp] theorem State.fillSlot_kept (s : State) (r : Req) (data : List Byte) (marks : List Bool) :
    (s.fillSlot r data marks).kept = s.kept := by
  unfold State.fillSlot
  split <;> simp
@[simp] theorem State.cacheRead_kept (s : State) (r : Req) (o : Obj) (v : Nat) (mod : FetchMod) :
    (s.cacheRead r o v mod).kept = s.kept := by
  unfold State.cacheRead
  dsimp only
  split <;> simp
theorem State.granuleWait_kept {s t : State} {a : GranuleAccess} {o : Obj} {bs : List Nat} (h : s.granuleWait a o bs = some t) :
    t.kept = s.kept := by
  unfold State.granuleWait at h
  dsimp only at h
  split at h
  · cases h
  · cases h
    simp
@[simp] theorem State.readAt_kept (s : State) (r : Req) (o : Obj) (v : Nat) (i : Instr) (mod : FetchMod) :
    (s.readAt r o v i mod).kept = s.kept := by
  unfold State.readAt
  dsimp only
  split
  · simp
  · split
    next hg => simp [State.granuleWait_kept hg]
    next =>
      split
      next hm => simp [State.missingFor_kept hm]
      next => simp
theorem State.writeAt_kept {also : State → Option State} {done : State → State} (hdone : ∀ t, (done t).kept = t.kept)
    {s : State} (halso : ∀ t, also s = some t → t.kept = s.kept) (r : Req) (o : Obj) (i : Instr) (d : State → List Byte × List Bool) :
    (s.writeAt r o i also d done).kept = s.kept := by
  unfold State.writeAt
  dsimp only
  split
  next hg => simp [State.granuleWait_kept hg]
  next =>
    split
    · simp
    · simp
    next hc =>
      split
      next hm =>
        obtain hm | hm := eq_some_of_orElse hm
        · simp [State.missingFor_kept hm]
        · simp [halso _ hm]
      next => simp [hdone, State.writeCheck_kept hc]
@[simp] theorem State.freezeAt_kept (s : State) (r : Req) (o : Obj) (i : Instr) : (s.freezeAt r o i).kept = s.kept := by
  simp [State.freezeAt]
@[simp] theorem State.tokensDone_kept (s : State) (ts : List (Nat × Nat)) : (s.tokensDone ts).kept = s.kept := by
  simp [State.tokensDone]
@[simp] theorem State.openPage_kept (s : State) (home index n : Nat) : (s.openPage home index n).kept = s.kept := by
  unfold State.openPage
  repeat' split
  all_goals simp
@[simp] theorem State.thawAt_kept (s : State) (r : Req) (o : Obj) : (s.thawAt r o).kept = s.kept := by
  simp [State.thawAt]
@[simp] theorem State.grantAt_kept (s : State) (r : Req) (o : Obj) (i : Instr) : (s.grantAt r o i).kept = s.kept := by
  simp [State.grantAt]
@[simp] theorem State.dropCasts_kept (s : State) (p : PageRef) : (s.dropCasts p).kept = s.kept := by rfl
@[simp] theorem State.packageAck_kept (s : State) (pkg : Nat) (p : PageRef) (place : CastPlace) :
    (s.packageAck pkg p place).kept = s.kept := by
  unfold State.packageAck
  split <;> simp
@[simp] theorem State.putObj_kept (s : State) (o : Obj) : (s.putObj o).kept = s.kept := by rfl
@[simp] theorem State.newMap_kept (s : State) (n : Nat) : (s.newMap n).1.kept = s.kept := by
  simp [State.newMap]
@[simp] theorem State.addMaps_kept (s : State) (home index n : Nat) (live : Bool) : (s.addMaps home index n live).kept = s.kept := by
  cases live <;> simp [State.addMaps]
@[simp] theorem State.dropMaps_kept (s : State) (o : Obj) : (s.dropMaps o).kept = s.kept := by
  simp [State.dropMaps]
/-- What a computation with a first check gave, it gave behind the check. -/
theorem ok_of_ite_error {ε α : Type} {c : Prop} [Decidable c] {e : ε} {x : Except ε α} {r : α}
    (h : (if c then .error e else x) = .ok r) : x = .ok r := by
  split at h
  · cases h
  · exact h
theorem State.create_kept {s : State} {form d01 d23 d45 charged die ownp ownr tenr : Nat} {maker : Option Nat} {hostsh : Bool}
    {r : State × Word} (h : s.create form d01 d23 d45 charged die ownp ownr tenr maker hostsh = .ok r) : r.1.kept = s.kept := by
  replace h := ok_of_ite_error (ok_of_ite_error (ok_of_ite_error h))
  split at h
  · cases h
  next hp =>
    cases h
    simp [State.newPages_kept hp]
@[simp] theorem State.allocAt_kept (s : State) (r : Req) (form d01 d23 d45 : Word) (root : Bool) :
    (s.allocAt r form d01 d23 d45 root).kept = s.kept := by
  unfold State.allocAt
  dsimp only
  split
  · simp
  next hc => simpa using State.create_kept hc
@[simp] theorem State.release_kept (s : State) (home index : Nat) : (s.release home index).kept = s.kept := by
  unfold State.release
  split <;> simp
@[simp] theorem State.sweepFreed_kept (s : State) : s.sweepFreed.kept = s.kept := by
  simp [State.sweepFreed]
@[simp] theorem State.freeObj_kept (s : State) (home index : Nat) : (s.freeObj home index).kept = s.kept := by
  simp [State.freeObj]
@[simp] theorem State.sweepVers_kept (s : State) (home index : Nat) : (s.sweepVers home index).kept = s.kept := by
  simp [State.sweepVers]
@[simp] theorem State.sweepStale_kept (s : State) : s.sweepStale.kept = s.kept := by
  simp [State.sweepStale]
@[simp] theorem State.unpinVer_kept (s : State) (home index v : Nat) : (s.unpinVer home index v).kept = s.kept := by
  simp [State.unpinVer]
@[simp] theorem State.abandon_kept (s : State) (home index : Nat) : (s.abandon home index).kept = s.kept := by
  simp [State.abandon]
@[simp] theorem State.closeReg_kept (s : State) (p : Party) (h : Fin 16) (r : HReg) : (s.closeReg p h r).kept = s.kept := by
  unfold State.closeReg
  dsimp only
  repeat' split
  all_goals simp
@[simp] theorem State.freeAt_kept (s : State) (r : Req) : (s.freeAt r).kept = s.kept := by
  simp [State.freeAt]
@[simp] theorem State.modColl_kept (s : State) (id : Nat) (f : Coll → Coll) : (s.modColl id f).kept = s.kept := by rfl
@[simp] theorem State.refuseColl_kept (s : State) (r : Req) (kind : CollKind) (code : Nat) :
    (s.refuseColl r kind code).kept = s.kept := by
  unfold State.refuseColl
  split <;> simp
@[simp] theorem State.joined_kept (s : State) (r : Req) (id : Nat) (j : Joined) (last : Bool) :
    (s.joined r id j last).kept = s.kept := by
  simp [State.joined]
@[simp] theorem State.collAt_kept (s : State) (r : Req) (o : Obj) (kind : CollKind) : (s.collAt r o kind).kept = s.kept := by
  unfold State.collAt
  dsimp only
  repeat' split
  all_goals simp

/-! ### Completed collectives (Sys2Proof/Machine/Requests) -/

@[simp] theorem State.modCoded_kept (s : State) (code : Nat) (f : Core → Core) : (s.modCoded code f).kept = s.kept := by rfl
@[simp] theorem State.pushOut_kept (s : State) (r : Req) (dest f inst : Nat) : (s.pushOut r dest f inst).kept = s.kept := by
  unfold State.pushOut
  repeat' split
  all_goals simp
@[simp] theorem State.cacheWritten_kept (s : State) (r : Req) : (s.cacheWritten r).kept = s.kept := by
  unfold State.cacheWritten
  split <;> simp
@[simp] theorem State.performObj_kept (s : State) (r : Req) (o : Obj) : (s.performObj r o).kept = s.kept := by
  unfold State.performObj
  dsimp only
  split
  case h_7 h ix gen ver hop =>
    split
    · simp
    · split
      · simp
      · split
        next hg => simp [State.granuleWait_kept hg]
        next => exact State.writeAt_kept (fun t => by simp) (fun t hm => State.missingFor_kept hm) ..
  all_goals simp [State.writeAt_kept, apply_ite]
@[simp] theorem State.endColl_kept (s : State) (k : Coll) : (s.endColl k).kept = s.kept := by
  unfold State.endColl
  split <;> simp
@[simp] theorem State.collWrite_kept (s : State) (r : Req) (o : Obj) (ps : List Put) (bs : List Nat) :
    (s.collWrite r o ps bs).kept = s.kept := by
  simp [State.collWrite]

/-! ### Synchronisation lines and barriers (Sys2Proof/Machine/Sync) -/

@[simp] theorem State.dropGrainLines_kept (s : State) (p : Party) (o : Obj) (g : Nat) : (s.dropGrainLines p o g).kept = s.kept := by
  simp [State.dropGrainLines]
theorem State.syncCheck_eq {s t : State} {r : Req} {o : Obj} {rmw : Bool} (h : s.syncCheck r o rmw = .go t) : t = s := by
  unfold State.syncCheck at h
  dsimp only at h
  repeat' split at h
  all_goals cases h
  rfl
@[simp] theorem State.waitPeer_kept (s : State) (r : Req) (i : Instr) : (s.waitPeer r i).kept = s.kept := by
  simp [State.waitPeer]
@[simp] theorem State.syncAt_kept (s : State) (r : Req) (o : Obj) (rmw : Bool) (f : Nat → Option Nat × Option Word) :
    (s.syncAt r o rmw f).kept = s.kept := by
  unfold State.syncAt
  dsimp only
  split
  next hg => simp [State.granuleWait_kept hg]
  next =>
    split
    · simp
    · simp
    next hc =>
      split
      next hm => simp [State.missingFor_kept hm]
      next => split <;> simp [State.syncCheck_eq hc, apply_ite]
@[simp] theorem State.barinitAt_kept (s : State) (r : Req) (o : Obj) (expect : Word) : (s.barinitAt r o expect).kept = s.kept := by
  simp [State.barinitAt]
@[simp] theorem State.landBarw_kept (s : State) (r : Req) (target : Nat) : (s.landBarw r target).kept = s.kept := by rfl
@[simp] theorem State.flipBar_kept (s : State) (home index n : Nat) : (s.flipBar home index n).kept = s.kept := by
  induction n generalizing s with
  | zero => rfl
  | succ n ih =>
    unfold State.flipBar
    dsimp only
    repeat' split
    all_goals simp [ih]
    all_goals exact (foldl_kept (fun s x => by split <;> simp) _ _).trans (State.modObj_kept ..)
theorem State.arrive_kept {s t : State} {o : Obj} {who : Option (Party × Fin 16 × Scope)} (h : s.arrive o who = some t) :
    t.kept = s.kept := by
  unfold State.arrive at h
  dsimp only at h
  repeat' split at h
  all_goals cases h
  all_goals simp
@[simp] theorem State.barwAt_kept (s : State) (r : Req) (o : Obj) : (s.barwAt r o).kept = s.kept := by
  unfold State.barwAt
  repeat' split
  all_goals simp
@[simp] theorem State.breadAt_kept (s : State) (r : Req) (o : Obj) : (s.breadAt r o).kept = s.kept := by
  unfold State.breadAt
  repeat' split
  all_goals simp

/-! ### The journal, plots and launches (Sys2Proof/Machine/Plots) -/

@[simp] theorem State.journalPut_kept (s : State) (ts : Nat) (e : BitVec 512) : (s.journalPut ts e).kept = s.kept := by rfl
@[simp] theorem State.journalFlush_kept (s : State) (es : List (Nat × BitVec 512)) : (s.journalFlush es).kept = s.kept := by
  induction es generalizing s with
  | nil => rfl
  | cons e es ih => simp [State.journalFlush, ih]
@[simp] theorem State.journalAt_kept (s : State) (ts plot kind status cause queue body : Nat) :
    (s.journalAt ts plot kind status cause queue body).kept = s.kept := by
  simp [State.journalAt]
@[simp] theorem State.journalAdd_kept (s : State) (plot kind status cause queue body : Nat) :
    (s.journalAdd plot kind status cause queue body).kept = s.kept := by
  simp [State.journalAdd]
@[simp] theorem State.createPlot_kept (s : State) (d : BitVec 2048) (parent : Option Plot) (pool : Option Nat) :
    (s.createPlot d parent pool).1.kept = s.kept := by rfl
@[simp] theorem State.poolFree_kept (s : State) (plot : Nat) : (s.poolFree plot).kept = s.kept := by
  unfold State.poolFree
  split <;> simp
@[simp] theorem State.poke_kept (s : State) (die : Nat) : (s.poke die).kept = s.kept := by
  simp [State.poke]
@[simp] theorem State.modDisp_kept (s : State) (die : Nat) (f : Disp → Disp) : (s.modDisp die f).kept = s.kept := by rfl
@[simp] theorem State.follow_kept (s : State) : s.follow.kept = s.kept := by rfl
@[simp] theorem State.addCand_kept (s : State) (die plot src : Nat) : (s.addCand die plot src).kept = s.kept := by
  simp [State.addCand]
@[simp] theorem State.dropCand_kept (s : State) (plot : Nat) : (s.dropCand plot).kept = s.kept := by rfl
@[simp] theorem State.refresh_kept (s : State) (die : Nat) : (s.refresh die).kept = s.kept := by
  unfold State.refresh
  split <;> simp
@[simp] theorem State.withTemplate_kept {s : State} {f : State → State} (h : (f s).kept = s.kept) (o : Obj) (v : Nat) :
    (s.withTemplate o v f).kept = s.kept := by
  unfold State.withTemplate
  split <;> simp [h]
@[simp] theorem State.landLaunch_kept (s : State) (u : Due) (code value : Nat) : (s.landLaunch u code value).kept = s.kept := by rfl
theorem State.spawnOne_kept {s : State} {t : BitVec 2048} {n k : Nat} {r : State × Nat}
    (h : s.spawnOne t n = some (k, some r)) : r.1.kept = s.kept := by
  unfold State.spawnOne at h
  dsimp only at h
  repeat' split at h
  all_goals cases h
  simp
@[simp] theorem State.sowSiblings_kept (s : State) (t : BitVec 2048) (g : Plot) (die : Nat) (is : List Nat) :
    (s.sowSiblings t g die is).kept = s.kept := by
  induction is generalizing s with
  | nil => rfl
  | cons i is ih => simp [State.sowSiblings, ih]

/-! ### Versions (Sys2Proof/Machine/Versions) -/

@[simp] theorem State.landV_kept (s : State) (r : Req) (code value : Nat) (reg : HReg) :
    (s.landV r code value reg).kept = s.kept := by rfl
@[simp] theorem State.tellRejected_kept (s : State) (h : Word) : (s.tellRejected h).kept = s.kept := by
  unfold State.tellRejected
  split <;> simp
@[simp] theorem State.openAt_kept (s : State) (r : Req) (w : Bool) : (s.openAt r w).kept = s.kept := by
  unfold State.openAt
  split <;> simp
@[simp] theorem State.pinAt_kept (s : State) (r : Req) (o : Obj) : (s.pinAt r o).kept = s.kept := by
  simp [State.pinAt]
@[simp] theorem State.subscAt_kept (s : State) (r : Req) (o : Obj) (beyond : Word) : (s.subscAt r o beyond).kept = s.kept := by
  simp [State.subscAt]
@[simp] theorem State.wakeSubs_kept (s : State) (home index : Nat) : (s.wakeSubs home index).kept = s.kept :=
  foldl_kept (fun s r => by split <;> simp) _ _
@[simp] theorem State.publAt_kept (s : State) (r : Req) (o : Obj) : (s.publAt r o).kept = s.kept := by
  simp [State.publAt]

/-! ### The ends of tasks and plots (Sys2Proof/Machine/Tasks) -/

@[simp] theorem State.raiseCounts_kept (s : State) (c : Core) : (s.raiseCounts c).kept = s.kept := by
  unfold State.raiseCounts
  split <;> simp
@[simp] theorem State.closeAll_kept (s : State) (c : Core) (p : Party) : (s.closeAll c p).kept = s.kept := by
  simp [State.closeAll]
@[simp] theorem State.closeLater_kept (s : State) (c : Core) (p : Party) : (s.closeLater c p).kept = s.kept := by
  simp [State.closeLater]
@[simp] theorem State.pruneReqs_kept (s : State) (p : Party) (how : EndHow) : (s.pruneReqs p how).kept = s.kept := by rfl
@[simp] theorem State.clearMember_kept (s : State) (p : Party) : (s.clearMember p).kept = s.kept := by
  simp [State.clearMember]
@[simp] theorem State.journalEnd_kept (s : State) (plot status : Nat) : (s.journalEnd plot status).kept = s.kept := by
  unfold State.journalEnd
  split <;> simp
@[simp] theorem State.unmapRoot_kept (s : State) (root : Nat) : (s.unmapRoot root).kept = s.kept :=
  foldl_kept (fun s a => by dsimp only; split <;> simp) _ _
@[simp] theorem State.parentCheck_kept (s : State) (n id : Nat) : (s.parentCheck n id).kept = s.kept := by
  induction n generalizing s id with
  | zero => rfl
  | succ n ih =>
    unfold State.parentCheck
    dsimp only
    repeat' split
    all_goals simp [ih]
@[simp] theorem State.tasksetOver_kept (s : State) (plot status : Nat) : (s.tasksetOver plot status).kept = s.kept := by
  unfold State.tasksetOver
  dsimp only
  repeat' split
  all_goals simp
@[simp] theorem State.releaseCores_kept (s : State) (plot : Nat) : (s.releaseCores plot).kept = s.kept := by
  unfold State.releaseCores
  split <;> simp
@[simp] theorem State.endTask_kept (s : State) (t : Task) (how : EndHow) : (s.endTask t how).kept = s.kept := by
  unfold State.endTask
  dsimp only
  repeat' split
  all_goals simp
@[simp] theorem State.endMember_kept (s : State) (c : Core) (how : EndHow) : (s.endMember c how).kept = s.kept := by
  unfold State.endMember
  repeat' split
  all_goals simp
@[simp] theorem State.landBreads_kept (s : State) (home index : Nat) : (s.landBreads home index).kept = s.kept := by
  unfold State.landBreads
  repeat' split
  all_goals simp
@[simp] theorem State.settleNoWin_kept (s : State) (g : Plot) : (s.settleNoWin g).kept = s.kept := by
  unfold State.settleNoWin
  repeat' split
  all_goals simp
@[simp] theorem State.cancelCounts_kept (s : State) (plot : Nat) : (s.cancelCounts plot).kept = s.kept := by
  unfold State.cancelCounts
  split <;> simp
@[simp] theorem State.dropQueued_kept (s : State) (ids : List Nat) (how : EndHow) : (s.dropQueued ids how).kept = s.kept := by
  simp [State.dropQueued]
@[simp] theorem State.completeEnding_kept (s : State) (e : Ending) : (s.completeEnding e).kept = s.kept := by
  unfold State.completeEnding
  dsimp only
  split
  · simp
  · split
    · simp only [State.parentCheck_kept, ite_kept, State.unmapRoot_kept, ite_self]
      exact foldl_kept (fun s i => by split <;> simp) _ _
    · exact foldl_kept (fun s i => by split <;> simp) _ _
@[simp] theorem State.settleEndings_kept (s : State) : s.settleEndings.kept = s.kept := by
  simp [State.settleEndings]
@[simp] theorem State.endOn_kept (s : State) (c : Core) : (s.endOn c).kept = s.kept := by
  unfold State.endOn
  split <;> simp
@[simp] theorem State.beginEnding_kept (s : State) (e : Ending) : (s.beginEnding e).kept = s.kept := by
  simp [State.beginEnding]
@[simp] theorem State.terminate_kept (s : State) (plot cause : Nat) : (s.terminate plot cause).kept = s.kept := by
  simp [State.terminate]
@[simp] theorem State.freePlot_kept (s : State) (p : Plot) : (s.freePlot p).kept = s.kept := by rfl
@[simp] theorem State.deliver_kept (s : State) (c : Core) (cause : Nat) : (s.deliver c cause).kept = s.kept := by
  unfold State.deliver
  split <;> simp

/-! ### Ballots (Sys2Proof/Machine/Ballot) -/

@[simp] theorem State.cancelSibling_kept (s : State) (plot : Nat) : (s.cancelSibling plot).kept = s.kept := by
  simp [State.cancelSibling]
@[simp] theorem State.cancelLoser_kept (s : State) (plot : Nat) : (s.cancelLoser plot).kept = s.kept := by
  simp [State.cancelLoser]
@[simp] theorem State.settleBallot_kept (s : State) (o : Obj) (b : BallotState) (win : Option Word) (tie : Bool) :
    (s.settleBallot o b win tie).kept = s.kept := by
  simp [State.settleBallot]
@[simp] theorem State.exhaust_kept (s : State) (o : Obj) (b : BallotState) : (s.exhaust o b).kept = s.kept := by
  simp [State.exhaust]
theorem State.applyEntry_kept {s t : State} {p : Party} {h : Word} {n : Nat} (ht : s.applyEntry p h n = some t) :
    t.kept = s.kept := by
  unfold State.applyEntry at ht
  dsimp only at ht
  repeat' split at ht
  all_goals cases ht
  · rfl
  next hc => simp [State.syncCheck_eq hc]

/-! ### Host queues (Sys2Proof/Machine/HostQ) -/

@[simp] theorem State.setPair_kept (s : State) (q : QPair) : (s.setPair q).kept = s.kept := by
  simp [State.setPair]
theorem State.hostPut_steady {s : State} (h : KeptSteady s.kept) (a : Nat) (bs : List Byte) : KeptSteady (s.hostPut a bs).kept :=
  ⟨memPut_wf bs a h.1, h.2⟩
@[simp] theorem State.endPass_kept (s : State) (core : Nat) : (s.endPass core).kept = s.kept := by rfl
@[simp] theorem State.journalClose_kept (s : State) (seq status : Nat) : (s.journalClose seq status).kept = s.kept := by
  simp [State.journalClose]
theorem State.mqWrite_steady {s t : State} {n : Nat} {msg : List Word} {plot tinst ts : Nat} (h : KeptSteady s.kept)
    (ht : s.mqWrite n msg plot tinst ts = some t) : KeptSteady t.kept := by
  unfold State.mqWrite at ht
  dsimp only at ht
  split at ht
  · cases ht
  · cases ht
    simpa using State.hostPut_steady h ..
@[simp] theorem State.accept_kept (s : State) (q : QPair) : (s.accept q).kept = s.kept := by
  simp only [State.accept, State.with_kept, State.journalAdd_kept]
@[simp] theorem State.complete_kept (s : State) (c : Command) (status : Nat) : (s.complete c status).kept = s.kept := by
  simp [State.complete]

/-! ### The matrix engine (Sys2Proof/Machine/Micro) -/

@[simp] theorem foresee_kept (ex : Instr → State → Out) (s : State) : (foresee ex s).kept = s.kept := by rfl

/-! ### The dispatcher and task start (Sys2Proof/Machine/Sched) -/

theorem walkRing_kept {ring : List (Cand × Bool × Nat)} {n i : Nat} {s : State} {r : State × Nat} (h : walkRing ring n i s = some r) :
    r.1.kept = s.kept := by
  induction n generalizing i s with
  | zero => cases h
  | succ n ih =>
    unfold walkRing at h
    dsimp only at h
    split at h
    · cases h
    · split at h
      · cases h
      · split at h
        · cases h
          simp
        · split at h <;> simpa using ih h
@[simp] theorem State.admission_kept (s : State) (die : Nat) (p : Plot) (cores : List Nat) (cost : Nat) (waits : Bool) :
    (s.admission die p cores cost waits).kept = s.kept := by
  unfold State.admission
  split <;> simp
@[simp] theorem State.preemptAll_kept (s : State) (cs : List Nat) : (s.preemptAll cs).kept = s.kept := by
  simp [State.preemptAll]
@[simp] theorem State.preemptFor_kept (s : State) (die : Nat) (p : Plot) (yields : Option Nat) :
    (s.preemptFor die p yields).kept = s.kept := by
  unfold State.preemptFor
  split <;> simp
@[simp] theorem State.modCand_kept (s : State) (die plot : Nat) (f : Cand → Cand) : (s.modCand die plot f).kept = s.kept := by rfl
@[simp] theorem State.modAdm_kept (s : State) (die adm : Nat) (f : Adm → Adm) : (s.modAdm die adm f).kept = s.kept := by rfl
@[simp] theorem State.dropAdm_kept (s : State) (die adm : Nat) : (s.dropAdm die adm).kept = s.kept := by rfl
@[simp] theorem State.startMembers_kept (s : State) (f : Nat → Nat → Instr) (k : Nat) (cs : List Nat) :
    (s.startMembers f k cs).kept = s.kept := by
  induction cs generalizing s k with
  | nil => rfl
  | cons c cs ih => simp [State.startMembers, ih]
@[simp] theorem State.openStart_kept (s : State) (p : Party) (h : Word) : (s.openStart p h).1.kept = s.kept := by
  unfold State.openStart
  dsimp only
  repeat' split
  all_goals simp
@[simp] theorem State.directive_kept (s : State) (p : Party) (param : Word) (c : Core) (d : Directive) :
    (s.directive p param c d).1.kept = s.kept := by
  cases d <;> simp [State.directive]
@[simp] theorem State.leaveFenced_kept (s : State) (core : Nat) : (s.leaveFenced core).kept = s.kept := by
  simp [State.leaveFenced]
@[simp] theorem State.stopForSave_kept (s : State) (c : Core) : (s.stopForSave c).kept = s.kept := by
  simp [State.stopForSave]

/-! ### Saving (Sys2Proof/Machine/Save) -/

@[simp] theorem State.rebind_kept (s : State) (c : Core) (new : Nat) : (s.rebind c new).kept = s.kept := by rfl
@[simp] theorem State.saveMember_kept (s : State) (held : Bool) (c : Core) (slot : Option Nat) :
    (s.saveMember held c slot).kept = s.kept := by
  unfold State.saveMember
  repeat' split
  all_goals simp
@[simp] theorem State.saveTask_kept (s : State) (core : Core) : (s.saveTask core).kept = s.kept := by
  unfold State.saveTask
  split <;> simp
@[simp] theorem State.stopOthers_kept (s : State) (ms : List Core) : (s.stopOthers ms).kept = s.kept := by
  simp [State.stopOthers]

/-! ### Memory tiers and rows (Sys2Proof/Machine/Tiers) -/

@[simp] theorem State.modPage_kept (s : State) (p : PageRef) (f : Page → Page) : (s.modPage p f).kept = s.kept := by rfl
@[simp] theorem State.startSpill_kept (s : State) (o : Obj) (p : Page) : (s.startSpill o p).kept = s.kept := by rfl
theorem State.lpddrRoom_kept {s t : State} (h : s.lpddrRoom = some t) : t.kept = s.kept := by
  unfold State.lpddrRoom at h
  repeat' split at h
  all_goals cases h
  all_goals simp
@[simp] theorem State.setBank_kept (s : State) (b : BankRows) : (s.setBank b).kept = s.kept := by rfl
@[simp] theorem State.issueRfm_kept (s : State) (b : BankRows) : (s.issueRfm b).kept = s.kept := by rfl
@[simp] theorem State.openWindow_kept (s : State) : s.openWindow.kept = s.kept := by
  simp [State.openWindow]
@[simp] theorem State.activate_kept (s : State) (ctrl bank row : Nat) : (s.activate ctrl bank row).kept = s.kept := by
  simp [State.activate]
@[simp] theorem State.serveActs_kept (s : State) (ctrl bank : Nat) (rows : List Nat) : (s.serveActs ctrl bank rows).kept = s.kept := by
  induction rows generalizing s with
  | nil => simp [State.serveActs]
  | cons row rest ih => simp [State.serveActs, ih]

/-! ### The trap policy and service calls (Sys2Proof/Machine/Traps) -/

@[simp] theorem State.journalTrap_kept (s : State) (t : Task) (k : Cause) (targ : Word) (at_ : Nat) :
    (s.journalTrap t k targ at_).kept = s.kept := by
  simp [State.journalTrap]
@[simp] theorem State.faultSnapshot_kept (s : State) (c : Core) (t : Task) : (s.faultSnapshot c t).kept = s.kept := by
  unfold State.faultSnapshot
  repeat' split
  all_goals simp
@[simp] theorem State.holdTask_kept (s : State) (c : Core) (t : Task) : (s.holdTask c t).kept = s.kept := by
  simp [State.holdTask]
theorem State.toRing_steady {s : State} (h : KeptSteady s.kept) (r : Req) (pair : Option Nat) (msg : List Word) (ts : Word) :
    KeptSteady (s.toRing r pair msg ts).kept := by
  unfold State.toRing
  split
  next hw =>
    obtain ⟨n, -, hn⟩ := Option.bind_eq_some_iff.mp hw
    simpa using State.mqWrite_steady h hn
  next => simpa using h
theorem State.svcRoute_steady {s : State} (h : KeptSteady s.kept) (r : Req) : KeptSteady (s.svcRoute r).kept := by
  unfold State.svcRoute
  repeat' split
  all_goals simp [h, State.toRing_steady]

/-! ### Host commands (Sys2Proof/Machine/HostCmd) -/

@[simp] theorem State.hostDone_kept (s : State) (key : Nat) : (s.hostDone key).kept = s.kept := by rfl
theorem State.ends_steady {s : State} (h : KeptSteady s.kept) (c : Command) (status word : Nat) : KeptSteady (s.ends c status word).kept := by
  unfold State.ends
  split
  · simpa using State.hostPut_steady (s := s.hostDone c.seq) (by simpa using h) ..
  · simpa using h
theorem State.refuseCommand_steady {s : State} (h : KeptSteady s.kept) : KeptSteady s.refuseCommand.kept := State.ends_steady h ..
@[simp] theorem State.waitCommand_kept (s : State) (c : Command) (i : Instr) : (s.waitCommand c i).kept = s.kept := by rfl
@[simp] theorem State.hostHold_kept (s : State) (key : Nat) (o : Obj) (ns : List Nat) : (s.hostHold key o ns).kept = s.kept := by
  simp [State.hostHold]
@[simp] theorem State.hostTouch_kept (s : State) (o : Obj) (v : Nat) (read : Bool) (bs : List Nat) :
    (s.hostTouch o v read bs).kept = s.kept := by
  simp [State.hostTouch]
theorem State.hostWriteLive_steady {s : State} (h : KeptSteady s.kept) (c : Command) (o : Obj) (bs : List Nat) (data : List Byte) :
    KeptSteady (s.hostWriteLive c o bs data).kept := by
  unfold State.hostWriteLive
  dsimp only
  split
  · exact State.ends_steady h ..
  · split
    next hm => simpa [State.missing_kept hm] using h
    next =>
      split
      next hg => simpa [State.granuleWait_kept hg] using h
      next =>
        split
        · simpa using h
        · exact State.ends_steady (by simpa using h) ..
theorem State.hostPublish_steady {s : State} (h : KeptSteady s.kept) (c : Command) (o : Obj) (bs : List Nat) (data : List Byte) :
    KeptSteady (s.hostPublish c o bs data).kept := by
  unfold State.hostPublish
  dsimp only
  split
  · exact State.ends_steady h ..
  · split
    · exact State.ends_steady h ..
    · split
      · exact State.ends_steady h ..
      · split
        next hm => simpa [State.missing_kept hm] using h
        next =>
          split
          · simpa using h
          · split
            · exact State.ends_steady h ..
            next hp => exact State.ends_steady (by simpa [State.newPages_kept hp] using h) ..
@[simp] theorem State.pinCmd_kept (s : State) (c : Command) (o : Obj) (v : Nat) : (s.pinCmd c o v).kept = s.kept := by
  simp [State.pinCmd]
@[simp] theorem State.unpinCmd_kept (s : State) (c : Command) : (s.unpinCmd c).kept = s.kept := by
  unfold State.unpinCmd
  split <;> simp
@[simp] theorem State.unmap_kept (s : State) (n : Nat) : (s.unmap n).kept = s.kept := by
  unfold State.unmap
  dsimp only
  repeat' split
  all_goals simp

/-! ### Apertures, granules and links (Sys2Proof/Machine/Links) -/

@[simp] theorem State.discard_kept (s : State) (n : Nat) : (s.discard n).kept = s.kept := by
  simp [State.discard]
@[simp] theorem State.dropGranule_kept (s : State) (g : GranuleRef) : (s.dropGranule g).kept = s.kept := by rfl
@[simp] theorem State.hostWriteBack_kept (s : State) (x : Granule) : (s.hostWriteBack x).kept = s.kept := by
  unfold State.hostWriteBack
  split <;> simp
theorem State.writeBackWait_kept {s t : State} {x : Granule} (h : s.writeBackWait x = some t) : t.kept = s.kept := by
  unfold State.writeBackWait at h
  repeat' split at h
  all_goals cases h
  next hm => exact State.missing_kept hm
  next => simp
@[simp] theorem State.hostAccess_kept (s : State) (g : GranuleRef) (a : GranuleAccess) : (s.hostAccess g a).kept = s.kept := by
  cases a with
  | device | command => rfl
  | load =>
    simp only [State.hostAccess, State.with_kept]
    split <;> simp
  | store => simp [State.hostAccess]
@[simp] theorem State.startTransfer_kept (s : State) (g : GranuleRef) : (s.startTransfer g).kept = s.kept := by
  simp [State.startTransfer]
@[simp] theorem State.serveGranule_kept (s : State) (g : GranuleRef) (as : List GranuleAccess) : (s.serveGranule g as).kept = s.kept := by
  induction as generalizing s with
  | nil => simp [State.serveGranule]
  | cons a rest ih => simp [State.serveGranule, ih]
@[simp] theorem State.foreign_kept (s : State) (op : AtomOp) (ord : Ord) (scope : Scope) (handle : Word) (n : Nat) (x cmp : Word)
    (who : Party) (req : Nat) :
    (s.foreign op ord scope handle n x cmp who req).kept = s.kept := by rfl
@[simp] theorem State.foreignJoin_kept (s : State) (src home index : Nat) (origin : List Nat) (kind : CollKind) (data : List Byte)
    (marks : List Bool) : (s.foreignJoin src home index origin kind data marks).kept = s.kept := by
  unfold State.foreignJoin
  dsimp only
  repeat' split
  all_goals simp
@[simp] theorem State.peerRead_kept (s : State) (src seq : Nat) (handle : Word) (ver : BitVec 32) (lines : List Nat) :
    (s.peerRead src seq handle ver lines).kept = s.kept := by
  unfold State.peerRead
  dsimp only
  split
  · simp
  · split
    next u hm =>
      have hu : u.kept = s.kept := by
        obtain hm | hm := eq_some_of_orElse hm
        · exact State.missing_kept hm
        · simp only [Option.ite_none_right_eq_some, Option.some.injEq] at hm
          rw [hm.2]
      simp [hu]
    next => simp
@[simp] theorem State.linesCame_kept (s : State) (r : PageRef) (ls : List SentLine) : (s.linesCame r ls).kept = s.kept := by
  unfold State.linesCame
  split <;> simp
@[simp] theorem State.receive_kept (s : State) (src seq : Nat) (b : LinkBody) : (s.receive src seq b).kept = s.kept := by
  unfold State.receive
  repeat' split
  all_goals simp

/-! ### Errors, fencing and power (Sys2Proof/Machine/BringUp) -/

@[simp] theorem State.journalError_kept (s : State) (plot cause source index : Nat) :
    (s.journalError plot cause source index).kept = s.kept := by
  simp [State.journalError]
@[simp] theorem State.fence_kept (s : State) (core : Nat) : (s.fence core).kept = s.kept := by
  unfold State.fence
  dsimp only
  repeat' split
  all_goals simp
@[simp] theorem State.takeRange_kept (s : State) (ctrl : Nat) : (s.takeRange ctrl).kept = s.kept := by
  simp [State.takeRange]
@[simp] theorem State.retireRange_kept (s : State) (ctrl : Nat) (p : PageRef) : (s.retireRange ctrl p).kept = s.kept := by
  unfold State.retireRange
  repeat' split
  all_goals simp
@[simp] theorem State.retireNow_kept (s : State) (e : Nat × PageRef) : (s.retireNow e).kept = s.kept := by
  simp [State.retireNow]
@[simp] theorem State.fenceMlc_kept (s : State) (die : Nat) : (s.fenceMlc die).kept = s.kept := by rfl
@[simp] theorem State.fenceSync_kept (s : State) (die : Nat) : (s.fenceSync die).kept = s.kept := by
  simp [State.fenceSync]
@[simp] theorem State.modError_kept (s : State) (r : Resource) (f : ErrCount → ErrCount) : (s.modError r f).kept = s.kept := by rfl
@[simp] theorem State.lasting_kept (s : State) (r : Resource) : (s.lasting r).kept = s.kept := by
  unfold State.lasting
  split <;> simp
@[simp] theorem State.powerDown_kept (s : State) (reason unit test : Nat) : (s.powerDown reason unit test).kept = s.kept := by rfl

/-! ### Waiting commands (Sys2Proof/Machine/World) -/

@[simp] theorem State.recall_kept (s : State) (seq : Nat) : (s.recall seq).kept = s.kept := by
  unfold State.recall
  split <;> simp

end Sys2Proof.Machine

/-! PROOFS. What the clock, each meaning and each part of a turn do to the steady fields; every step keeps them. -/
namespace Sys2Proof.Machine

/-! ### Time -/

/-- The clock never stops and never runs faster than 21 cycles in 10 ns (R3). -/
theorem State.rate_bounds (s : State) : 0 < s.rate ∧ s.rate ≤ 21 := by
  unfold State.rate
  split
  · decide
  · simp only [Config.cyclesPer10ns]
    omega
/-- A carried nanosecond leaves less than the 100 parts per million that were added. -/
theorem State.tickNs_steady {s : State} (h : KeptSteady s.kept) : KeptSteady s.tickNs.kept := by
  obtain ⟨hmem, hlo, hhi, hphase, hslo, hshi, hacc⟩ := h
  unfold State.tickNs
  dsimp only
  split
  next hlt => exact ⟨hmem, hlo, hhi, hphase, hslo, hshi, hlt⟩
  next => exact ⟨hmem, hlo, hhi, hphase, hslo, hshi, by dsimp only; omega⟩
theorem foldl_steady {α : Type} {f : State → α → State} (hf : ∀ s a, KeptSteady s.kept → KeptSteady (f s a).kept) (l : List α)
    {s : State} (h : KeptSteady s.kept) : KeptSteady (l.foldl f s).kept := by
  induction l generalizing s with
  | nil => exact h
  | cons a r ih => exact ih (hf s a h)
/-- The world goes on: a new cycle takes the phase modulo the rate and counts its nanoseconds. -/
theorem State.rotate_steady {s : State} (h : KeptSteady s.kept) : KeptSteady s.rotate.kept := by
  unfold State.rotate
  dsimp only
  split
  · simpa using h
  · obtain ⟨hmem, hlo, hhi, -, hslew⟩ := h
    have hphase : (s.tsPhase + 10) % s.rate < 21 := Nat.lt_of_lt_of_le (Nat.mod_lt _ s.rate_bounds.1) s.rate_bounds.2
    have ht := foldl_steady (fun t (_ : Nat) ht => State.tickNs_steady ht) (List.range ((s.tsPhase + 10) / s.rate))
      (s := { s with cycle := s.cycle + 1, tsPhase := (s.tsPhase + 10) % s.rate }) ⟨hmem, hlo, hhi, hphase, hslew⟩
    split <;> simpa using ht
theorem State.haltEnd_steady {s : State} (h : KeptSteady s.kept) : KeptSteady s.haltEnd.kept :=
  State.rotate_steady (by simpa using h)

/-! ### Outcomes -/

/-- The next state of an outcome, if it has one, is steady. -/
def NextSteady : Out → Prop
  | .next t => KeptSteady t.kept
  | _ => True
@[simp] theorem nextSteady_next (t : State) : NextSteady (.next t) ↔ KeptSteady t.kept := Iff.rfl
@[simp] theorem nextSteady_ite {c : Prop} [Decidable c] (o p : Out) :
    NextSteady (if c then o else p) ↔ if c then NextSteady o else NextSteady p := by
  split <;> rfl
/-- A microword acts on its core alone, or faults. -/
theorem micro_steady {s : State} (h : KeptSteady s.kept) (bad : Geo → Core → Bool) (body : Geo → Core → Core) :
    NextSteady (micro bad body s) := by
  unfold micro
  split
  · trivial
  · exact h
/-- A branch on what the statement does not name. -/
theorem nextSteady_of_ite {c : Prop} [Decidable c] {o p : Out} (ho : NextSteady o) (hp : NextSteady p) :
    NextSteady (if c then o else p) := by
  split <;> assumption
theorem sylS_steady_of_steady {s : State} (h : KeptSteady s.kept) {body : State → State}
    (hb : ∀ t, KeptSteady t.kept → KeptSteady (body t).kept) (srcs : List Reg) : NextSteady (sylS srcs body s) := by
  rcases performS_cases srcs body s with e | e | e <;> simp only [sylS, nextSteady_next, e]
  · exact hb _ h
  · exact h
  · exact h
theorem sylS_steady {s : State} (h : KeptSteady s.kept) {body : State → State} (hb : ∀ t, (body t).kept = t.kept) (srcs : List Reg) :
    NextSteady (sylS srcs body s) := by
  exact sylS_steady_of_steady h (fun t ht => by rwa [hb]) srcs
theorem sylHW_steady {s : State} (h : KeptSteady s.kept) {wait : State → Option State} (hw : ∀ t u, wait t = some u → u.kept = t.kept)
    {body : HReg → State → State} (hb : ∀ r t, (body r t).kept = t.kept) (n : Fin 16) (hold : State → Bool)
    (srcs : State → HReg → List Reg) : NextSteady (sylHW wait n hold srcs body s) := by
  refine sylS_steady h (fun t => ?_) _
  have hgd (d : State) (hd : d.kept = t.kept) : ((wait t).getD d).kept = t.kept := by
    cases hwt : wait t with
    | none => exact hd
    | some u => exact hw t u hwt
  dsimp only
  split
  · simp
  · split
    · split
      · exact hgd _ rfl
      · rfl
    · split
      · simp
      · exact hb ..
theorem sylH_steady {s : State} (h : KeptSteady s.kept) {body : HReg → State → State} (hb : ∀ r t, (body r t).kept = t.kept)
    (n : Fin 16) (hold : State → Bool) (srcs : State → HReg → List Reg) : NextSteady (sylH n hold srcs body s) :=
  sylHW_steady h (fun _ _ hw => by cases hw) hb ..
/-- A command that is refused is completed so; else its meaning is performed. -/
theorem State.guardCmd_steady {s : State} (h : KeptSteady s.kept) {f : State → State} (hf : KeptSteady (f s).kept) (c : Command)
    (ks : List (Bool × Nat)) : NextSteady (s.guardCmd c ks f) := by
  unfold State.guardCmd
  split
  · exact State.ends_steady h ..
  · exact hf
theorem State.snapGuard_steady {s : State} (h : KeptSteady s.kept) {f : Obj → Nat → State → State}
    (hf : ∀ o k, KeptSteady (f o k s).kept) (write : Bool) (i : Instr) : NextSteady (s.snapGuard write i f) := by
  unfold State.snapGuard
  dsimp only
  refine State.guardCmd_steady h ?_ ..
  split
  · split
    next hm => simpa [State.missing_kept hm] using h
    next =>
      split
      · simpa using h
      · exact State.ends_steady (by simpa using hf ..) ..
  · exact h

/-! ### Meanings: Control registers (Sys2Proof/Machine/Scalar) -/

theorem execCsrrd_steady {s : State} (h : KeptSteady s.kept) (d : Fin 64) (csr : Fin 4096) : NextSteady (execCsrrd d csr s) :=
  sylS_steady h (fun t => by simp) _

/-! ### Meanings: The write-back of results (Sys2Proof/Machine/Control) -/

theorem execResultWriteback_steady {s : State} (h : KeptSteady s.kept) : NextSteady (execResultWriteback s) := by
  simp [execResultWriteback, h]

/-! ### Meanings: Object syllables (Sys2Proof/Machine/Objects) -/

theorem execOpenH_steady {s : State} (hs : KeptSteady s.kept) (w : Bool) (h t : Fin 16) (due : Due) :
    NextSteady (execOpenH w h t due s) :=
  sylH_steady hs (fun r t => by simp) ..
theorem execClose_steady {s : State} (hs : KeptSteady s.kept) (h : Fin 16) : NextSteady (execClose h s) :=
  sylH_steady hs (fun r t => by simp) ..
theorem execInfo_steady {s : State} (hs : KeptSteady s.kept) (q : InfoQ) (h : Fin 16) (due : Due) :
    NextSteady (execInfo q h due s) :=
  sylH_steady hs (fun r t => by simp) ..
theorem execAlloc_steady {s : State} (h : KeptSteady s.kept) (t : Fin 16) (due : Due) : NextSteady (execAlloc t due s) :=
  sylS_steady h (fun t => by simp) _
theorem execFree_steady {s : State} (hs : KeptSteady s.kept) (h : Fin 16) : NextSteady (execFree h s) :=
  sylH_steady hs (fun r t => by simp) ..
theorem execFetch_steady {s : State} (h : KeptSteady s.kept) (mod : FetchMod) (x : Tile) (f : Fin 32) :
    NextSteady (execFetch mod x f s) :=
  sylHW_steady h (fun _ _ hw => State.prodHold_kept hw) (fun r t => by simp) ..
theorem execStore_steady {s : State} (h : KeptSteady s.kept) (noalloc : Bool) (x : Tile) (f : Fin 32) :
    NextSteady (execStore noalloc x f s) :=
  sylHW_steady h (fun _ _ hw => State.consHold_kept hw) (fun r t => by simp) ..
theorem execGather_steady {s : State} (h : KeptSteady s.kept) (x : Tile) (f : Fin 32) : NextSteady (execGather x f s) :=
  sylHW_steady h (fun _ _ hw => State.prodHold_kept hw) (fun r t => by simp) ..
theorem execScatter_steady {s : State} (h : KeptSteady s.kept) (x : Tile) (f : Fin 32) : NextSteady (execScatter x f s) :=
  sylHW_steady h (fun _ _ hw => State.consHold_kept hw) (fun r t => by simp) ..
theorem execPushr_steady {s : State} (h : KeptSteady s.kept) (f : Fin 32) (t : Fin 16) : NextSteady (execPushr f t s) :=
  sylS_steady h (fun t => by simp) _
theorem execPref_steady {s : State} (h : KeptSteady s.kept) (x : Tile) : NextSteady (execPref x s) :=
  sylH_steady h (fun r t => by simp) ..
theorem execCopyo_steady {s : State} (h : KeptSteady s.kept) (x : Tile) (src : Fin 16) (due : Due) :
    NextSteady (execCopyo x src due s) := by
  refine sylH_steady h (fun r t => ?_) ..
  dsimp only
  split
  · rfl
  · split
    · rfl
    · split
      · rfl
      · refine State.withObj_kept (s := { t with core := _ }) (fun o => ?_) ..
        split
        · rfl
        · exact State.checked_kept (by simp) _
theorem execColl_steady {s : State} (h : KeptSteady s.kept) (kind : CollKind) (x : Tile) (f : Fin 32) (due : Due) :
    NextSteady (execColl kind x f due s) :=
  sylHW_steady h (fun t u hw => by
    split at hw
    · exact State.prodHold_kept hw
    · exact State.consHold_kept hw) (fun r t => by simp) ..
theorem versionSyl_steady {s : State} (hs : KeptSteady s.kept) (h : Fin 16) (srcs : List Reg) (rights : List Nat) (wr : Bool)
    (due : Due) (op : Core → ReqOp) :
    NextSteady (versionSyl h srcs rights wr due op s) :=
  sylH_steady hs (fun r t => by simp) ..
theorem execPin_steady {s : State} (hs : KeptSteady s.kept) (h : Fin 16) (due : Due) : NextSteady (execPin h due s) :=
  versionSyl_steady hs ..
theorem execSubsc_steady {s : State} (hs : KeptSteady s.kept) (h t : Fin 16) (due : Due) : NextSteady (execSubsc h t due s) :=
  versionSyl_steady hs ..
theorem execPubl_steady {s : State} (hs : KeptSteady s.kept) (h : Fin 16) (due : Due) : NextSteady (execPubl h due s) :=
  versionSyl_steady hs ..
theorem execUnpin_steady {s : State} (hs : KeptSteady s.kept) (h : Fin 16) : NextSteady (execUnpin h s) :=
  sylH_steady hs (fun r t => by simp) ..
theorem spanSyl_steady {s : State} (h : KeptSteady s.kept) (x : Tile) (rights : List Nat) (live thaw : Bool) (due : Due)
    (op : ReqOp) :
    NextSteady (spanSyl x rights live thaw due op s) :=
  sylH_steady h (fun r t => by simp) ..
theorem execFreeze_steady {s : State} (h : KeptSteady s.kept) (x : Tile) (due : Due) : NextSteady (execFreeze x due s) :=
  spanSyl_steady h ..
theorem execThaw_steady {s : State} (h : KeptSteady s.kept) (x : Tile) (due : Due) : NextSteady (execThaw x due s) :=
  spanSyl_steady h ..
theorem execGrant_steady {s : State} (h : KeptSteady s.kept) (x : Tile) (due : Due) : NextSteady (execGrant x due s) :=
  spanSyl_steady h ..
theorem execThawt_steady {s : State} (h : KeptSteady s.kept) (q : Fin 16) : NextSteady (execThawt q s) :=
  sylS_steady h (fun t => by dsimp only; split <;> simp) _

/-! ### Meanings: Landings, fills, casts and thaws (Sys2Proof/Machine/Home) -/

theorem execLandingArrival_steady {s : State} (h : KeptSteady s.kept) : NextSteady (execLandingArrival s) := by
  unfold execLandingArrival
  repeat' split
  all_goals simp [h]
theorem execSlotFilled_steady {s : State} (h : KeptSteady s.kept) : NextSteady (execSlotFilled s) := by
  unfold execSlotFilled
  repeat' split
  all_goals simp [h]
theorem execCastInvalidate_steady {s : State} (h : KeptSteady s.kept) (p : PageRef) (place : CastPlace) :
    NextSteady (execCastInvalidate p place s) := by
  unfold execCastInvalidate
  split <;> simp [h]
theorem execThawAck_steady {s : State} (h : KeptSteady s.kept) (p : PageRef) (place : CastPlace) :
    NextSteady (execThawAck p place s) := by
  unfold execThawAck
  dsimp only
  repeat' split
  all_goals simp [h]

/-! ### Meanings: Object requests, pushes and collectives (Sys2Proof/Machine/Requests) -/

theorem execPushArrival_steady {s : State} (h : KeptSteady s.kept) : NextSteady (execPushArrival s) := by
  unfold execPushArrival
  repeat' split
  all_goals simp [h]
theorem execObjectRequestPerform_steady {s : State} (h : KeptSteady s.kept) : NextSteady (execObjectRequestPerform s) := by
  unfold execObjectRequestPerform
  repeat' split
  all_goals simp [h]
theorem execCollComplete_steady {s : State} (h : KeptSteady s.kept) : NextSteady (execCollComplete s) := by
  unfold execCollComplete
  dsimp only
  split
  · exact h
  · split
    · split
      · simpa using h
      · split
        next hg => simpa [State.granuleWait_kept hg] using h
        next =>
          split
          · split
            next hm => simpa [State.missingFor_kept hm] using h
            next => simpa using h
          · split
            · simpa using h
            · simpa using h
            next hc =>
              split
              next hm => simpa [State.missingFor_kept hm] using h
              next => simpa [State.writeCheck_kept hc] using h
    · exact h
theorem execCollTimeout_steady {s : State} (h : KeptSteady s.kept) : NextSteady (execCollTimeout s) := by
  unfold execCollTimeout
  repeat' split
  all_goals simp [h]

/-! ### Meanings: Synchronisation (Sys2Proof/Machine/Sync) -/

theorem syncSyl_steady {s : State} (hs : KeptSteady s.kept) (scope : Scope) (h : Fin 16) (a : Fin 64) (extra : Nat) (right : Nat)
    (due : Option Due) (op : Core → ReqOp) :
    NextSteady (syncSyl scope h a extra right due op s) :=
  sylH_steady hs (fun r t => by cases due <;> simp) ..
theorem execAtom_steady {s : State} (hs : KeptSteady s.kept) (op : AtomOp) (ord : Ord) (scope : Scope) (h : Fin 16) (a : Fin 64)
    (due : Due) :
    NextSteady (execAtom op ord scope h a due s) := by
  unfold execAtom
  exact syncSyl_steady hs ..
theorem execRed_steady {s : State} (hs : KeptSteady s.kept) (op : AtomOp) (rel : Bool) (scope : Scope) (h : Fin 16) (a : Fin 64) :
    NextSteady (execRed op rel scope h a s) :=
  syncSyl_steady hs ..
theorem execLdsync_steady {s : State} (hs : KeptSteady s.kept) (acq : Bool) (scope : Scope) (h : Fin 16) (a : Fin 64) (due : Due) :
    NextSteady (execLdsync acq scope h a due s) :=
  syncSyl_steady hs ..
theorem execStsync_steady {s : State} (hs : KeptSteady s.kept) (rel : Bool) (scope : Scope) (h : Fin 16) (a : Fin 64) :
    NextSteady (execStsync rel scope h a s) :=
  syncSyl_steady hs ..
theorem barSyl_steady {s : State} (hs : KeptSteady s.kept) (scope : Scope) (h : Fin 16) (srcs : List Reg) (right : Nat)
    (due : Option Due) (op : Core → ReqOp) :
    NextSteady (barSyl scope h srcs right due op s) :=
  sylH_steady hs (fun r t => by cases due <;> simp) ..
theorem execBarinit_steady {s : State} (hs : KeptSteady s.kept) (scope : Scope) (h : Fin 16) (a : Fin 64) :
    NextSteady (execBarinit scope h a s) :=
  barSyl_steady hs ..
theorem execBarr_steady {s : State} (hs : KeptSteady s.kept) (scope : Scope) (h : Fin 16) : NextSteady (execBarr scope h s) :=
  barSyl_steady hs ..
theorem execBarw_steady {s : State} (hs : KeptSteady s.kept) (scope : Scope) (h : Fin 16) (due : Due) :
    NextSteady (execBarw scope h due s) :=
  barSyl_steady hs ..
theorem execBarrierArrival_steady {s : State} (h : KeptSteady s.kept) : NextSteady (execBarrierArrival s) := by
  unfold execBarrierArrival
  split
  · exact h
  · split
    · exact h
    · split
      · simpa using h
      · split
        · simpa using h
        · split
          · simpa using h
          · split
            · simpa using h
            · split
              next ha => simpa [State.arrive_kept ha] using h
              next => simpa using h
theorem execBarrierParentArrival_steady {s : State} (h : KeptSteady s.kept) (child : PageRef) :
    NextSteady (execBarrierParentArrival child s) := by
  unfold execBarrierParentArrival
  split
  · exact h
  · split
    · exact h
    · split
      · exact h
      · split
        next ha => simpa [State.arrive_kept ha] using h
        next => simpa using h
theorem execBarrierChildFlip_steady {s : State} (h : KeptSteady s.kept) (child : PageRef) :
    NextSteady (execBarrierChildFlip child s) := by
  simp [execBarrierChildFlip, h]
theorem execBarrierTimeout_steady {s : State} (h : KeptSteady s.kept) : NextSteady (execBarrierTimeout s) := by
  unfold execBarrierTimeout
  split <;> simp [h]
theorem execSyncAccessPerform_steady {s : State} (h : KeptSteady s.kept) : NextSteady (execSyncAccessPerform s) := by
  unfold execSyncAccessPerform
  split
  · exact h
  next r _ =>
    refine nextSteady_of_ite h (nextSteady_of_ite (by simpa using h) (nextSteady_of_ite (by simpa using h) ?_))
    generalize r.op = op
    cases op
    case plotrd => simpa using h
    all_goals
      dsimp only
      split <;> simp [h]

/-! ### Meanings: Plot reads and launches (Sys2Proof/Machine/Plots) -/

theorem spawnSyl_steady {s : State} (hs : KeptSteady s.kept) {full : State → State} (hf : ∀ t, (full t).kept = t.kept) (h : Fin 16)
    (a : Fin 64) (due : Due) : NextSteady (spawnSyl h a due full s) := by
  refine sylH_steady hs (fun r t => State.withObj_kept (fun o => State.checked_kept (State.withTemplate_kept ?_ ..) _) ..) ..
  split
  · exact hf t
  next ho => simp [State.spawnOne_kept ho]
  · simp
theorem execSpawn_steady {s : State} (hs : KeptSteady s.kept) (h : Fin 16) (a : Fin 64) (due : Due) :
    NextSteady (execSpawn h a due s) :=
  spawnSyl_steady hs (fun t => by simp) ..
theorem execSpawnw_steady {s : State} (hs : KeptSteady s.kept) (h : Fin 16) (a : Fin 64) (due : Due) :
    NextSteady (execSpawnw h a due s) :=
  spawnSyl_steady hs (fun t => by simp) ..
theorem execSow_steady {s : State} (hs : KeptSteady s.kept) (h : Fin 16) (a : Fin 64) (due : Due) :
    NextSteady (execSow h a due s) := by
  refine sylH_steady hs (fun r t => State.withObj_kept (fun o => State.checked_kept (State.withTemplate_kept ?_ ..) _) ..) ..
  dsimp only
  repeat' split
  all_goals simp
theorem execPlotrd_steady {s : State} (h : KeptSteady s.kept) (a : Fin 64) (due : Due) : NextSteady (execPlotrd a due s) :=
  sylS_steady h (fun t => by simp) _

/-! ### Meanings: Version events (Sys2Proof/Machine/Versions) -/

theorem execVersionEvent_steady {s : State} (h : KeptSteady s.kept) : NextSteady (execVersionEvent s) := by
  unfold execVersionEvent
  split
  · exact h
  next r _ =>
    refine nextSteady_of_ite h (nextSteady_of_ite (by simpa using h) ?_)
    generalize r.op = op
    cases op
    case openH | close | unpin => simpa using h
    all_goals
      dsimp only
      split <;> simp [h]
theorem execSubscTimeout_steady {s : State} (h : KeptSteady s.kept) : NextSteady (execSubscTimeout s) := by
  unfold execSubscTimeout
  split <;> simp [h]

/-! ### Meanings: Ballots and release lists (Sys2Proof/Machine/Ballot) -/

theorem execBpost_steady {s : State} (hs : KeptSteady s.kept) (h : Fin 16) (a : Fin 64) : NextSteady (execBpost h a s) :=
  sylH_steady hs (fun r t => by simp) ..
theorem execBread_steady {s : State} (hs : KeptSteady s.kept) (h : Fin 16) (due : Due) : NextSteady (execBread h due s) :=
  sylH_steady hs (fun r t => by simp) ..
theorem execBallotPost_steady {s : State} (h : KeptSteady s.kept) : NextSteady (execBallotPost s) := by
  unfold execBallotPost
  dsimp only
  repeat' split
  all_goals simp [h]
theorem execSiblingEndMsg_steady {s : State} (h : KeptSteady s.kept) (plot : Nat) : NextSteady (execSiblingEndMsg plot s) := by
  unfold execSiblingEndMsg
  repeat' split
  all_goals simp [h]
theorem execSiblingCancel_steady {s : State} (h : KeptSteady s.kept) (plot : Nat) : NextSteady (execSiblingCancel plot s) := by
  unfold execSiblingCancel
  split <;> simp [h]
/-- An entry that is not applied is counted; one that is changes objects alone. -/
theorem applyEntries_kept (who : Party) (es : List (Word × Nat)) (a : State × Nat) :
    (es.foldl (fun (a : State × Nat) e => match a.1.applyEntry who e.1 e.2 with
      | some s => (s, a.2)
      | none => (a.1, a.2 + 1)) a).1.kept = a.1.kept := by
  induction es generalizing a with
  | nil => rfl
  | cons e es ih =>
    rw [List.foldl_cons, ih]
    split
    next he => exact State.applyEntry_kept he
    next => rfl
theorem execReleaseListApply_steady {s : State} (h : KeptSteady s.kept) (plot : Nat) :
    NextSteady (execReleaseListApply plot s) := by
  unfold execReleaseListApply
  split
  · exact h
  · refine nextSteady_of_ite (by simpa using h) ?_
    split
    · exact h
    · refine nextSteady_of_ite h (nextSteady_of_ite (by simpa using h) ?_)
      simp only [nextSteady_next, State.modPlot_kept]
      exact (congrArg KeptSteady (applyEntries_kept ..)).mpr h

/-! ### Meanings: Host queues (Sys2Proof/Machine/HostQ) -/

theorem execQpEnable_steady {s : State} (h : KeptSteady s.kept) (n : Nat) : NextSteady (execQpEnable n s) := by
  simp [execQpEnable, h]
theorem execQpDisable_steady {s : State} (h : KeptSteady s.kept) (n : Nat) : NextSteady (execQpDisable n s) := by
  simp [execQpDisable, h]
theorem execCompletionWrite_steady {s : State} (h : KeptSteady s.kept) (n : Nat) : NextSteady (execCompletionWrite n s) := by
  unfold execCompletionWrite
  dsimp only
  split
  · exact h
  · split
    · exact h
    · simpa using State.hostPut_steady h ..
theorem execSqTailDoorbell_steady {s : State} (h : KeptSteady s.kept) (n : Nat) (v : BitVec 32) :
    NextSteady (execSqTailDoorbell n v s) := by
  simp [execSqTailDoorbell, h]
theorem execCqHeadDoorbell_steady {s : State} (h : KeptSteady s.kept) (n : Nat) (v : BitVec 32) :
    NextSteady (execCqHeadDoorbell n v s) := by
  simp [execCqHeadDoorbell, h]
theorem execMqHeadDoorbell_steady {s : State} (h : KeptSteady s.kept) (n : Nat) (v : BitVec 32) :
    NextSteady (execMqHeadDoorbell n v s) := by
  simp [execMqHeadDoorbell, h]
theorem execRegisterWrite_steady {s : State} (h : KeptSteady s.kept) (off : Nat) (v : BitVec 32) :
    NextSteady (execRegisterWrite off v s) := by
  unfold execRegisterWrite
  dsimp only
  repeat' split
  all_goals simp [h, execSqTailDoorbell_steady, execCqHeadDoorbell_steady, execMqHeadDoorbell_steady, execQpDisable_steady]

/-! ### Meanings: Vector moves (Sys2Proof/Machine/VectorArith) -/

theorem execVmov_steady {s : State} (h : KeptSteady s.kept) (d a : Fin 32) (k : MaskOp) : NextSteady (execVmov d a k s) := by
  cases k <;> exact h

/-! ### Meanings: Microwords and engine work (Sys2Proof/Machine/Micro) -/

theorem execMad_steady {s : State} (h : KeptSteady s.kept) (x : Cell) : NextSteady (execMad x s) :=
  micro_steady h ..
theorem execAda_steady {s : State} (h : KeptSteady s.kept) (x : Cell) : NextSteady (execAda x s) :=
  micro_steady h ..
theorem execMxp_steady {s : State} (h : KeptSteady s.kept) (x : Cell) : NextSteady (execMxp x s) :=
  micro_steady h ..
theorem execMnp_steady {s : State} (h : KeptSteady s.kept) (x : Cell) : NextSteady (execMnp x s) :=
  micro_steady h ..
theorem execZero_steady {s : State} (h : KeptSteady s.kept) (f : Fill) : NextSteady (execZero f s) :=
  micro_steady h ..
theorem execBld_steady {s : State} (h : KeptSteady s.kept) (skip : Skip) (bix : Fin 4096) (stg : Stg) (src : BSrc) :
    NextSteady (execBld skip bix stg src s) :=
  micro_steady h ..
theorem execBsel_steady {s : State} (h : KeptSteady s.kept) (stg : Stg) : NextSteady (execBsel stg s) :=
  micro_steady h ..
theorem execMloopOpen_steady {s : State} (h : KeptSteady s.kept) (l : MLoop) : NextSteady (execMloopOpen l s) :=
  micro_steady h ..
theorem execMloopClose_steady {s : State} (h : KeptSteady s.kept) (k : Fin 2) : NextSteady (execMloopClose k s) :=
  micro_steady h ..
theorem execMnop_steady {s : State} (h : KeptSteady s.kept) : NextSteady (execMnop s) :=
  micro_steady h ..
theorem execMend_steady {s : State} (h : KeptSteady s.kept) : NextSteady (execMend s) :=
  micro_steady h ..
theorem execEngineWorkStart_steady {s : State} (h : KeptSteady s.kept) : NextSteady (execEngineWorkStart s) := by
  simp [execEngineWorkStart, h]
theorem execMloadCopy_steady {s : State} (h : KeptSteady s.kept) : NextSteady (execMloadCopy s) := by
  unfold execMloadCopy
  split <;> simp [h]
theorem execOrphanCheck_steady {s : State} (h : KeptSteady s.kept) (core : Nat) : NextSteady (execOrphanCheck core s) := by
  unfold execOrphanCheck
  repeat' split
  all_goals simp [h]

/-! ### Meanings: The dispatcher, task start, YIELD (Sys2Proof/Machine/Sched) -/

theorem execDispatchSelect_steady {s : State} (h : KeptSteady s.kept) (die : Nat) : NextSteady (execDispatchSelect die s) := by
  unfold execDispatchSelect
  dsimp only
  split
  · exact h
  · split
    · simpa using h
    · split
      · simpa using h
      · split
        · split <;> simpa using h
        · split
          · simpa using h
          next hw =>
            have hr := walkRing_kept hw
            dsimp only at hr
            repeat' split
            all_goals simpa [hr] using h
theorem execReserve_steady {s : State} (h : KeptSteady s.kept) (die adm : Nat) : NextSteady (execReserve die adm s) := by
  unfold execReserve
  repeat' split
  all_goals simp [h]
theorem execBackoffExpiry_steady {s : State} (h : KeptSteady s.kept) (die plot : Nat) :
    NextSteady (execBackoffExpiry die plot s) := by
  simp [execBackoffExpiry, h]
theorem execCommit_steady {s : State} (h : KeptSteady s.kept) (die adm : Nat) : NextSteady (execCommit die adm s) := by
  unfold execCommit
  split
  · exact h
  · dsimp only
    split
    · simpa using h
    · refine nextSteady_of_ite (by simpa using h) ?_
      split <;> simpa using h
/-- The directives of a task touch objects alone. -/
theorem directives_foldl_kept (p : Party) (param : Word) (ds : List Directive) (a : State × Core) :
    (ds.foldl (fun a d => a.1.directive p param a.2 d) a).1.kept = a.1.kept := by
  induction ds generalizing a with
  | nil => rfl
  | cons d ds ih => rw [List.foldl_cons, ih, State.directive_kept]
theorem execTaskStart_steady {s : State} (h : KeptSteady s.kept) (core plot ix tinst member : Nat) :
    NextSteady (execTaskStart core plot ix tinst member s) := by
  unfold execTaskStart
  dsimp only
  split
  · split
    · exact h
    · split <;> simpa [directives_foldl_kept] using h
  · exact h
theorem execPreempt_steady {s : State} (h : KeptSteady s.kept) (core : Nat) : NextSteady (execPreempt core s) := by
  unfold execPreempt
  repeat' split
  all_goals simp [h]
theorem execYield_steady {s : State} (h : KeptSteady s.kept) : NextSteady (execYield s) :=
  sylS_steady h (fun t => by
    split
    · split <;> simp
    · rfl) _

/-! ### Meanings: Saving and resumption (Sys2Proof/Machine/Save) -/

theorem execSnapshotSave_steady {s : State} (h : KeptSteady s.kept) (core : Nat) : NextSteady (execSnapshotSave core s) := by
  unfold execSnapshotSave
  repeat' split
  all_goals simp [h]
theorem execTaskResumption_steady {s : State} (h : KeptSteady s.kept) (tinst core : Nat) :
    NextSteady (execTaskResumption tinst core s) := by
  unfold execTaskResumption
  split
  · refine nextSteady_of_ite ?_ ?_
    · simp only [nextSteady_next, State.deliver_kept]
      split
      · simpa using h
      · exact h
    · simpa using h
  · exact h
theorem execRetireComplete_steady {s : State} (h : KeptSteady s.kept) (core : Nat) : NextSteady (execRetireComplete core s) := by
  unfold execRetireComplete
  split <;> simp [h]
theorem execSpawnwDeadlockBreak_steady {s : State} (h : KeptSteady s.kept) (die : Nat) :
    NextSteady (execSpawnwDeadlockBreak die s) := by
  unfold execSpawnwDeadlockBreak
  dsimp only
  split <;> simp [h]

/-! ### Meanings: Memory tiers and rows (Sys2Proof/Machine/Tiers) -/

theorem execPageMoveComplete_steady {s : State} (h : KeptSteady s.kept) (r : PageRef) : NextSteady (execPageMoveComplete r s) := by
  unfold execPageMoveComplete
  repeat' split
  all_goals simp [h]
theorem execPagePromotion_steady {s : State} (h : KeptSteady s.kept) (r : PageRef) : NextSteady (execPagePromotion r s) := by
  unfold execPagePromotion
  repeat' split
  all_goals simp [h]
theorem execPageEviction_steady {s : State} (h : KeptSteady s.kept) (die : Nat) : NextSteady (execPageEviction die s) := by
  unfold execPageEviction
  split
  · exact h
  · split
    · exact h
    · split
      · exact h
      next hr => simpa [State.lpddrRoom_kept hr] using h
theorem execObjMissingResolve_steady {s : State} (h : KeptSteady s.kept) (r : PageRef) :
    NextSteady (execObjMissingResolve r s) := by
  unfold execObjMissingResolve
  repeat' split
  all_goals simp [h]
theorem execRowActivation_steady {s : State} (h : KeptSteady s.kept) (r : RowRef) : NextSteady (execRowActivation r s) := by
  simp [execRowActivation, h]
theorem execRfmComplete_steady {s : State} (h : KeptSteady s.kept) (ctrl bank : Nat) :
    NextSteady (execRfmComplete ctrl bank s) := by
  simp [execRfmComplete, h]

/-! ### Meanings: Traps and service calls (Sys2Proof/Machine/Traps) -/

theorem execLateFault_steady {s : State} (h : KeptSteady s.kept) (core : Nat) : NextSteady (execLateFault core s) := by
  unfold execLateFault
  dsimp only
  repeat' split
  all_goals simp [h]
theorem execTrapPolicy_steady {s : State} (h : KeptSteady s.kept) (core : Nat) : NextSteady (execTrapPolicy core s) := by
  unfold execTrapPolicy
  repeat' split
  all_goals simp [h]
theorem execSvc_steady {s : State} (h : KeptSteady s.kept) (port a : Fin 64) (due : Due) : NextSteady (execSvc port a due s) := by
  unfold execSvc
  refine sylS_steady_of_steady h (fun t ht => ?_) _
  dsimp only
  split
  · simpa using ht
  · split
    · simpa using ht
    · exact State.svcRoute_steady (by simpa using ht) _
theorem execSvcAllocx_steady {s : State} (h : KeptSteady s.kept) : NextSteady (execSvcAllocx s) := by
  unfold execSvcAllocx
  dsimp only
  split
  · exact h
  · split
    · split
      · simpa using h
      · split
        · simpa using h
        · exact State.svcRoute_steady h _
    · exact h
theorem execSvcSpill_steady {s : State} (h : KeptSteady s.kept) : NextSteady (execSvcSpill s) := by
  unfold execSvcSpill
  dsimp only
  repeat' split
  all_goals simp [h]
theorem execSvcTimeout_steady {s : State} (h : KeptSteady s.kept) : NextSteady (execSvcTimeout s) := by
  unfold execSvcTimeout
  repeat' split
  all_goals simp [h]

/-! ### Meanings: Host commands (Sys2Proof/Machine/HostCmd) -/

theorem execPlotCreate_steady {s : State} (h : KeptSteady s.kept) : NextSteady (execPlotCreate s) := by
  unfold execPlotCreate
  exact State.guardCmd_steady h (State.ends_steady (by simpa using h) ..) ..
theorem execPlotClose_steady {s : State} (h : KeptSteady s.kept) : NextSteady (execPlotClose s) := by
  unfold execPlotClose
  exact State.guardCmd_steady h (State.ends_steady (by simpa using h) ..) ..
theorem execTasksetSubmit_steady {s : State} (h : KeptSteady s.kept) : NextSteady (execTasksetSubmit s) := by
  unfold execTasksetSubmit
  dsimp only
  split
  · exact State.guardCmd_steady h (State.ends_steady (by simpa using h) ..) ..
  · exact State.guardCmd_steady h h ..
  · exact State.guardCmd_steady h h ..
theorem execPolicySet_steady {s : State} (h : KeptSteady s.kept) : NextSteady (execPolicySet s) := by
  unfold execPolicySet
  exact State.guardCmd_steady h (State.ends_steady (by simpa using h) ..) ..
theorem execPortBind_steady {s : State} (h : KeptSteady s.kept) : NextSteady (execPortBind s) := by
  unfold execPortBind
  exact State.guardCmd_steady h (State.ends_steady (by simpa using h) ..) ..
theorem execDomainTerminate_steady {s : State} (h : KeptSteady s.kept) : NextSteady (execDomainTerminate s) := by
  unfold execDomainTerminate
  exact State.guardCmd_steady h (State.ends_steady (by simpa using h) ..) ..
theorem execDebugAttach_steady {s : State} (h : KeptSteady s.kept) : NextSteady (execDebugAttach s) := by
  unfold execDebugAttach
  exact State.guardCmd_steady h (State.ends_steady (by simpa using h) ..) ..
theorem execMinhbmSet_steady {s : State} (h : KeptSteady s.kept) : NextSteady (execMinhbmSet s) := by
  unfold execMinhbmSet
  exact State.guardCmd_steady h (State.ends_steady (by simpa using h) ..) ..
theorem execTaskResume_steady {s : State} (h : KeptSteady s.kept) : NextSteady (execTaskResume s) := by
  unfold execTaskResume
  refine State.guardCmd_steady h (State.ends_steady ?_ ..) ..
  dsimp only
  split
  · simpa using h
  · exact h
theorem execSnapRead_steady {s : State} (h : KeptSteady s.kept) : NextSteady (execSnapRead s) := by
  unfold execSnapRead
  exact State.snapGuard_steady h (fun _ _ => State.hostPut_steady h ..) ..
theorem execSnapWrite_steady {s : State} (h : KeptSteady s.kept) : NextSteady (execSnapWrite s) := by
  unfold execSnapWrite
  exact State.snapGuard_steady h (fun _ _ => by simpa using h) ..
theorem execJournalRead_steady {s : State} (h : KeptSteady s.kept) : NextSteady (execJournalRead s) := by
  unfold execJournalRead
  exact State.guardCmd_steady h (State.ends_steady (State.hostPut_steady h ..) ..) ..
theorem execObjCreate_steady {s : State} (h : KeptSteady s.kept) : NextSteady (execObjCreate s) := by
  unfold execObjCreate
  refine State.guardCmd_steady h ?_ ..
  split
  next hc => exact State.ends_steady (by simpa [State.create_kept hc] using h) ..
  next => exact State.ends_steady h ..
theorem execObjFree_steady {s : State} (h : KeptSteady s.kept) : NextSteady (execObjFree s) := by
  unfold execObjFree
  refine State.guardCmd_steady h ?_ ..
  split
  · exact State.ends_steady (by simpa using h) ..
  · exact h
theorem execObjWrite_steady {s : State} (h : KeptSteady s.kept) : NextSteady (execObjWrite s) := by
  unfold execObjWrite
  dsimp only
  split
  · exact State.guardCmd_steady h h ..
  · refine State.guardCmd_steady h ?_ ..
    split
    · exact State.hostWriteLive_steady h ..
    · exact State.hostPublish_steady h ..
theorem execObjRead_steady {s : State} (h : KeptSteady s.kept) : NextSteady (execObjRead s) := by
  unfold execObjRead
  dsimp only
  split
  · exact State.guardCmd_steady h h ..
  · refine State.guardCmd_steady h ?_ ..
    split
    next hm => simpa [State.missing_kept hm] using h
    next =>
      split
      next hg => simpa [State.granuleWait_kept hg] using h
      next => exact State.ends_steady (by simpa using State.hostPut_steady (by simpa using h) ..) ..
theorem execApertureSet_steady {s : State} (h : KeptSteady s.kept) : NextSteady (execApertureSet s) := by
  unfold execApertureSet
  dsimp only
  split
  · exact State.guardCmd_steady h (State.ends_steady (by simpa using h) ..) ..
  · split
    · exact State.guardCmd_steady h h ..
    · exact State.guardCmd_steady h (State.ends_steady (by simpa using h) ..) ..

/-! ### Meanings: Apertures, granules and links (Sys2Proof/Machine/Links) -/

theorem execHostBar2Read_steady {s : State} (h : KeptSteady s.kept) (at_ : HostAddr) (n : Nat) :
    NextSteady (execHostBar2Read at_ n s) := by
  unfold execHostBar2Read
  dsimp only
  split
  · exact h
  · split
    · exact h
    · split
      · exact h
      · split
        next hm => simpa [State.missing_kept hm] using h
        next => simpa using h
theorem execHostBar2Write_steady {s : State} (h : KeptSteady s.kept) (off : Nat) (data : List Byte) :
    NextSteady (execHostBar2Write off data s) := by
  unfold execHostBar2Write
  dsimp only
  split
  · simpa using h
  · split
    · simpa using h
    · split
      · simpa using h
      · split
        next hm => simpa [State.missing_kept hm] using h
        next => simpa using h
theorem execGranuleTransfer_steady {s : State} (h : KeptSteady s.kept) (g : GranuleRef) (a : GranuleAccess) :
    NextSteady (execGranuleTransfer g a s) := by
  simp [execGranuleTransfer, h]
theorem execGranuleTransferDone_steady {s : State} (h : KeptSteady s.kept) (g : GranuleRef) :
    NextSteady (execGranuleTransferDone g s) := by
  unfold execGranuleTransferDone
  dsimp only
  split
  · exact h
  · split
    next hw =>
      split at hw
      · cases hw
      · simpa [State.writeBackWait_kept hw] using h
    next => simpa using h
theorem execGranuleTenureExpiry_steady {s : State} (h : KeptSteady s.kept) (g : GranuleRef) :
    NextSteady (execGranuleTenureExpiry g s) := by
  simp [execGranuleTenureExpiry, h]
theorem execLinkMessageReceive_steady {s : State} (h : KeptSteady s.kept) (src seq : Nat) (body : LinkBody) :
    NextSteady (execLinkMessageReceive src seq body s) := by
  unfold execLinkMessageReceive
  dsimp only
  repeat' split
  all_goals simp [h]
theorem execLinkRetransmit_steady {s : State} (h : KeptSteady s.kept) (dst seq : Nat) :
    NextSteady (execLinkRetransmit dst seq s) := by
  unfold execLinkRetransmit
  repeat' split
  all_goals simp [h]
theorem execTimestampCorrection_steady {s : State} (h : KeptSteady s.kept) (ppm : Int) :
    NextSteady (execTimestampCorrection ppm s) := by
  obtain ⟨hmem, hlo, hhi, hphase, -⟩ := h
  have hs : -100 ≤ max (-100) (min 100 ppm) ∧ max (-100) (min 100 ppm) ≤ 100 := by omega
  exact ⟨hmem, hlo, hhi, hphase, hs.1, hs.2, Nat.zero_lt_succ _⟩

/-! ### Meanings: Errors, power and management (Sys2Proof/Machine/BringUp) -/

theorem execCorrectedError_steady {s : State} (h : KeptSteady s.kept) (r : Resource) : NextSteady (execCorrectedError r s) := by
  unfold execCorrectedError
  dsimp only
  repeat' split
  all_goals simp [h]
theorem execUncorrectableError_steady {s : State} (h : KeptSteady s.kept) (p : ErrorPlace) :
    NextSteady (execUncorrectableError p s) := by
  unfold execUncorrectableError
  dsimp only
  repeat' split
  all_goals simp [h]
theorem execPowerOn_steady {s : State} (h : KeptSteady s.kept) : NextSteady (execPowerOn s) := by
  unfold execPowerOn
  repeat' split
  all_goals simp [h]
theorem execReset_steady {s : State} (h : KeptSteady s.kept) : NextSteady (execReset s) := by
  obtain ⟨hmem, -, -, hphase, -⟩ := h
  obtain ⟨-, hlo, hhi, -, hslew⟩ := resetIsSteady
  exact ⟨hmem, hlo, hhi, hphase, hslew⟩
theorem execPowerCapSet_steady {s : State} (h : KeptSteady s.kept) (watts : Nat) : NextSteady (execPowerCapSet watts s) := by
  obtain ⟨hmem, hlo, hhi, hrest⟩ := h
  unfold execPowerCapSet
  split
  next hw => exact ⟨hmem, hw.1, hw.2, hrest⟩
  next => exact ⟨hmem, hlo, hhi, hrest⟩

/-! ### The parts of a turn, whatever the meanings keep -/

theorem swept_steady {o : Out} (h : NextSteady o) : NextSteady (swept o) := by
  cases o with
  | next t => simpa [swept] using h
  | fault | refused => trivial

section
variable {ex : Instr → State → Out} (hex : ∀ i s, KeptSteady s.kept → NextSteady (ex i s))
include hex

/-- A meaning's next state. -/
theorem ex_steady {i : Instr} {s t : State} (h : KeptSteady s.kept) (ht : ex i s = .next t) : KeptSteady t.kept := by
  have := hex i s h
  rwa [ht] at this
theorem performAll_steady {addr len flying : Nat} {r : Option Replay} {ys : List Syllable} {s : State} {t : Tally}
    {u : State × Tally} (h : KeptSteady s.kept) (hu : performAll ex addr len flying r ys s t = .next u) : KeptSteady u.1.kept := by
  induction ys generalizing s t with
  | nil => cases hu; exact h
  | cons y ys ih =>
    unfold performAll at hu
    dsimp only at hu
    split at hu
    · exact ih h hu
    · split at hu
      next hy => exact ih (ex_steady hex (by exact h) hy) hu
      next => cases hu
      next => cases hu
theorem performBundle_steady {addr len : Nat} {r : Option Replay} {ys : List Syllable} {s : State} {u : State × Tally}
    (h : KeptSteady s.kept) (hu : performBundle ex addr len r ys s = .next u) : KeptSteady u.1.kept := by
  unfold performBundle at hu
  split at hu
  · split at hu
    next he => cases hu; exact ex_steady hex h he
    next => cases hu
    next => cases hu
  · exact performAll_steady hex h hu
theorem issueBundle_steady {s : State} (h : KeptSteady s.kept) : NextSteady (issueBundle ex s) := by
  unfold issueBundle
  dsimp only
  refine nextSteady_of_ite (by simpa using h) ?_
  split
  · simpa using h
  · split
    · simpa using h
    · simpa using h
    · refine nextSteady_of_ite (by simpa using h) ?_
      split
      next r hr =>
        have hr := performBundle_steady hex (by simpa using h) hr
        rw [nextSteady_next]
        rcases settle_kept .. with e | e <;> rw [e]
        · simpa using h
        · exact hr
      next => trivial
      next => trivial
theorem deliverLate_steady {s : State} (h : KeptSteady s.kept) : NextSteady (deliverLate ex s) := by
  unfold deliverLate
  split
  next ht => simpa using ex_steady hex h ht
  next => trivial
  next => trivial
theorem issueStage_steady {s : State} (h : KeptSteady s.kept) : NextSteady (issueStage ex s) := by
  have hlate := deliverLate_steady hex h
  have hissue := issueBundle_steady hex h
  unfold issueStage
  dsimp only
  split
  · refine nextSteady_of_ite (State.rotate_steady (by simpa using h)) (nextSteady_of_ite (by simpa using h) ?_)
    split
    · simpa using h
    · exact nextSteady_of_ite hlate hissue
    · exact nextSteady_of_ite hlate hissue
  · split
    · simpa using h
    · exact nextSteady_of_ite hlate (by simpa using h)
  · exact State.rotate_steady h
  · simpa using h
  · simpa using h
theorem writebackStage_steady {s : State} (h : KeptSteady s.kept) : NextSteady (writebackStage ex s) := by
  unfold writebackStage
  split
  next ht => exact State.rotate_steady (by simpa using ex_steady hex h ht)
  next => trivial
  next => trivial
theorem runSteps_steady {is : List Instr} {s : State} (h : KeptSteady s.kept) : NextSteady (runSteps ex is s) := by
  induction is generalizing s with
  | nil => exact h
  | cons i is ih =>
    unfold runSteps
    split
    next ht => exact ih (ex_steady hex h ht)
    next => trivial
    next => trivial
theorem runSteps_next_steady {is : List Instr} {s t : State} (h : KeptSteady s.kept) (ht : runSteps ex is s = .next t) :
    KeptSteady t.kept := by
  have := runSteps_steady hex (is := is) h
  rwa [ht] at this
theorem engineStage_steady {s : State} (h : KeptSteady s.kept) : NextSteady (engineStage ex s) := by
  unfold engineStage
  dsimp only
  split
  next t ht =>
    refine runSteps_steady hex ?_
    rw [State.modCore_kept]
    split at ht
    · exact runSteps_next_steady hex (by simpa using h) ht
    · cases ht
      simpa using h
  next => trivial
  next => trivial
theorem engineTurn_steady {s : State} (h : KeptSteady s.kept) : NextSteady (engineTurn ex s) := by
  have he := engineStage_steady hex h
  unfold engineTurn
  split
  case h_4 => simpa using h
  all_goals
    split
    next ht =>
      rw [ht] at he
      simpa using he
    next => trivial
    next => trivial
theorem takeInput_steady (i : Instr) {s : State} (h : KeptSteady s.kept) : NextSteady (takeInput ex i s) :=
  nextSteady_of_ite (hex _ _ (by exact h)) (by exact h)
theorem takeEvent_steady (e : Event) {s : State} (h : KeptSteady s.kept) : NextSteady (takeEvent ex e s) := by
  refine swept_steady ?_
  split
  all_goals exact hex _ _ (by simpa using h)
theorem takeCommand_steady (q : QPair) {s : State} (h : KeptSteady s.kept) : NextSteady (takeCommand ex q s) := by
  unfold takeCommand
  split
  · exact hex _ _ (by simpa using h)
  · exact State.refuseCommand_steady (by simpa using h)
theorem eventStage_steady {s : State} (h : KeptSteady s.kept) : NextSteady (eventStage ex s) := by
  unfold eventStage
  split
  · exact swept_steady (by simpa using h)
  · split
    · exact takeInput_steady hex _ h
    · split
      · exact takeEvent_steady hex _ h
      · split
        · exact swept_steady (hex _ _ h)
        · split
          · simpa using h
          · split
            · simpa using h
            · split
              · exact takeCommand_steady hex _ h
              · split
                · simpa using h
                · split <;> simpa using h
theorem haltedTurn_steady {s : State} (h : KeptSteady s.kept) : NextSteady (haltedTurn ex s) := by
  unfold haltedTurn
  split
  · exact takeEvent_steady hex _ h
  · exact State.haltEnd_steady h
/-- One part of a turn keeps what the meanings keep. -/
theorem turn_steady {s : State} (h : KeptSteady s.kept) : NextSteady (turn ex s) := by
  unfold turn
  split
  · exact eventStage_steady hex h
  · exact issueStage_steady hex (by simpa using h)
  · exact engineTurn_steady hex h
  · exact writebackStage_steady hex h
  · exact haltedTurn_steady hex h

end

/-! ### Every step -/

/-- Every meaning keeps what `Steady` asks. -/
theorem exec_steady (i : Instr) {s : State} (h : KeptSteady s.kept) : NextSteady (exec i s) := by
  cases i
  case csrrd => exact execCsrrd_steady h ..
  case retireComplete => exact execRetireComplete_steady h ..
  case vmov => exact execVmov_steady h ..
  case zero => exact execZero_steady h ..
  case bld => exact execBld_steady h ..
  case bsel => exact execBsel_steady h ..
  case mloopOpen => exact execMloopOpen_steady h ..
  case mloopClose => exact execMloopClose_steady h ..
  case mad => exact execMad_steady h ..
  case ada => exact execAda_steady h ..
  case mxp => exact execMxp_steady h ..
  case mnp => exact execMnp_steady h ..
  case openH => exact execOpenH_steady h ..
  case close => exact execClose_steady h ..
  case info => exact execInfo_steady h ..
  case alloc => exact execAlloc_steady h ..
  case free => exact execFree_steady h ..
  case fetch => exact execFetch_steady h ..
  case store => exact execStore_steady h ..
  case gather => exact execGather_steady h ..
  case scatter => exact execScatter_steady h ..
  case pushr => exact execPushr_steady h ..
  case pref => exact execPref_steady h ..
  case copyo => exact execCopyo_steady h ..
  case coll => exact execColl_steady h ..
  case publ => exact execPubl_steady h ..
  case subsc => exact execSubsc_steady h ..
  case pin => exact execPin_steady h ..
  case unpin => exact execUnpin_steady h ..
  case freeze => exact execFreeze_steady h ..
  case thaw => exact execThaw_steady h ..
  case thawt => exact execThawt_steady h ..
  case grant => exact execGrant_steady h ..
  case castInvalidate => exact execCastInvalidate_steady h ..
  case thawAck => exact execThawAck_steady h ..
  case atom => exact execAtom_steady h ..
  case red => exact execRed_steady h ..
  case ldsync => exact execLdsync_steady h ..
  case stsync => exact execStsync_steady h ..
  case barinit => exact execBarinit_steady h ..
  case barr => exact execBarr_steady h ..
  case barw => exact execBarw_steady h ..
  case barrierParentArrival => exact execBarrierParentArrival_steady h ..
  case barrierChildFlip => exact execBarrierChildFlip_steady h ..
  case orphanCheck => exact execOrphanCheck_steady h ..
  case spawn => exact execSpawn_steady h ..
  case spawnw => exact execSpawnw_steady h ..
  case spawnwDeadlockBreak => exact execSpawnwDeadlockBreak_steady h ..
  case sow => exact execSow_steady h ..
  case bpost => exact execBpost_steady h ..
  case siblingEndMsg => exact execSiblingEndMsg_steady h ..
  case siblingCancel => exact execSiblingCancel_steady h ..
  case releaseListApply => exact execReleaseListApply_steady h ..
  case bread => exact execBread_steady h ..
  case plotrd => exact execPlotrd_steady h ..
  case svc => exact execSvc_steady h ..
  case lateFault => exact execLateFault_steady h ..
  case trapPolicy => exact execTrapPolicy_steady h ..
  case preempt => exact execPreempt_steady h ..
  case snapshotSave => exact execSnapshotSave_steady h ..
  case taskResumption => exact execTaskResumption_steady h ..
  case dispatchSelect => exact execDispatchSelect_steady h ..
  case reserve => exact execReserve_steady h ..
  case commit => exact execCommit_steady h ..
  case backoffExpiry => exact execBackoffExpiry_steady h ..
  case taskStart => exact execTaskStart_steady h ..
  case objMissingResolve => exact execObjMissingResolve_steady h ..
  case pageEviction => exact execPageEviction_steady h ..
  case pagePromotion => exact execPagePromotion_steady h ..
  case pageMoveComplete => exact execPageMoveComplete_steady h ..
  case rowActivation => exact execRowActivation_steady h ..
  case rfmComplete => exact execRfmComplete_steady h ..
  case completionWrite => exact execCompletionWrite_steady h ..
  case sqTailDoorbell => exact execSqTailDoorbell_steady h ..
  case cqHeadDoorbell => exact execCqHeadDoorbell_steady h ..
  case mqHeadDoorbell => exact execMqHeadDoorbell_steady h ..
  case qpEnable => exact execQpEnable_steady h ..
  case qpDisable => exact execQpDisable_steady h ..
  case registerWrite => exact execRegisterWrite_steady h ..
  case hostBar2Read => exact execHostBar2Read_steady h ..
  case hostBar2Write => exact execHostBar2Write_steady h ..
  case granuleTransfer => exact execGranuleTransfer_steady h ..
  case granuleTransferDone => exact execGranuleTransferDone_steady h ..
  case granuleTenureExpiry => exact execGranuleTenureExpiry_steady h ..
  case linkMessageReceive => exact execLinkMessageReceive_steady h ..
  case linkRetransmit => exact execLinkRetransmit_steady h ..
  case timestampCorrection => exact execTimestampCorrection_steady h ..
  case correctedError => exact execCorrectedError_steady h ..
  case uncorrectableError => exact execUncorrectableError_steady h ..
  case powerCapSet => exact execPowerCapSet_steady h ..
  case yield => exact execYield_steady h ..
  case resultWriteback => exact execResultWriteback_steady h ..
  case mloadCopy => exact execMloadCopy_steady h ..
  case engineWorkStart => exact execEngineWorkStart_steady h ..
  case mend => exact execMend_steady h ..
  case mnop => exact execMnop_steady h ..
  case powerOn => exact execPowerOn_steady h ..
  case reset => exact execReset_steady h ..
  case pushArrival => exact execPushArrival_steady h ..
  case collComplete => exact execCollComplete_steady h ..
  case collTimeout => exact execCollTimeout_steady h ..
  case subscTimeout => exact execSubscTimeout_steady h ..
  case objectRequestPerform => exact execObjectRequestPerform_steady h ..
  case versionEvent => exact execVersionEvent_steady h ..
  case slotFilled => exact execSlotFilled_steady h ..
  case syncAccessPerform => exact execSyncAccessPerform_steady h ..
  case barrierArrival => exact execBarrierArrival_steady h ..
  case barrierTimeout => exact execBarrierTimeout_steady h ..
  case landingArrival => exact execLandingArrival_steady h ..
  case ballotPost => exact execBallotPost_steady h ..
  case svcAllocx => exact execSvcAllocx_steady h ..
  case svcSpill => exact execSvcSpill_steady h ..
  case svcTimeout => exact execSvcTimeout_steady h ..
  case plotCreate => exact execPlotCreate_steady h ..
  case plotClose => exact execPlotClose_steady h ..
  case tasksetSubmit => exact execTasksetSubmit_steady h ..
  case objCreate => exact execObjCreate_steady h ..
  case objWrite => exact execObjWrite_steady h ..
  case objRead => exact execObjRead_steady h ..
  case objFree => exact execObjFree_steady h ..
  case policySet => exact execPolicySet_steady h ..
  case portBind => exact execPortBind_steady h ..
  case taskResume => exact execTaskResume_steady h ..
  case domainTerminate => exact execDomainTerminate_steady h ..
  case debugAttach => exact execDebugAttach_steady h ..
  case minhbmSet => exact execMinhbmSet_steady h ..
  case snapRead => exact execSnapRead_steady h ..
  case snapWrite => exact execSnapWrite_steady h ..
  case journalRead => exact execJournalRead_steady h ..
  case apertureSet => exact execApertureSet_steady h ..
  -- every other instruction acts on its core alone
  all_goals exact h

/-- Settles O59: every meaning keeps the steady fields, and a turn keeps what the meanings keep. -/
theorem stepKeepsSteady : Obligations.StepKeepsSteady := by
  intro s t hs ht
  have hnext : NextSteady (step s) := turn_steady (fun i s h => exec_steady i h) ((steady_iff_kept s).mp hs)
  rw [ht] at hnext
  exact (steady_iff_kept t).mpr hnext

end Sys2Proof.Machine

/-! PROOFS. Vector registers: the elements of a built image, masks, the causes of R132 behind well-formed tags, and the one
result that a V syllable leaves in flight. -/
namespace Sys2Proof.Machine

/-! ### Elements (Sys2Proof/Machine/Operands) -/

theorem bitsAt_mod (d : VBits) (w e : Nat) : bitsAt d w e % 2 ^ (8 * w) = bitsAt d w e := Nat.mod_mod ..

theorem packElems_lt (w : Nat) : ∀ l : List Nat, packElems w l < 2 ^ (8 * w * l.length)
  | [] => by simp [packElems]
  | x :: l => by
    have hx : x % 2 ^ (8 * w) < 2 ^ (8 * w) := Nat.mod_lt _ (Nat.two_pow_pos _)
    calc packElems w (x :: l)
      _ < 2 ^ (8 * w) + 2 ^ (8 * w) * packElems w l := Nat.add_lt_add_right hx _
      _ = 2 ^ (8 * w) * (packElems w l + 1) := by rw [Nat.mul_succ, Nat.add_comm]
      _ ≤ 2 ^ (8 * w) * 2 ^ (8 * w * l.length) := Nat.mul_le_mul_left _ (packElems_lt w l)
      _ = 2 ^ (8 * w * (x :: l).length) := by rw [← Nat.pow_add, List.length_cons, Nat.mul_succ, Nat.add_comm]

/-- Dropping the first e patterns and keeping one leaves element e of the list. -/
theorem packElems_elem (w : Nat) : ∀ (l : List Nat) (e : Nat) (he : e < l.length),
    packElems w l / 2 ^ (8 * w * e) % 2 ^ (8 * w) = l[e] % 2 ^ (8 * w)
  | x :: l, 0, _ => by simp [packElems]
  | x :: l, e + 1, he => by
    have hx : x % 2 ^ (8 * w) < 2 ^ (8 * w) := Nat.mod_lt _ (Nat.two_pow_pos _)
    rw [packElems, Nat.mul_succ, Nat.add_comm (8 * w * e), Nat.pow_add, ← Nat.div_div_eq_div_mul,
      Nat.add_mul_div_left _ _ (Nat.two_pow_pos _), Nat.div_eq_of_lt hx, Nat.zero_add]
    exact packElems_elem w l e (Nat.lt_of_succ_lt_succ he)

/-- An image with room for the elements holds their number. -/
theorem toNat_ofNat_packElems {w n : Nat} {l : List Nat} (h : 8 * w * l.length ≤ n) :
    (BitVec.ofNat n (packElems w l)).toNat = packElems w l :=
  (BitVec.toNat_ofNat ..).trans (Nat.mod_eq_of_lt (Nat.lt_of_lt_of_le (packElems_lt w l) (Nat.pow_le_pow_right (by decide) h)))

/-- A whole image reads back its elements, to their width. -/
theorem bitsAt_mkImage {w e : Nat} (el : Nat → Nat) (he : e < elems w) :
    bitsAt (mkImage w (elems w) el) w e = el e % 2 ^ (8 * w) := by
  have hfit : 8 * w * ((List.range (elems w)).map el).length ≤ 4096 := by
    rw [List.length_map, List.length_range, Nat.mul_assoc]
    exact Nat.mul_le_mul_left 8 (Nat.mul_div_le 512 w)
  rw [bitsAt, mkImage, toNat_ofNat_packElems hfit,
    packElems_elem w _ e (by simpa using he), List.getElem_map, List.getElem_range]

/-! ### Masks (Sys2Proof/Machine/Operands, Sys2Proof/Machine/VectorArith) -/

theorem active_eq_selects (c : Core) (k : MaskOp) (w e : Nat) : active c k w e = selects c k w e := by cases k <;> rfl
theorem maskSrcs_eq_maskReads (k : MaskOp) (d : Fin 32) : maskSrcs k d = maskReads k (.v d.val) := by
  rcases k with _ | ⟨m, _ | _⟩ <;> rfl
theorem merges_and_poison (c : Core) (k : MaskOp) (d : Fin 32) :
    (MaskOp.merges k && (c.rv d).tag.poison) = mergedPoison c k d := by
  rcases k with _ | ⟨m, _ | _⟩ <;> simp [MaskOp.merges, mergedPoison]
theorem merged_or_zero (c : Core) (k : MaskOp) (d : Fin 32) (w e : Nat) :
    (if MaskOp.merges k then bitsAt (c.rv d).data w e else 0) = unselected c k d w e := by
  rcases k with _ | ⟨m, _ | _⟩ <;> rfl
theorem unselected_mod (c : Core) (k : MaskOp) (d : Fin 32) (w e : Nat) :
    unselected c k d w e % 2 ^ (8 * w) = unselected c k d w e := by
  rcases k with _ | ⟨m, _ | _⟩ <;> simp [unselected, bitsAt_mod]

/-- A masked image has each element as R129 says. -/
theorem holds_maskedImage (c : Core) (k : MaskOp) (d : Fin 32) (w : Nat) (el : Nat → Nat) (t : Tag) :
    holds c k d w ⟨maskedImage c k d w el, t⟩ el := by
  intro e he
  simp only [maskedImage, active_eq_selects, merged_or_zero]
  rw [bitsAt_mkImage _ he]
  split
  · rfl
  · exact unselected_mod ..

/-- A register written under a mask is one result in flight (R128, R129). -/
theorem writeV_gives (c : Core) (lat : Nat) (k : MaskOp) (d : Fin 32) (t : Tag) (w : Nat) (el : Nat → Nat) :
    c.done.writeV lat k d t w el = c.gives (givesV c (latIf c lat) d
      ⟨maskedImage c k d w el, { t with poison := t.poison || mergedPoison c k d }⟩) := by
  rw [← merges_and_poison]
  rfl

/-! ### Causes (Sys2Proof/Machine/VectorArith) -/

theorem tagOk.not_poison {t : Tag} (h : tagOk t) : t.poison = false := h.1
theorem tagOk.carries {t : Tag} (h : tagOk t) : tagCarries t := h.2
theorem not_isPoison_of_tagCarries {v : VReg} (h : tagCarries v.tag) : v.isPoison = false := decide_eq_false h.1
theorem not_isReserved_of_tagCarries {t : Tag} (h : tagCarries t) : isReserved t.fmt = false := decide_eq_false h.2.1
theorem not_reserved_of_tagCarries {v : VReg} (h : tagCarries v.tag) : v.reserved = false := not_isReserved_of_tagCarries h
theorem not_badScale_of_tagCarries {t : Tag} (h : tagCarries t) : Tag.badScale t = false := by
  obtain ⟨-, -, hs | hs⟩ := h <;> simp [Tag.badScale, hs]
theorem not_marked_of_tagOk {v : VReg} (h : tagOk v.tag) : v.marked = false := by
  rw [VReg.marked, h.not_poison, not_isPoison_of_tagCarries h.carries]; rfl

/-- The result of an interpreting instruction has the tag of a well-tagged A. -/
theorem resultTag_of_tagOk {v : VReg} (h : tagOk v.tag) : resultTag v = v.tag := by
  have hscale : (if v.kind.scaled then v.tag.scale else 0) = v.tag.scale := by
    obtain ⟨-, -, -, hs | hs⟩ := h <;> simp [VReg.kind, hs]
  rw [resultTag, hscale, ← h.not_poison]

theorem not_mergeBad_of_mergeOk {c : Core} {k : MaskOp} {d : Fin 32} {t : Tag} (h : mergeOk c k d t.fmt t.scale) :
    mergeBad c k d t = false := by
  rcases k with _ | ⟨m, _ | _⟩
  · rfl
  · simp [mergeBad, h m rfl]
  · rfl

theorem t16_iff {v : VReg} : v.t16 = true ↔ v.kind = .flt .t16 := decide_eq_true_iff
theorem not_emulated {t16 emul : Bool} (h : t16 = true → emul = true) : (t16 && !emul) = false := by
  cases t16 <;> simp_all

theorem vCause_eq_none_iff {poison isReserved mismatch emulate : Bool} :
    vCause poison isReserved mismatch emulate = none ↔
      poison = false ∧ isReserved = false ∧ mismatch = false ∧ emulate = false := by
  cases poison <;> cases isReserved <;> cases mismatch <;> cases emulate <;> decide

/-- An interpreting instruction of one source runs on a well-tagged register of a format it takes, T16 only where the system
cores compute it (R127, R129, R131). -/
theorem interpCause_unary_eq_none {c : Core} {accept : FmtKind → Bool} {d a : Fin 32} {k : MaskOp} (htag : tagOk (c.rv a).tag)
    (hfmt : accept (c.rv a).kind = true) (hemul : (c.rv a).kind = .flt .t16 → c.iss.emul = true)
    (hmerge : mergeOk c k d (c.rv a).tag.fmt (c.rv a).tag.scale) : interpCause c accept a [] k d = none := by
  refine vCause_eq_none_iff.mpr ⟨?_, ?_, ?_, not_emulated fun h => hemul (t16_iff.mp h)⟩
  · simp [not_marked_of_tagOk htag]
  · simp [not_reserved_of_tagCarries htag.carries]
  · simp [not_badScale_of_tagCarries htag.carries, hfmt, resultTag_of_tagOk htag, not_mergeBad_of_mergeOk hmerge]

/-- A carrying instruction of one source runs on every tag but POISON, the reserved ones and those of a wrong scale. -/
theorem carryCause_unary_eq_none {v : VReg} {mismatch : Bool} (htag : tagCarries v.tag) (hm : mismatch = false) :
    carryCause [v] mismatch = none := by
  simp [carryCause, vCause_eq_none_iff, not_isPoison_of_tagCarries htag, not_reserved_of_tagCarries htag,
    not_badScale_of_tagCarries htag, hm]

/-! ### The frame of a V syllable (Sys2Proof/Machine/VectorArith) -/

/-- A ready V syllable without a cause leaves its results in flight. -/
theorem vsyl_gives {s : State} {srcs : List Reg} {cause : Core → Option Cause} {body : Core → Core} {fs : List InFlight}
    (hready : Ready s srcs) (hcause : cause s.core.done = none) (hbody : body s.core.done = s.core.gives fs) :
    vsyl srcs cause body s = .next { s with core := s.core.gives fs } := by
  rw [vsyl, syl_ready hready] <;> simp only [hcause, hbody, gives_holds]

/-- One that writes a register under a mask leaves that register, its selected elements computed and the others by R129. -/
theorem vsyl_writeV {s : State} {srcs : List Reg} {cause : Core → Option Cause} {body : Core → Core} {lat : Nat} {k : MaskOp}
    {d : Fin 32} {t : Tag} {w : Nat} {el : Nat → Nat} (hready : Ready s srcs) (hcause : cause s.core.done = none)
    (hbody : body s.core.done = s.core.done.writeV lat k d t w el) :
    ∃ r : VReg, vsyl srcs cause body s = .next { s with core := s.core.gives (givesV s.core (latIf s.core lat) d r) } ∧
      r.tag = { t with poison := t.poison || mergedPoison s.core k d } ∧ holds s.core k d w r el :=
  ⟨_, vsyl_gives hready hcause (hbody.trans (writeV_gives ..)), rfl, holds_maskedImage s.core k d w el _⟩

theorem vSrcs_unary (a : Fin 32) (k : MaskOp) (d : Fin 32) : vSrcs a [] k d = .v a.val :: maskReads k (.v d.val) := by
  rw [vSrcs, maskSrcs_eq_maskReads]; rfl

/-- A ready interpreting instruction of one well-tagged source, in a format it takes, leaves its elements under A's tag. -/
theorem interp_unary {s : State} {accept : FmtKind → Bool} {lat : FmtKind → Nat} {el : Core → Nat → Nat} {d a : Fin 32} {k : MaskOp}
    (hready : Ready s (.v a.val :: maskReads k (.v d.val))) (htag : tagOk (s.core.rv a).tag) (hfmt : accept (s.core.rv a).kind = true)
    (hemul : (s.core.rv a).kind = .flt .t16 → s.core.iss.emul = true)
    (hmerge : mergeOk s.core k d (s.core.rv a).tag.fmt (s.core.rv a).tag.scale) :
    ∃ r : VReg, interp accept lat el d a [] k s =
        .next { s with core := s.core.gives (givesV s.core (latIf s.core (lat (s.core.rv a).kind)) d r) } ∧
      r.tag = ⟨(s.core.rv a).tag.fmt, (s.core.rv a).tag.scale, mergedPoison s.core k d⟩ ∧
      holds s.core k d (s.core.rv a).w r (el s.core.done) := by
  obtain ⟨r, hr, hrtag, hholds⟩ : ∃ r, interp accept lat el d a [] k s = _ ∧ _ ∧ _ := vsyl_writeV (vSrcs_unary a k d ▸ hready)
    (interpCause_unary_eq_none (c := s.core.done) htag hfmt hemul hmerge) rfl
  refine ⟨r, hr, ?_, hholds⟩
  simp only [hrtag, Core.done_rv, resultTag_of_tagOk htag, htag.not_poison, Bool.false_or]

end Sys2Proof.Machine

/-! PROOFS. The functions of R138 and R167: their results for special operands (O11). -/
namespace Sys2Proof.Machine

/-! ### Exact values that a format holds (Sys2Proof/Machine/VectorFn) -/

/-- The results that R124 fixes are a NaN, an infinity, a zero, a one or the half. -/
inductive Exact.IsFixed : Exact → Prop
  | nan : IsFixed .nan
  | inf (neg : Bool) : IsFixed (.inf neg)
  | zero (neg : Bool) : IsFixed (.zero neg)
  | one (neg : Bool) : IsFixed (.dy neg 1 0)
  | half : IsFixed (.dy false 1 (-1))

/-- A value that the format holds is its own rounding (R123). -/
theorem boundedMag_eq_roundTo {f : FloatFmt} {cmp : Nat → Int → Ordering} (b : Nat) (rm : Rm) (pins : Pins) (free : FnFree) (x : Nat)
    (neg : Bool) (htop : cmp (f.magVal f.maxMag).1 (f.magVal f.maxMag).2 ≠ .gt) (hne : floorMag f cmp ≠ 0)
    (heq : cmp (f.magVal (floorMag f cmp)).1 (f.magVal (floorMag f cmp)).2 = .eq) :
    boundedMag f b rm pins free x true neg cmp = roundTo f rm 0 (.num neg cmp) := by
  have hfind : findMag (fun k => k ≤ f.maxMag && cmp (f.magVal k).1 (f.magVal k).2 ≠ .lt) f.mBits 0 = floorMag f cmp :=
    congrArg (findMag · f.mBits 0) (funext fun k => by cases cmp (f.magVal k).1 (f.magVal k).2 <;> rfl)
  have hround : roundMag f rm neg cmp = floorMag f cmp := by
    simp only [roundMag, hfind]
    exact if_pos ⟨hne, heq⟩
  simp [boundedMag, roundTo, htop, hne, heq, hround]

/-- F32 and F64 hold one and the half as normal numbers. -/
theorem floorMag_one_half : ∀ f ∈ [FloatFmt.f32, .f64], ∀ e ∈ [0, (-1 : Int)],
    cmpDy 1 e (f.magVal f.maxMag).1 (f.magVal f.maxMag).2 ≠ .gt ∧ floorMag f (cmpDy 1 e) ≠ 0 ∧
      cmpDy 1 e (f.magVal (floorMag f (cmpDy 1 e))).1 (f.magVal (floorMag f (cmpDy 1 e))).2 = .eq := by
  decide +kernel

/-- A function whose value is one or the half gives it unrounded, and T16's are rounded in any case (R123). -/
theorem fnResult_one_half {f : FloatFmt} (hf : f ∈ [FloatFmt.f32, .f64] ∨ f = .t16) (b : Nat) (rm : Rm) (pins : Pins) (free : FnFree)
    (x : Nat) (neg : Bool) {e : Int} (he : e ∈ [0, (-1 : Int)]) :
    fnResult f b rm pins free x (sharpOf (.dy neg 1 e)) = roundTo f rm 0 (.dy neg 1 e) := by
  have hdy : Exact.dy neg 1 e = .num neg (cmpDy 1 e) := rfl
  simp only [hdy, fnResult, sharpOf]
  split
  · rfl
  next hne =>
    obtain ⟨htop, hfloor, heq⟩ := floorMag_one_half f (hf.resolve_right hne) e he
    exact boundedMag_eq_roundTo b rm pins free x neg htop hfloor heq

/-- The functions give the results that R124 fixes by RoundTo. -/
theorem fnResult_isFixed {f : FloatFmt} (hf : f ∈ [FloatFmt.f32, .f64] ∨ f = .t16) {y : Exact} (hy : y.IsFixed) (b : Nat) (rm : Rm)
    (pins : Pins) (free : FnFree) (x : Nat) : fnResult f b rm pins free x (sharpOf y) = roundTo f rm 0 y := by
  cases hy with
  | nan => rfl
  | inf neg => rfl
  | zero neg => rfl
  | one neg => exact fnResult_one_half hf b rm pins free x neg (by decide)
  | half => exact fnResult_one_half hf b rm pins free x false (by decide)

/-! ### Special operands (R124) -/

theorem special_eq_none (i : Instr) (n : Bool) {m : Nat} (e : Int) (hm : m ≠ 0) : special i (.fin n m e) = none := by
  unfold special
  exact if_pos hm

/-- A function given by R124's results at the infinities and the zeros answers with them. -/
theorem fnValue_of_special {i : Instr} {minus plus : Exact} {zero : Bool → Exact} {real : Bool → Nat → Int → FnValue}
    (fminus : minus.IsFixed) (fplus : plus.IsFixed) (fzero : ∀ n, (zero n).IsFixed) (hminus : special i (.inf true) = some minus)
    (hplus : special i (.inf false) = some plus) (hzero : ∀ n e, special i (.fin n 0 e) = some (zero n)) (x : FVal) (y : Exact)
    (h : special i x = some y) : fnValue minus plus zero real x = sharpOf y ∧ y.IsFixed := by
  cases x with
  | nan => cases h; exact ⟨rfl, .nan⟩
  | inf n =>
    cases n with
    | false => rw [hplus] at h; cases h; exact ⟨rfl, fplus⟩
    | true => rw [hminus] at h; cases h; exact ⟨rfl, fminus⟩
  | fin n m e =>
    by_cases hm : m = 0
    · subst hm; rw [hzero] at h; cases h; exact ⟨rfl, fzero n⟩
    · rw [special_eq_none i n e hm] at h; cases h

/-- The instructions of `functionForm` are the function instructions, each with R124's results. -/
theorem exec_of_functionForm {i : Instr} {d a : Fin 32} {k : MaskOp} {rm : Rm} {single : Bool}
    (h : functionForm i = some (d, a, k, rm, single)) :
    ∃ fn b pins value, (∀ s, exec i s = function fn (if single then rcpFormats else fnFormats)
        (if single then fun _ => 6 else fnLat) b pins value rm d a k s) ∧
      ∀ x y, special i x = some y → value x = sharpOf y ∧ y.IsFixed := by
  cases i with
  | vrcp => cases h; exact ⟨_, _, _, _, fun _ => rfl, fnValue_of_special (.zero _) (.zero _) .inf rfl rfl fun _ _ => rfl⟩
  | vrsq => cases h; exact ⟨_, _, _, _, fun _ => rfl, fnValue_of_special .nan (.zero _) .inf rfl rfl fun _ _ => rfl⟩
  | vexp => cases h; exact ⟨_, _, _, _, fun _ => rfl, fnValue_of_special (.zero _) (.inf _) (fun _ => .one _) rfl rfl fun _ _ => rfl⟩
  | vexp2 => cases h; exact ⟨_, _, _, _, fun _ => rfl, fnValue_of_special (.zero _) (.inf _) (fun _ => .one _) rfl rfl fun _ _ => rfl⟩
  | vlog => cases h; exact ⟨_, _, _, _, fun _ => rfl, fnValue_of_special .nan (.inf _) (fun _ => .inf _) rfl rfl fun _ _ => rfl⟩
  | vlog2 => cases h; exact ⟨_, _, _, _, fun _ => rfl, fnValue_of_special .nan (.inf _) (fun _ => .inf _) rfl rfl fun _ _ => rfl⟩
  | vtanh => cases h; exact ⟨_, _, _, _, fun _ => rfl, fnValue_of_special (.one _) (.one _) .zero rfl rfl fun _ _ => rfl⟩
  | vsigm => cases h; exact ⟨_, _, _, _, fun _ => rfl, fnValue_of_special (.zero _) (.one _) (fun _ => .half) rfl rfl fun _ _ => rfl⟩
  | verf => cases h; exact ⟨_, _, _, _, fun _ => rfl, fnValue_of_special (.one _) (.one _) .zero rfl rfl fun _ _ => rfl⟩
  | vsin => cases h; exact ⟨_, _, _, _, fun _ => rfl, fnValue_of_special .nan .nan .zero rfl rfl fun _ _ => rfl⟩
  | vcos => cases h; exact ⟨_, _, _, _, fun _ => rfl, fnValue_of_special .nan .nan (fun _ => .one _) rfl rfl fun _ _ => rfl⟩
  | _ => cases h

/-- A function on a well-tagged register of a float format it takes leaves its results of that format (R123, R135). -/
theorem function_gives {s : State} (fn : Nat) {accept : FmtKind → Bool} (lat : FmtKind → Nat) (b : Nat) (pins : Pins)
    (value : FVal → FnValue) (rm : Rm) {d a : Fin 32} {k : MaskOp} {g : FloatFmt}
    (hready : Ready s (.v a.val :: maskReads k (.v d.val))) (htag : tagOk (s.core.rv a).tag) (hkind : (s.core.rv a).kind = .flt g)
    (hfmt : accept (.flt g) = true) (hemul : g = .t16 → s.core.iss.emul = true)
    (hmerge : mergeOk s.core k d (s.core.rv a).tag.fmt (s.core.rv a).tag.scale) :
    ∃ (r : VReg) (free : FnFree), function fn accept lat b pins value rm d a k s =
        .next { s with core := s.core.gives (givesV s.core (latIf s.core (lat (.flt g))) d r) } ∧
      r.tag = ⟨(s.core.rv a).tag.fmt, (s.core.rv a).tag.scale, mergedPoison s.core k d⟩ ∧
      holds s.core k d g.bytes r fun e => fnResult g b rm pins free ((s.core.rv a).bits e) (value ((s.core.rv a).val e)) := by
  obtain ⟨r, hr, htag', hholds⟩ := interp_unary (accept := accept) (lat := lat) hready htag (hkind ▸ hfmt)
    (fun h => hemul (by simpa [hkind] using h)) hmerge
  refine ⟨r, ⟨Config.function fn rm.code (s.core.rv a).tag.fmt.toNat, Config.functionReach fn rm.code (s.core.rv a).tag.fmt.toNat⟩,
    hkind ▸ hr, htag', ?_⟩
  simpa [VReg.w, hkind, FmtKind.bytes] using hholds

/-- Settles O11: each instruction is a function with R124's results, which RoundTo gives in every format the function takes. -/
theorem vectorFunctions : Obligations.VectorFunctions := by
  intro i s d a k rm single g hform hready hkind hfmt htag hmerge lat
  obtain ⟨fn, b, pins, value, hexec, hspecial⟩ := exec_of_functionForm hform
  have hscale : (s.core.rv a).tag.scale = 0 := by
    obtain ⟨-, -, -, hscaled⟩ := htag
    refine hscaled.resolve_left ?_
    rcases hfmt with rfl | ⟨-, rfl | ⟨rfl, -⟩⟩ <;> simp [hkind, FmtKind.scaled]
  have haccept : (if single then rcpFormats else fnFormats) (.flt g) = true := by
    rcases hfmt with rfl | ⟨rfl, rfl | ⟨rfl, -⟩⟩
    · cases single <;> rfl
    · rfl
    · rfl
  have hheld : g ∈ [FloatFmt.f32, .f64] ∨ g = .t16 := by
    rcases hfmt with rfl | ⟨-, rfl | ⟨rfl, -⟩⟩ <;> decide
  have hemul : g = .t16 → s.core.iss.emul = true := by
    rcases hfmt with rfl | ⟨-, rfl | ⟨rfl, he⟩⟩ <;> simp [*]
  have hlat : (if single then fun _ => 6 else fnLat) (.flt g) = lat := by
    cases single
    · simp [lat, fnLat]
    · rfl
  obtain ⟨r, free, hrun, hrtag, hholds⟩ := function_gives fn (if single then fun _ => 6 else fnLat) b pins value rm hready htag hkind
    haccept hemul (hscale ▸ hmerge)
  refine ⟨r, by rw [hexec, hrun, hlat], by rw [hrtag, hscale], fun e he => ⟨fun hsel => ?_, fun y hsel hy => ?_⟩⟩
  · simpa [hsel] using hholds e he
  · obtain ⟨hvalue, hfixed⟩ := hspecial _ y hy
    simpa [hsel, hvalue, fnResult_isFixed hheld hfixed] using hholds e he

end Sys2Proof.Machine

/-! PROOFS. Conversion, scaling, tags, moves and broadcast (O13). -/
namespace Sys2Proof.Machine

/-! ### Rounding to integers (R116, R121) -/

theorem intMin_eq_intLow (sg : Bool) (n : Nat) : intMin sg n = intLow sg n := by cases sg <;> simp [intMin, intLow]
theorem intMax_eq_intHigh (sg : Bool) (n : Nat) : intMax sg n = intHigh sg n := by cases sg <;> simp [intMax, intHigh]
theorem satInt_eq (sg : Bool) (n : Nat) (z : Int) :
    satInt sg n z = if z < intLow sg n then intLow sg n else if intHigh sg n < z then intHigh sg n else z := by
  rw [satInt, intMin_eq_intLow, intMax_eq_intHigh]

/-- RoundToInt of the magnitude m / d, as `roundInt` picks it: the quotient where d divides m, else that or the next (R116). -/
def roundQuot (rm : Rm) (neg : Bool) (m d : Nat) : Nat :=
  if m % d = 0 then m / d else pick rm neg (compare (2 * (m % d)) d) (m / d)

theorem roundInt_eq (rm : Rm) (neg : Bool) (m : Nat) (e : Int) :
    roundInt rm neg m e = if neg then -(roundQuot rm neg (m * 2 ^ e.toNat) (2 ^ (-e).toNat) : Int)
      else roundQuot rm neg (m * 2 ^ e.toNat) (2 ^ (-e).toNat) := by
  by_cases he : 0 ≤ e
  · have hd : (-e).toNat = 0 := by omega
    simp [roundInt, roundQuot, he, hd, Nat.mod_one]
  · have hd : e.toNat = 0 := by omega
    simp [roundInt, roundQuot, he, hd]

/-- `pick` by the remainder r of a quotient q: the mode compares twice r with d. -/
theorem pick_compare (rm : Rm) (neg : Bool) (r d q : Nat) : pick rm neg (compare (2 * r) d) q =
    match rm with
    | .rne => if 2 * r < d then q else if d < 2 * r then q + 1 else if q % 2 = 0 then q else q + 1
    | .rna => if 2 * r < d then q else q + 1
    | .rtz => q
    | .rup => if neg then q else q + 1
    | .rdn => if neg then q + 1 else q
    | .odd => if q % 2 = 1 then q else q + 1 := by
  rcases Nat.lt_trichotomy (2 * r) d with hc | hc | hc
  · rw [Nat.compare_eq_lt.mpr hc]
    cases rm <;> simp only [pick, if_pos hc]
  · rw [Nat.compare_eq_eq.mpr hc]
    cases rm <;> simp only [pick, hc, if_neg (Nat.lt_irrefl d)]
  · rw [Nat.compare_eq_gt.mpr hc]
    cases rm <;> simp only [pick, if_pos hc, if_neg (Nat.lt_asymm hc)]

/-- Rounding a quotient that is not negative. -/
theorem intRound_natCast (rm : Rm) (m d : Nat) : intRound rm m d = roundQuot rm false m d := by
  have hq : (m : Int) / d = (m / d : Nat) := rfl
  have hr : (m : Int) % d = (m % d : Nat) := rfl
  simp only [intRound, roundQuot, hq, hr, pick_compare]
  generalize m / d = q, m % d = r
  cases rm <;> simp only [reduceIte, Bool.false_eq_true] <;> (repeat' split) <;> omega

/-- Rounding a negative quotient. -/
theorem intRound_neg_natCast (rm : Rm) (m : Nat) {d : Nat} (hd : 0 < d) : intRound rm (-m) d = -(roundQuot rm true m d : Int) := by
  have hdiv : (d : Int) * (m / d : Nat) + (m % d : Nat) = m := by exact_mod_cast Nat.div_add_mod m d
  have hlt := Nat.mod_lt m hd
  by_cases h0 : m % d = 0
  · have hdvd : (d : Int) ∣ m := Int.natCast_dvd_natCast.mpr (Nat.dvd_of_mod_eq_zero h0)
    have hz : -(m : Int) % d = 0 := Int.emod_eq_zero_of_dvd (Int.dvd_neg.mpr hdvd)
    simp only [intRound, roundQuot, if_pos h0, if_pos hz, Int.neg_ediv_of_dvd hdvd, Int.natCast_ediv]
  · have hpos : 0 < m := Nat.pos_of_ne_zero fun h => h0 (by rw [h, Nat.zero_mod])
    obtain ⟨hq, hr⟩ : -(m : Int) / d = -(m / d : Nat) - 1 ∧ -(m : Int) % d = d - (m % d : Nat) :=
      (Int.ediv_emod_unique (by omega)).mpr ⟨by rw [Int.mul_sub, Int.mul_neg, Int.mul_one]; omega, by omega, by omega⟩
    simp only [intRound, roundQuot, hq, hr, pick_compare]
    generalize m / d = q at *
    generalize m % d = r at *
    cases rm <;> simp only [reduceIte] <;> (repeat' split) <;> omega

/-- RoundToInt of a signed magnitude is the rounding of its quotient (R116). -/
theorem roundInt_eq_intRound (rm : Rm) (neg : Bool) (m : Nat) (e : Int) :
    roundInt rm neg m e =
      intRound rm (if neg = true then -((m * 2 ^ e.toNat : Nat) : Int) else (m * 2 ^ e.toNat : Nat)) (2 ^ (-e).toNat) := by
  rw [roundInt_eq]
  cases neg with
  | false => exact (intRound_natCast ..).symm
  | true => exact (intRound_neg_natCast rm _ (Nat.two_pow_pos _)).symm

/-- A conversion to an integer format gives the integer that R121 names, wrapped. -/
theorem convertVal_int (sg : Bool) (n : Nat) (rm : Rm) (scale : Int) (v : FVal) :
    convertVal (.int sg n) rm scale v = wrapInt n (intOf sg n rm v) := by
  rcases v with _ | (_ | _) | ⟨neg, m, e⟩
  · rfl
  · exact congrArg (wrapInt n) (intMax_eq_intHigh sg n)
  · exact congrArg (wrapInt n) (intMin_eq_intLow sg n)
  · refine congrArg (wrapInt n) ?_
    dsimp only
    rw [satInt_eq, roundInt_eq_intRound]
    rfl

theorem wrapInt_cast (n : Nat) (x : Int) : (wrapInt n x : Int) = x % 2 ^ (8 * n) := by
  have hpos : (0 : Int) < (2 ^ (8 * n) : Nat) := Int.natCast_pos.mpr (Nat.two_pow_pos _)
  rw [wrapInt, Int.toNat_of_nonneg (Int.emod_nonneg _ (Int.ne_of_gt hpos)), Int.natCast_pow]
  rfl

/-- Conversion follows R121's table. -/
theorem convertCode_says (src dst : FmtKind) (rm : Rm) (scale : Int) (code : Nat) :
    convertSays dst rm (valOf src scale code) (convertCode src dst rm scale code) := by
  refine ⟨?_, ?_⟩
  · rintro f rfl; rfl
  · rintro sg n rfl
    rw [convertCode, convertVal_int, wrapInt_cast]

/-! ### The instructions (R139, R147 to R151) -/

theorem ne_of_numbers {k : FmtKind} (h : numbers k = true) : k ≠ .raw ∧ k ≠ .reserved := by
  cases k <;> simp_all [numbers]

/-- VCVT (R147): a source of numbers, converted element by element; where the source has no element, zeros. -/
theorem execVcvt_gives {s : State} (rm : Rm) {d a : Fin 32} {fmt : Fmt} {k : MaskOp} {x : VReg} (hx : s.core.rv a = x)
    (hready : Ready s (.v a.val :: maskReads k (.v d.val))) (htag : tagOk x.tag) (hsrc : numbers x.kind = true)
    (hdst : numbers (fmtKind fmt) = true) (hemul : x.kind = .flt .t16 ∨ fmtKind fmt = .flt .t16 → s.core.iss.emul = true)
    (hmerge : mergeOk s.core k d fmt 0) {w : Nat} (hw : (fmtKind fmt).bytes = w) :
    ∃ r : VReg, execVcvt rm d a fmt k s = .next { s with core := s.core.gives (givesV s.core (latIf s.core 3) d r) } ∧
      r.tag = ⟨fmt, 0, mergedPoison s.core k d⟩ ∧
      ∀ e, e < 512 / w → bitsAt r.data w e =
        if 512 / x.w ≤ e then 0
        else if selects s.core k w e = true then convertCode x.kind (fmtKind fmt) rm x.tag.scale.toInt (x.bits e) % 2 ^ (8 * w)
        else unselected s.core k d w e := by
  subst hx hw
  refine ⟨_, vsyl_gives (vSrcs_unary a k d ▸ hready) ?_ (wv_gives ..), ?_, fun e he => ?_⟩
  · obtain ⟨hraw, -⟩ := ne_of_numbers hsrc
    obtain ⟨hraw', hres'⟩ := ne_of_numbers hdst
    have hbad : mergeBad s.core k d ⟨fmt, 0, false⟩ = false := not_mergeBad_of_mergeOk hmerge
    refine vCause_eq_none_iff.mpr ⟨not_marked_of_tagOk htag, ?_, ?_, not_emulated ?_⟩
    · simp [not_reserved_of_tagCarries htag.carries, isReserved, hres']
    · exact Bool.or_eq_false_iff.mpr ⟨by simp [hraw, hraw', not_badScale_of_tagCarries htag.carries], hbad⟩
    · simpa [t16_iff] using hemul
  · exact congrArg (Tag.mk fmt 0) (merges_and_poison ..)
  · rw [bitsAt_mkImage _ he]
    have hmin : min (elems (s.core.rv a).w) (elems (fmtKind fmt).bytes) ≤ e ↔ 512 / (s.core.rv a).w ≤ e := by
      simp only [elems]; omega
    simp only [Core.done_rv, hmin, active_eq_selects, merged_or_zero]
    rw [apply_ite (· % 2 ^ (8 * (fmtKind fmt).bytes)), apply_ite (· % 2 ^ (8 * (fmtKind fmt).bytes)), unselected_mod, Nat.zero_mod]
    rfl

/-- Enc under a well-formed tag (R128, R135). -/
theorem enc_eq_encAs {v : VReg} (h : tagOk v.tag) (rm : Rm) (x : Int) (y : Exact) : enc v rm x y = encAs v rm x y := by
  rw [enc, resultTag_of_tagOk h]
  cases hk : v.kind <;> simp_all [encAs, wrapInt, VReg.kind]

theorem exists_of_floats {k : FmtKind} (h : floats k = true) : ∃ f, k = .flt f := by
  cases k with
  | flt f => exact ⟨f, rfl⟩
  | _ => cases h

/-- VSCALE (R139): each element of A times the power of two that B's holds. -/
theorem execVscale_gives {s : State} (rm : Rm) {d a b : Fin 32} {k : MaskOp} {x y : VReg} (hx : s.core.rv a = x) (hy : s.core.rv b = y)
    (hready : Ready s (.v a.val :: .v b.val :: maskReads k (.v d.val))) (htagx : tagOk x.tag) (htagy : tagOk y.tag)
    (hfloat : floats x.kind = true) (hint : y.kind = .int true x.w) (hemul : x.kind = .flt .t16 → s.core.iss.emul = true)
    (hmerge : mergeOk s.core k d x.tag.fmt x.tag.scale) :
    ∃ r : VReg, execVscale rm d a b k s = .next { s with core := s.core.gives (givesV s.core (latIf s.core 4) d r) } ∧
      r.tag = ⟨x.tag.fmt, x.tag.scale, mergedPoison s.core k d⟩ ∧
      holds s.core k d x.w r fun e => encAs x rm 0 (.ofVal ((x.val e).shift (y.int e))) := by
  subst hx hy
  obtain ⟨f, hf⟩ := exists_of_floats hfloat
  have hbad : mergeBad s.core k d (resultTag (s.core.rv a)) = false := by
    rw [resultTag_of_tagOk htagx]; exact not_mergeBad_of_mergeOk hmerge
  obtain ⟨r, hr, hrtag, hholds⟩ : ∃ r, execVscale rm d a b k s = _ ∧ _ ∧ _ := by
    refine vsyl_writeV (by rwa [vSrcs, maskSrcs_eq_maskReads]) (vCause_eq_none_iff.mpr ⟨?_, ?_, ?_, not_emulated ?_⟩) rfl
    · simp [not_marked_of_tagOk htagx, not_marked_of_tagOk htagy]
    · simp [not_reserved_of_tagCarries htagx.carries, not_reserved_of_tagCarries htagy.carries]
    · refine Bool.or_eq_false_iff.mpr ⟨?_, hbad⟩
      simp [hf, FmtKind.isFloat, hint, not_badScale_of_tagCarries htagx.carries, not_badScale_of_tagCarries htagy.carries]
    · exact fun h => hemul (t16_iff.mp h)
  refine ⟨r, ?_, ?_, ?_⟩
  · rw [hr, Core.done_rv, hf]; rfl
  · simp only [hrtag, Core.done_rv, resultTag_of_tagOk htagx, htagx.not_poison, Bool.false_or]
  · simpa only [Core.done_rv, enc_eq_encAs htagx] using hholds

/-- VTAG (R148): the bits of A under the tag given. -/
theorem execVtag_gives {s : State} {d a : Fin 32} {fmt : Fmt} {scale : BitVec 8} (poison : Bool) (hready : Ready s [.v a.val])
    (ha : (s.core.rv a).tag.fmt ≠ fmtPoison) (htag : tagCarries ⟨fmt, scale, false⟩ ∨ fmt = fmtPoison ∧ scale = 0) :
    execVtag d a fmt scale poison s = .next { s with core := s.core.gives (givesV s.core (latIf s.core 2) d
      ⟨(s.core.rv a).data, ⟨fmt, scale, (s.core.rv a).tag.poison || poison⟩⟩) } := by
  refine vsyl_gives hready (vCause_eq_none_iff.mpr ⟨decide_eq_false ha, ?_, ?_, rfl⟩) (wv_gives ..)
  · rcases htag with htag | ⟨rfl, rfl⟩
    · exact not_isReserved_of_tagCarries htag
    · rfl
  · rcases htag with htag | ⟨rfl, rfl⟩
    · exact not_badScale_of_tagCarries htag
    · rfl

/-- VMOV under no mask (R149) copies the register. -/
theorem execVmov_all_gives {s : State} {d a : Fin 32} (hready : Ready s [.v a.val]) : execVmov d a .all s =
    .next { s with core := s.core.gives (givesV s.core (latIf s.core 2) d (s.core.rv a)) } :=
  vsyl_gives (cause := fun _ => none) (body := fun c => c.wv (c.lat 2) d (c.rv a)) hready rfl rfl

/-- VMOV under a mask (R149) carries A's elements and poison bit into the destination. -/
theorem execVmov_mask_gives {s : State} {d a : Fin 32} {m : Fin 8} {z : Bool} {x : VReg} (hx : s.core.rv a = x)
    (hready : Ready s (.v a.val :: maskReads (.mask m z) (.v d.val))) (htag : tagCarries x.tag)
    (hmerge : mergeOk s.core (.mask m z) d x.tag.fmt x.tag.scale) :
    ∃ r : VReg, execVmov d a (.mask m z) s =
        .next { s with core := s.core.gives (givesV s.core (latIf s.core 2) d r) } ∧
      r.tag = { x.tag with poison := x.tag.poison || mergedPoison s.core (.mask m z) d } ∧
      holds s.core (.mask m z) d x.w r x.bits := by
  subst hx
  exact vsyl_writeV (vSrcs_unary a (.mask m z) d ▸ hready)
    (carryCause_unary_eq_none (v := s.core.rv a) htag (not_mergeBad_of_mergeOk (c := s.core.done) hmerge)) rfl

/-- The value of an unscaled float code is its decoding. -/
theorem valOf_f32 (code : Nat) : valOf (.flt .f32) 0 code = FloatFmt.f32.decode code := by
  simp only [valOf, FmtKind.scaled]
  split <;> simp_all

/-- VMOVI's pattern is R150's, to the width of an element. -/
theorem vmoviPattern_mod (fmt : Fmt) (imm : BitVec 32) :
    vmoviPattern fmt imm % 2 ^ (8 * (fmtKind fmt).bytes) = immPattern fmt imm % 2 ^ (8 * (fmtKind fmt).bytes) := by
  unfold vmoviPattern immPattern
  generalize fmtKind fmt = k
  cases k with
  | int sg n =>
    by_cases h : n = 8 ∧ sg = true
    · obtain ⟨rfl, rfl⟩ := h; rfl
    · simp only [if_neg h]
      split
      next heq => cases heq; exact absurd ⟨rfl, rfl⟩ h
      next heq => cases heq
      next => simp [FmtKind.clean, FmtKind.bytes]
  | flt f =>
    cases f with
    | f64 => simp only [convertCode, convertVal, valOf_f32]
    | _ => simp [FmtKind.clean]
  | _ => simp [FmtKind.clean]

/-- VMOVI (R150): one pattern in every element. -/
theorem execVmovi_gives {s : State} {d : Fin 32} (imm : BitVec 32) {fmt : Fmt} (hready : Ready s []) (hres : fmtKind fmt ≠ .reserved)
    (hemul : fmtKind fmt = .flt .t16 → s.core.iss.emul = true) :
    ∃ r : VReg, execVmovi d imm fmt s = .next { s with core := s.core.gives (givesV s.core (latIf s.core 2) d r) } ∧
      r.tag = ⟨fmt, 0, false⟩ ∧ ∀ e, e < 512 / (fmtKind fmt).bytes →
        bitsAt r.data (fmtKind fmt).bytes e = immPattern fmt imm % 2 ^ (8 * (fmtKind fmt).bytes) := by
  obtain ⟨r, hr, hrtag, hholds⟩ : ∃ r, execVmovi d imm fmt s = _ ∧ _ ∧ _ :=
    vsyl_writeV hready (vCause_eq_none_iff.mpr ⟨rfl, decide_eq_false hres, rfl, not_emulated fun h => hemul (of_decide_eq_true h)⟩) rfl
  exact ⟨r, hr, hrtag, fun e he => (hholds e he).trans (vmoviPattern_mod fmt imm)⟩

/-- VBCAST (R151): one element of A in every place. -/
theorem execVbcast_gives {s : State} {d a : Fin 32} (n : Fin 128) {x : VReg} (hx : s.core.rv a = x) (hready : Ready s [.v a.val])
    (htag : tagCarries x.tag) :
    ∃ r : VReg, execVbcast d a n s = .next { s with core := s.core.gives (givesV s.core (latIf s.core 6) d r) } ∧
      r.tag = x.tag ∧ ∀ e, e < 512 / x.w → bitsAt r.data x.w e = x.bits (n.val % (512 / x.w)) := by
  subst hx
  obtain ⟨r, hr, hrtag, hholds⟩ : ∃ r, execVbcast d a n s = _ ∧ _ ∧ _ :=
    vsyl_writeV hready (carryCause_unary_eq_none (v := s.core.rv a) htag rfl) rfl
  refine ⟨r, hr, ?_, fun e he => (hholds e he).trans (bitsAt_mod ..)⟩
  rw [hrtag]
  simp [mergedPoison]

/-- Settles O13: one lemma per instruction, and R121's table for the conversion. -/
theorem vectorConversionAndTags : Obligations.VectorConversionAndTags :=
  ⟨fun rm _ _ _ _ _ hready htag hsrc hdst hemul hmerge => execVcvt_gives rm rfl hready htag hsrc hdst hemul hmerge rfl,
   fun rm _ _ _ _ _ hready hx hy hf hi hemul hmerge => execVscale_gives rm rfl rfl hready hx hy hf hi hemul hmerge,
   fun _ _ _ _ poison _ hready ha htag => execVtag_gives poison hready ha htag,
   fun _ _ _ hready => execVmov_all_gives hready,
   fun _ _ _ _ _ hready htag hmerge => execVmov_mask_gives rfl hready htag hmerge,
   fun _ imm _ _ hready hres hemul => execVmovi_gives imm hready hres hemul,
   fun _ _ n _ hready htag => execVbcast_gives n rfl hready htag,
   convertCode_says⟩

end Sys2Proof.Machine
